-- ==== Sys2Proof/Word.lean ====
section
/-! DEFINITION. The machine's word types (spec/00_scope.md R12, R18; spec/08_memory_hierarchy.md R210, R212). -/

namespace Sys2Proof

/-- One byte of memory. -/
abbrev Byte := BitVec 8

/-- A 16-bit code word (R311). -/
abbrev Half := BitVec 16

/-- A 64-bit register value (R185, R345). -/
abbrev Word := BitVec 64

/-- A device virtual address: 56 bits (R210). -/
abbrev VAddr := BitVec 56

/-- A core identifier: 32 bits (R7). -/
abbrev CoreId := BitVec 32

/-- A cause code: 9 bits, group and sub-code (R280). -/
abbrev Cause := BitVec 9

/-- A map from a number to a value, keys strictly rising; an unlisted key reads as a default that the reader names
(`Sys2Proof/Machine/Base.lean` reads and writes it). -/
abbrev Sparse (α : Type) := List (Nat × α)

end Sys2Proof
end

