-- ==== Sys2Proof/Config.lean ====
section
/-! DEFINITION. What an implementation fixes and the manual does not print: opaque constants that no proof can see
into (log entries 6 and 8). A statement about them holds for every value.
Log entries: 6, 10 (DESIGN CHOICE); 8 (DESIGN CHOICE and PRESUMED). -/

namespace Sys2Proof.Config

/-- What R28 leaves open of the CRC-32 of its polynomial: the value that the register starts from, the word added at the end, and
whether a byte enters with its low bit first and the result is read in that order. -/
opaque crcStart : BitVec 32
opaque crcFinal : BitVec 32
opaque crcLow : Bool

/-- The flit type of a flit that carries a payload; a flit that carries an acknowledgement alone has the type after it (R28 prints
no types). -/
opaque flitType : BitVec 4

/-- The payload of a flit that carries a message, by the message's place in the order sent: the manual gives the
payload no format. -/
opaque flitPayload : Nat → BitVec 960

/-- The edge and the port of the edge that a message takes, by its source and target identifiers (R31): the manual
prints no routes. -/
opaque routeEdge : Nat → Nat → Fin 4
opaque routePort : Nat → Nat → Fin 4

/-- The die that owns a port (R30). -/
opaque portDie : Fin 16 → Fin 8

/-- The rail current of a die below its limit, in amperes (R42). -/
opaque railAmps : Nat → Fin 2000

/-- Whether a signature over a digest verifies against a vendor key: ECDSA on P-521 (R108). -/
opaque vendorOk : BitVec 512 → List Byte → List Byte → Bool

/-- The SHA-512 hashes of the vendor keys that the four key slots have fused, and the slots marked revoked (R108). -/
opaque keyHash : Fin 4 → BitVec 512
opaque keyRevoked : Fin 4 → Bool

/-- The 132 signature bytes, r then s, by the device identity key (R110, R111). -/
opaque identitySign : List Byte → List Byte

/-- The 132 signature bytes, r then s, by the module's checkpoint key (R132). -/
opaque checkpointSign : List Byte → List Byte

/-- Whether a manifest, its signature and a certificate pass the checks of R134 step 1; an empty certificate stands
for the module's own. -/
opaque manifestOk : List Byte → List Byte → List Byte → Bool

/-- The order of the bytes of a context shard of a given length (R130), as swaps of two places: the manual prints no
layout of it. -/
opaque shardSwaps : Nat → List (Nat × Nat)

/-- The device serial number (R111, R132). -/
opaque serial : BitVec 64

/-- The three certificates of R112, DER. -/
opaque identityCert : List Byte
opaque checkpointCert : List Byte
opaque authorityCert : List Byte

/-- The parts of a firmware slot that are measured (R108, R111): management firmware, die firmware, default courier program and reset
decode tables. The manual prints no layout of a slot. -/
opaque measured : List Byte → Fin 4 → List Byte

/-- The fused minimum security version (R108, R109). -/
opaque minSvn : BitVec 8

/-- Byte i of a dump's header, from the fields that R126 lists: the manual places only some of them. -/
opaque dumpHeader : List Nat → Nat → Byte

/-- Byte i of a dump's secondary record, from its cause, core identifier and DIE_CYCLE (R126). -/
opaque dumpSecondary : List Nat → Nat → Byte

/-- The 16-byte word of a mailbox in a core save image, from FULL, the fibre number and the task (R289). -/
opaque mailboxWord : Bool → Nat → Nat → BitVec 128

/-- CLU_DBGSTAT.SRC of a halt that no core triggers (R304). -/
opaque haltSrc : Nat → BitVec 32

/-- A free value: one the manual leaves open after an operation that goes on (log entry 6). -/
opaque freeByte : Nat → Byte

/-- The severity of an event code for which the manual states none (R122, R123). -/
opaque eventSev : Nat → Fin 4

/-- The code for a value beyond a decode table that holds infinities of the other sign only: R259 and R260 name no
code there. The argument is the sign. -/
opaque noCode : Bool → Byte

end Sys2Proof.Config
end

