-- ==== Sys2Proof/Syntax.lean ====
section
/-! DEFINITION. The instructions and events of spec/opcode_table.json, one constructor per row. The rows with an
encoding are instructions of programs (spec/13_isa_formats.md, spec/14_opcode_map.md); the rows without one are the
part's other steps (spec/95_what_each_step_holds.md).
Log entries: 45 (DEDUCED). -/

namespace Sys2Proof

/-- A register of class G by its widened number: 0–7 are a0–a7 and 8–39 are s0–s31 (R318, R319). -/
abbrev GReg := Fin 40

/-- A handle h0–h15 (R318). -/
abbrev HReg := Fin 16

/-- A register of one of the classes F, C, K, B, MB, or an accumulator number (R318, R404). -/
abbrev QReg := Fin 4

/-- The hint bits H0 and H1 of a MOD prefix; H2 traps at decode (R324). -/
structure Hints where
  h0 : Bool := false
  h1 : Bool := false
deriving DecidableEq, Repr

/-- The arithmetic view of a MOD prefix (R321); the default is the fate of no prefix (R322). -/
structure AMod where
  fsel  : Fin 4 := 0
  rnd   : Fin 4 := 0
  hints : Hints := {}
deriving DecidableEq, Repr

/-- The memory view of a MOD prefix (R321); the default is the fate of no prefix: plain, fabric scope (R322). -/
structure MMod where
  scope : Fin 5 := 4
  order : Fin 4 := 0
  hints : Hints := {}
deriving DecidableEq, Repr

/-- An RR form with an optional third register (R320, R349, R352). -/
structure OpRR where
  d : GReg
  s : GReg
  t : Option GReg := none
  hints : Hints := {}
deriving DecidableEq, Repr

/-- An RR form that requires its third register (R354). -/
structure OpRR3 where
  d : GReg
  s : GReg
  t : GReg
  hints : Hints := {}
deriving DecidableEq, Repr

/-- A single-operand RF form (R355). -/
structure OpRF where
  d : GReg
  t : Option GReg := none
  hints : Hints := {}
deriving DecidableEq, Repr

/-- An RF form of one register (R356, R358). -/
structure OpD where
  d : GReg
  hints : Hints := {}
deriving DecidableEq, Repr

/-- An RI form: a signed immediate of up to 29 bits (R351). -/
structure OpRI where
  d : GReg
  imm : BitVec 29
  t : Option GReg := none
  hints : Hints := {}
deriving DecidableEq, Repr

/-- LI: one source, the immediate (R351). -/
structure OpLI where
  d : GReg
  imm : BitVec 29
  hints : Hints := {}
deriving DecidableEq, Repr

/-- LEA (R356): the displacement counts bytes. -/
structure OpLea where
  d : GReg
  b : GReg
  disp : BitVec 25
  t : Option GReg := none
  hints : Hints := {}
deriving DecidableEq, Repr

/-- LOOP (R359): the immediate counts 2-byte units. -/
structure OpLoop where
  d : GReg
  imm : BitVec 29
deriving DecidableEq, Repr

/-- An RM load or store (R360, R364): the displacement counts access sizes. -/
structure OpMem where
  d : GReg
  b : GReg
  disp : BitVec 25
  t : Option GReg := none
  m : MMod := {}
deriving DecidableEq, Repr

/-- A memory-view RR form of two registers (R360). -/
structure OpM2 where
  d : GReg
  s : GReg
  m : MMod := {}
deriving DecidableEq, Repr

/-- A memory-view RR form that requires RT (R360). -/
structure OpM3 where
  d : GReg
  s : GReg
  t : GReg
  m : MMod := {}
deriving DecidableEq, Repr

/-- A memory-view RR form with a zero RD field and RT: ACCADD (R360). -/
structure OpMst where
  s : GReg
  t : GReg
  m : MMod := {}
deriving DecidableEq, Repr

/-- A memory-view form of one register (R360, R404). -/
structure OpM1 where
  r : GReg
  m : MMod := {}
deriving DecidableEq, Repr

/-- A memory-view form of a mailbox or barrier register and a general one (R360). -/
structure OpMQ where
  q : QReg
  r : GReg
  m : MMod := {}
deriving DecidableEq, Repr

/-- A memory-view form of one barrier register: BARARV (R360). -/
structure OpMQ1 where
  q : QReg
  m : MMod := {}
deriving DecidableEq, Repr

/-- A form of majors 0x16 and 0x17 with two registers (R427). -/
structure OpDS where
  d : GReg
  s : GReg
deriving DecidableEq, Repr

/-- FSPAWN (R434). -/
structure OpDST where
  d : GReg
  s : GReg
  t : GReg
deriving DecidableEq, Repr

/-- A two-source vector form: in place without RT, produced with it (R383). -/
structure OpV2 where
  d : HReg
  s : HReg
  t : Option HReg := none
  m : AMod := {}
deriving DecidableEq, Repr

/-- A three-source vector form (R383). -/
structure OpV3 where
  d : HReg
  s : HReg
  t : HReg
  m : AMod := {}
deriving DecidableEq, Repr

/-- A one-source vector form (R383). -/
structure OpV1 where
  d : HReg
  s : HReg
  m : AMod := {}
deriving DecidableEq, Repr

/-- An RF vector form (R383). -/
structure OpVF where
  d : HReg
  t : Option HReg := none
  m : AMod := {}
deriving DecidableEq, Repr

/-- VGATHER and VSCATTER: data handle, register pair, index handle (R400). -/
structure OpVG where
  d : HReg
  s : GReg
  t : HReg
  m : AMod := {}
deriving DecidableEq, Repr

/-- VBCAST (R401). -/
structure OpVB where
  d : HReg
  s : GReg
  m : AMod := {}
deriving DecidableEq, Repr

/-- MMA and MMAS (R404): accumulator, the two keep bits, and the operand handles. -/
structure OpMma where
  q : QReg
  keepA : Bool := false
  keepB : Bool := false
  ha : HReg
  hb : HReg
  m : AMod := {}
deriving DecidableEq, Repr

/-- MMRD (R404). -/
structure OpMmrd where
  d : HReg
  q : QReg
  m : AMod := {}
deriving DecidableEq, Repr

/-- MMCLR and SKSET: an accumulator or stream and a general register (R404). -/
structure OpQG where
  q : QReg
  s : GReg
  m : AMod := {}
deriving DecidableEq, Repr

/-- MMRC (R413). -/
structure OpGG where
  d : GReg
  s : GReg
  m : AMod := {}
deriving DecidableEq, Repr

/-- A ring-control form of a handle and a general register (R422, R423). -/
structure OpHG where
  h : HReg
  s : GReg
  m : AMod := {}
deriving DecidableEq, Repr

/-- RUNBIND (R422). -/
structure OpH where
  h : HReg
  m : AMod := {}
deriving DecidableEq, Repr

/-- The remote form of ADVT (R423): the count and the remote ring's name. -/
structure OpAdvtR where
  s : GReg
  t : GReg
  m : AMod := {}
deriving DecidableEq, Repr

/-- A B.cc word (R341, R358): the offset counts 2-byte units. -/
structure OpBC where
  cc : Fin 8
  off : BitVec 30
deriving DecidableEq, Repr

/-- The machine's steps. The events have no operands here: the machine's event latch holds what an event concerns
and what came from outside with it (`Sys2Proof/Machine/Event.lean`). -/
inductive Instr where
  -- Scalar (R349–R359)
  | add (o : OpRR) | sub (o : OpRR) | and (o : OpRR) | or (o : OpRR) | xor (o : OpRR)
  | shl (o : OpRR) | shr (o : OpRR) | sar (o : OpRR)
  | addc (o : OpRR) | subc (o : OpRR) | mul (o : OpRR) | mulh (o : OpRR) | mulhu (o : OpRR)
  | div (o : OpRR) | divu (o : OpRR) | rem (o : OpRR) | remu (o : OpRR)
  | min (o : OpRR) | max (o : OpRR) | minu (o : OpRR) | maxu (o : OpRR)
  | rol (o : OpRR) | ror (o : OpRR) | andn (o : OpRR)
  | cmp (o : OpRR) | tst (o : OpRR) | bfx (o : OpRR) | bfxu (o : OpRR) | bfi (o : OpRR3)
  | selz (o : OpRR) | seln (o : OpRR) | selc (o : OpRR)
  | mov (o : OpRF) | neg (o : OpRF) | not (o : OpRF) | clz (o : OpRF) | ctz (o : OpRF) | popc (o : OpRF)
  | brev (o : OpRF) | bswap (o : OpRF) | sextb (o : OpRF) | sexth (o : OpRF) | sextw (o : OpRF)
  | zextb (o : OpRF) | zexth (o : OpRF) | zextw (o : OpRF)
  | jr (o : OpD) | callr (o : OpD) | ret (h : Hints) | movpc (o : OpD)
  | addi (o : OpRI) | li (o : OpLI) | cmpi (o : OpRI) | andi (o : OpRI) | ori (o : OpRI) | xori (o : OpRI)
  | lea (o : OpLea) | bcc (o : OpBC) | j (off : BitVec 33) | call (off : BitVec 33) | loop (o : OpLoop)
  -- Memory (R364–R382)
  | ldd (o : OpMem) | ldw (o : OpMem) | ldwu (o : OpMem) | std (o : OpMem) | stw (o : OpMem)
  | ldb (o : OpMem) | ldbu (o : OpMem) | ldh (o : OpMem) | ldhu (o : OpMem) | stb (o : OpMem) | sth (o : OpMem)
  | fence (scope : Fin 5) (mask : BitVec 4)
  | lr (o : OpM2) | sc (o : OpM3) | wrs (o : OpM1) | lrw (o : OpM2) | scw (o : OpM3)
  | amoadd (o : OpM3) | amoand (o : OpM3) | amoor (o : OpM3) | amoxor (o : OpM3) | amomax (o : OpM3)
  | amomin (o : OpM3) | amoumax (o : OpM3) | amoumin (o : OpM3) | amoxchg (o : OpM3) | amocas (o : OpM3)
  | amoaddw (o : OpM3) | amocasw (o : OpM3)
  | famoadd (o : OpM3) | accadd (o : OpMst) | accrd (o : OpM3)
  | siginc (o : OpM2) | waitge (o : OpM2) | append (o : OpM3) | recv (o : OpM2)
  | tagwait (o : OpM2) | tagtest (o : OpM2) | mbput (o : OpMQ) | mbtake (o : OpMQ)
  | barinit (o : OpMQ) | bararv (o : OpMQ1) | barwait (o : OpMQ) | lock (o : OpM2) | unlock (o : OpM1)
  -- System, task and trap (R427–R442)
  | nop | yield | taskdone | tret | pmret | halt | brk | swt (n : Fin 8)
  | srr (o : OpDS) | srw (o : OpDS) | taskpush (s : GReg) | taskpop (o : OpDS) | sleep (o : OpDS)
  | tmset (o : OpDS) | tmrd (d : GReg) | hcall (o : OpDS) | fspawn (o : OpDST) | fexit
  -- Vector (R383–R402)
  | vadd (o : OpV2) | vsub (o : OpV2) | vmul (o : OpV2) | vfma (o : OpV3) | vmin (o : OpV2) | vmax (o : OpV2)
  | vabs (o : OpV1) | vneg (o : OpV1) | vcmpeq (o : OpV2) | vcmplt (o : OpV2) | vcmple (o : OpV2) | vsel (o : OpV3)
  | viadd (o : OpV2) | visub (o : OpV2) | vimul (o : OpV2) | vishl (o : OpV2)
  | vand (o : OpV2) | vor (o : OpV2) | vxor (o : OpV2) | vishr (o : OpV2) | visar (o : OpV2)
  | vimin (o : OpV2) | vimax (o : OpV2) | viabs (o : OpV1)
  | vcvt (o : OpV1) | vquant (o : OpV1) | vdequant (o : OpV1) | vcvti (o : OpV1) | vcvtf (o : OpV1)
  | vrsum (o : OpV1) | vrmax (o : OpV1) | vrmin (o : OpV1) | vscan (o : OpV2) | vperm (o : OpV2)
  | vgather (o : OpVG) | vscatter (o : OpVG) | vbcast (o : OpVB)
  | vexp2 (o : OpVF) | vlog2 (o : OpVF) | vrcp (o : OpVF) | vrsq (o : OpVF)
  -- Matrix, copy, stash, collective, ring and book (R404–R426)
  | mma (o : OpMma) | mmas (o : OpMma) | mmrd (o : OpMmrd) | mmclr (o : OpQG) | mmrc (o : OpGG) | skset (o : OpQG)
  | cpy (o : OpM2) | cpyt (o : OpM2) | cpyg (o : OpM2) | cpym (o : OpM2) | shld (o : OpM2)
  | stash (o : OpM2) | restore (o : OpM2) | cstart (o : OpM2) | trput (o : OpM1) | trget (o : OpM1)
  | rbind (o : OpHG) | runbind (o : OpH) | awaitf (o : OpHG) | awaite (o : OpHG) | advh (o : OpHG)
  | advt (o : OpHG) | advtRemote (o : OpAdvtR) | rstat (o : OpHG)
  | bkinfo (d : GReg) | bkstep (d : GReg) | bkgo | bkpause
  -- Events
  | perstAssert | pcieHotReset | modRstWarm | modRstCold | warmReset | coldReset | firmwareBoot | linkTraining
  | flitReceive | flitReceiveInReset | destinationInResetReport | flitNakReceive | flitAckReceive | portDown
  | laneMarginMeasure | laneSwap | budgetPeriodStart | modBudgetWrite | railThrottle | scrubRead
  | barRegisterWrite | barUnassignedAccess | rcRegisterRead | dieCdataAccess | hostCxlAccess | devCxlwinEnable
  | devPwwinEnable | peerWrite | peerRead | ctxEnable | ctxDisable | sqEnable | sqDisable | sqResume | cqEnable
  | fqEnable | cqHeadWrite | fqHeadWrite | kick | sqPacketRead | sqStampRetry | packetIssueUnblock | launchPacket
  | launchComplete | copyPacket | copyPacketDone | signalPacket | waitPacket | waitPacketSatisfied
  | waitPacketTimeout | mapPacket | bookPacket | checkpointPacket | checkpointStepBoundary | checkpointCopyDone
  | dedupDigestReceive | dedupDigestTimeout | checkpointDrainDone | restorePacket | restoreStepBoundary
  | devAttcmdGo | attestationDone | mbxReadIdentityCert | mbxReadCheckpointCert | mbxReadAuthorityCert
  | mbxWritePartitionRecord | mbxInvalidCommand | mbxCommandDone | ctxFcmdReplay | ctxFcmdSkip | ctxFcmdRestart
  | ctxFcmdFail | coreTactReplay | coreTactSkip | coreTactRestart | coreTactFail | ctxGctlStop | ctxGctlResume
  | gangStop | gangStopDrained | fatalFault | dumpStart | dumpComplete | migrationGo | migrationLineMove
  | migrationDone | movedReply | watchdogExpiry | engineHang | coreStateError | coreFence | reservationTimeout
  | reservationGrant | atomicReleaseWrite | accessComplete | waitWake | slotFill | fibreRefill | preemptPriority
  | preemptQuantum | rotationEnd | corePfctlClr | urgentDelivery | coreUpendWrite | timerExpiry | pcMatchFire
  | clusterBreakpoint | clusterWatchpoint | cluDbgctlHalt | clusterHalt | cluDbgctlResume | replayStop
  | traceSample | trap | taskDispatch | footprintFetchDone | footprintFetchFault | stealAnnounce | stealRequest
  | stealReply | balanceStep | balanceEntryArrive | bookCtlGo | bookCtlPause | bookCtlClear | bookAdvance
  | bookLaunchComplete | bookTableEnd | bookNotice | ringCreditArrive | remoteStoreArrive | sigincArrive
  | appendArrive | appendStatusReturn | mmrcArrive | mmrcCommandExecute | barrierArrivalHop | barrierReleaseHop
  | copyChannelGrant | copyComplete | stashComplete | restoreComplete | collDescriptorCompare
  | collReadyToReceive | collChunkArrive | gatewayPassOne | gatewayPassTwo | collComplete | collFail
  | treeRoundComplete | treeResultDeliver | coreTreeWrite | coreSplitWrite | coreDtabWrite | coreDtstatRst0
  | coreDtstatRst1 | dtabRebuildDone | coreCourierWrite | courierRequestServe | coreInboxWrite | ctxPinqWrite
  | engineInstructionComplete | registerWriteback | railThrottleEnd | restorePacketDone
deriving DecidableEq, Repr

end Sys2Proof
end

