-- ==== Sys2Proof/Machine/Event.lean ====
section
/-! DEFINITION. The events of the part with what each concerns: which unit acts, and what came from outside the part
(spec/95_what_each_step_holds.md). An event's row of the opcode table is the constructor of `Instr` of the same name;
its meaning reads the event from the machine's event latch.
Log entries: 44 (DESIGN CHOICE). -/

namespace Sys2Proof.Machine

/-- A 128-byte flit (R28): payload, sequence number and type, acknowledgement, CRC. -/
structure Flit where
  payload : BitVec 960
  seq : BitVec 12
  ftype : BitVec 4
  ack : BitVec 12
  nak : BitVec 4
  crc : BitVec 32
deriving DecidableEq, Repr

/-- A firmware slot in the package flash (R108): header and image, the vendor key and the signature that come with them, the security
version, and the mark that an update gets only after it has passed the check. -/
structure FwSlot where
  image : List Byte
  key : List Byte
  sig : List Byte
  svn : BitVec 8
  bootable : Bool
deriving DecidableEq, Repr

/-- A location that carries ECC (R25): device physical memory, a core's TCM, or a cluster's scratchpad. -/
inductive EccAt where
  | phys (pa : BitVec 48)
  | tcm (L : Fin 6144) (off : BitVec 18)
  | scratch (k : Fin 48) (off : BitVec 26)
deriving DecidableEq, Repr

/-- The outcome of one scrub or ECC read (R25). -/
inductive EccResult where
  | clean
  | corrected (syndrome : BitVec 16)
  | uncorrectable
deriving DecidableEq, Repr

/-- A host access of one or two 4-byte halves of an 8-byte slot (R76, R77). -/
inductive Lane where
  | low | high | both
deriving DecidableEq, Repr

/-- A queued remote matrix command (R413). -/
structure MatCmd where
  instr : Instr
  key   : Word
  row   : BitVec 32
  col   : BitVec 32
  fibre : Nat
  src   : CoreId
  pc    : VAddr
  srcFibre : Nat
deriving DecidableEq, Repr

/-- What a copy delivers to a ring (R414, R417): the ring's offset, the copy's layout, its bytes with their poison, its length, the cause
and address of a failure at step 14 of R416, and whose credit it is. -/
structure RingDelivery where
  off    : Nat
  layout : BitVec 8
  data   : List Byte
  pois   : List Bool
  nbytes : Nat
  failed : Cause
  addr   : Word
  task   : Option VAddr
  dead   : Bool
  /-- To a ring of another module: the delivery's number, and the records that the task holds elsewhere (R198). -/
  id     : Nat := 0
  others : Nat := 0
deriving DecidableEq, Repr

/-- What a message carries (R292, R365, R373, R375, R413, R423). -/
inductive MsgBody where
  | store (va : VAddr) (key : Nat) (bytes : List Byte)
  | siginc (off : BitVec 18) (inc : BitVec 32)
  | append (words : List Word)
  /-- `dead`: the task's attempt has ended, and the credit is discarded on arrival (R119, R203); `others`: records that the task holds
  outside the target's module (R198). -/
  | credit (off : BitVec 18) (k : Nat) (task : Option VAddr) (dead : Bool) (others : Nat)
  /-- A copy delivers to a ring of another module, and what became of the delivery of that number comes back (R39, R417). -/
  | deliver (d : RingDelivery)
  | copied (delivery : Nat) (cause : Cause) (addr : Word)
  /-- How many records a task of another module holds here (R198). -/
  | held (task : VAddr) (n : Nat)
  | mmrc (cmd : MatCmd) (key : BitVec 32)
  | status (fibre : Nat) (v : Word)
  /-- What a fibre sent has been discarded at its target on another module: the entry of R103 that it leaves. -/
  | refused (cause : Cause) (eng : Bool) (addr aux : Word)
  | notice (die : Nat) (off : BitVec 18) (down : Bool)
  /-- A task of another module commits its records on the rings of the target core, or discards them (R198, R203). -/
  | settle (task : VAddr) (commit : Bool)
  /-- A book writes or clears a ring's book link (R162, R204). -/
  | link (off : BitVec 18) (down : Bool) (v : BitVec 32)
  /-- A book asks for a ring's counts, and the answer: tail − head and the slots, none where the core is no core of the context (R162). -/
  | ask (off : BitVec 18) (down : Bool)
  | answer (off : BitVec 18) (down : Bool) (counts : Option (Nat × Nat))
  /-- A participant is ready to receive a chunk: the 32 bytes of R55; and what the sending engine writes of it: its place and the runs
  of its bytes, with the 64-byte lines of it that are poisoned. -/
  | ready (bytes : List Byte)
  | chunk (collid : BitVec 32) (n : Nat) (addr : VAddr) (runs : List (Nat × List Byte)) (pois : List Nat)
  /-- A member's digest of a shard (R131). -/
  | digest (ckpt : Word) (rgroup : BitVec 32) (shard : Word) (ridx : BitVec 16) (d : BitVec 512)
deriving DecidableEq, Repr

/-- A message in flight inside the module, or sent to or received from another one. -/
structure Msg where
  id    : Nat
  src   : CoreId
  dst   : CoreId
  ctx   : Nat
  fibre : Nat
  pc    : VAddr
  cycle : Nat
  body  : MsgBody
deriving DecidableEq, Repr

/-- The events. `L` is a core's leaf index (R66), `c` a context, `d` a die, `k` a cluster of the module
(die × 6 + cluster), `p` a port index. `idle` is no event. -/
inductive Event where
  | idle
  | perstAssert
  | pcieHotReset
  | modRstWarm
  | modRstCold
  | warmReset
  | coldReset
  | firmwareBoot (a b : Option FwSlot)
  | linkTraining (p : Fin 16) (peer : Word)
  | flitReceive (p : Fin 16) (f : Flit)
  | flitReceiveInReset (p : Fin 16) (f : Flit)
  | destinationInResetReport (msg : Nat)
  | flitNakReceive (p : Fin 16) (seq : BitVec 12)
  | flitAckReceive (p : Fin 16) (seq : BitVec 12)
  | portDown (p : Fin 16)
  | laneMarginMeasure (p : Fin 16) (lane : Fin 16) (margin : BitVec 8)
  | laneSwap (p : Fin 16)
  | budgetPeriodStart (cls : Fin 5)
  | modBudgetWrite (cls : Fin 5) (act : Fin 7) (lane : Lane) (v : Word)
  | railThrottle (d : Fin 8) (amps : BitVec 12)
  /-- A read that checks a location's ECC: the scrubber's, or one that the part makes of any memory (R25). -/
  | scrubRead (at_ : EccAt) (r : EccResult)
  | barRegisterWrite (off : BitVec 26) (lane : Lane) (v : Word)
  | barUnassignedAccess (bar : Fin 3) (off : Nat) (size : Nat) (w : Option Word)
  | rcRegisterRead (off : BitVec 26) (lane : Lane)
  | dieCdataAccess (d : Fin 8) (lane : Lane) (w : Option Word)
  /-- A read of up to 8 bytes, or a write of the bytes given, within a line. -/
  | hostCxlAccess (off : Nat) (size : Nat) (w : Option (List Byte))
  | devCxlwinEnable (lane : Lane) (v : Word)
  | devPwwinEnable (w : Fin 64) (lane : Lane) (v : Word)
  | peerWrite (req : BitVec 16) (off : BitVec 36) (data : List Byte) (ep : Bool)
  | peerRead (off : BitVec 36)
  | ctxEnable (c : Fin 48) (lane : Lane) (v : Word)
  | ctxDisable (c : Fin 48)
  | sqEnable (c : Fin 48) (q : Fin 64) (lane : Lane) (v : Word)
  | sqDisable (c : Fin 48) (q : Fin 64) (lane : Lane) (v : Word)
  | sqResume (c : Fin 48) (q : Fin 64)
  | cqEnable (c : Fin 48) (q : Fin 16) (lane : Lane) (v : Word)
  | fqEnable (c : Fin 48) (lane : Lane) (v : Word)
  | cqHeadWrite (c : Fin 48) (q : Fin 16) (lane : Lane) (v : Word)
  | fqHeadWrite (c : Fin 48) (lane : Lane) (v : Word)
  | kick (off : BitVec 18) (size : Nat) (v : BitVec 32)
  | sqPacketRead (c : Fin 48) (q : Fin 64) (err : Bool)
  | sqStampRetry (c : Fin 48) (q : Fin 64)
  | packetIssueUnblock (c : Fin 48) (q : Fin 64)
  | launchPacket (c : Fin 48) (pkt : Nat)
  | launchComplete (launch : Nat)
  | copyPacket (c : Fin 48) (pkt : Nat)
  | copyPacketDone (c : Fin 48) (pkt : Nat)
  | signalPacket (c : Fin 48) (pkt : Nat)
  | waitPacket (c : Fin 48) (pkt : Nat)
  | waitPacketSatisfied (c : Fin 48) (pkt : Nat)
  | waitPacketTimeout (c : Fin 48) (pkt : Nat)
  | mapPacket (c : Fin 48) (pkt : Nat)
  /-- `remote`: what the messages to rings of other modules have answered, by ring-table index: tail − head and the
  slot count; no entry where the core belongs to no such context. None while nothing has been asked. -/
  | bookPacket (c : Fin 48) (pkt : Nat) (remote : Option (List (Nat × Nat × Nat)))
  | checkpointPacket (c : Fin 48) (pkt : Nat)
  | checkpointStepBoundary (c : Fin 48)
  | checkpointCopyDone (c : Fin 48)
  | dedupDigestReceive (c : Fin 48) (shard : Nat) (ridx : BitVec 16) (digest : BitVec 512)
  | dedupDigestTimeout (c : Fin 48) (shard : Nat) (ridx : BitVec 16)
  | checkpointDrainDone (c : Fin 48) (hostErr : Bool)
  | restorePacket (c : Fin 48) (pkt : Nat)
  | restoreStepBoundary (c : Fin 48)
  | devAttcmdGo
  | attestationDone
  | mbxReadIdentityCert
  | mbxReadCheckpointCert
  | mbxReadAuthorityCert
  | mbxWritePartitionRecord
  | mbxInvalidCommand (cmd : BitVec 8)
  | mbxCommandDone
  | ctxFcmdReplay (c : Fin 48) (core : CoreId) (fibre : BitVec 12)
  | ctxFcmdSkip (c : Fin 48) (core : CoreId) (fibre : BitVec 12)
  | ctxFcmdRestart (c : Fin 48) (core : CoreId) (fibre : BitVec 12)
  | ctxFcmdFail (c : Fin 48) (core : CoreId) (fibre : BitVec 12)
  | coreTactReplay (L : Fin 6144)
  | coreTactSkip (L : Fin 6144)
  | coreTactRestart (L : Fin 6144)
  | coreTactFail (L : Fin 6144)
  | ctxGctlStop (c : Fin 48)
  | ctxGctlResume (c : Fin 48)
  | gangStop (c : Fin 48) (reason : Cause)
  | gangStopDrained (c : Fin 48)
  | fatalFault (c : Fin 48) (cause : Cause) (core : CoreId)
  | dumpStart
  | dumpComplete
  | migrationGo (d : Fin 8)
  | migrationLineMove (d : Fin 8)
  | migrationDone (d : Fin 8)
  | movedReply (L : Fin 6144) (fibre : BitVec 12)
  | watchdogExpiry (L : Fin 6144)
  | engineHang (L : Fin 6144) (slot : Fin 8) (tag : Option (Fin 64))
  /-- `port`: a write that the core's port holds is among what cannot be read (R250). -/
  | coreStateError (L : Fin 6144) (port : Bool)
  | coreFence (L : Fin 6144)
  | reservationTimeout (gran : Nat)
  | reservationGrant (gran : Nat)
  | atomicReleaseWrite (gran : Nat)
  | accessComplete (L : Fin 6144) (fibre : BitVec 12)
  | waitWake (L : Fin 6144) (fibre : BitVec 12)
  | slotFill (L : Fin 6144)
  | fibreRefill (L : Fin 6144) (fibre : BitVec 12)
  | preemptPriority (L : Fin 6144)
  | preemptQuantum (L : Fin 6144) (slot : Fin 8)
  | rotationEnd (L : Fin 6144)
  | corePfctlClr (L : Fin 6144)
  | urgentDelivery (L : Fin 6144)
  | coreUpendWrite (L : Fin 6144) (v : Word)
  | timerExpiry (L : Fin 6144)
  | pcMatchFire (L : Fin 6144) (slot : Fin 8)
  | clusterBreakpoint (L : Fin 6144) (slot : Fin 8)
  | clusterWatchpoint (L : Fin 6144) (slot : Fin 8) (granule : BitVec 53) (store : Bool)
  | cluDbgctlHalt (k : Fin 48)
  | clusterHalt (k : Fin 48) (reason : Cause) (src : CoreId)
  | cluDbgctlResume (k : Fin 48)
  | replayStop (L : Fin 6144)
  | traceSample (k : Fin 48)
  | trap (L : Fin 6144) (slot : Fin 8) (cause : Cause) (eng : Bool) (addr aux : Word)
  | taskDispatch (L : Fin 6144)
  | footprintFetchDone (L : Fin 6144) (rec : VAddr)
  | footprintFetchFault (L : Fin 6144) (rec : VAddr)
  | stealAnnounce (L : Fin 6144)
  | stealRequest (thief victim : Fin 6144)
  | stealReply (thief : Fin 6144)
  | balanceStep (L : Fin 6144)
  | balanceEntryArrive (L : Fin 6144)
  | bookCtlGo (d : Fin 8)
  | bookCtlPause (d : Fin 8)
  | bookCtlClear (d : Fin 8)
  | bookAdvance (d : Fin 8)
  | bookLaunchComplete (d : Fin 8) (launch : Nat)
  | bookTableEnd (d : Fin 8)
  /-- `ext`: a notice from another module names the ring's core, its offset and its direction (1 downstream). -/
  | bookNotice (d : Fin 8) (ext : Option (CoreId × BitVec 16 × Bool))
  /-- Messages: `msg` numbers one in flight inside the module; `ext` is one that comes from another module. -/
  | ringCreditArrive (msg : Nat) (ext : Option Msg)
  | remoteStoreArrive (msg : Nat)
  | sigincArrive (msg : Nat) (ext : Option Msg)
  | appendArrive (msg : Nat) (ext : Option Msg)
  | appendStatusReturn (msg : Nat) (ext : Option Msg)
  | mmrcArrive (msg : Nat) (ext : Option Msg)
  | mmrcCommandExecute (L : Fin 6144)
  | barrierArrivalHop (L : Fin 6144) (b : QReg)
  | barrierReleaseHop (L : Fin 6144) (b : QReg)
  | copyChannelGrant (L : Fin 6144)
  | copyComplete (L : Fin 6144) (tag : Fin 64)
  | stashComplete (L : Fin 6144) (tag : Fin 64)
  | restoreComplete (L : Fin 6144) (tag : Fin 64)
  /-- Collectives: what the other modules of the mesh send: their descriptors, the bytes of a chunk that come from them
  with the poisoned 64-byte lines of the chunk, their blocks of a reduction, and the ready-to-receive of a participant there. -/
  | collDescriptorCompare (c : Fin 48) (collid : BitVec 32) (peers : List (List Byte))
  | collReadyToReceive (c : Fin 48) (collid : BitVec 32) (d : Fin 8) (chunk : Nat) (ext : Option Msg)
  | collChunkArrive (c : Fin 48) (collid : BitVec 32) (d : Fin 8) (chunk : Nat) (data : List Byte) (pois : List Nat)
  | gatewayPassOne (c : Fin 48) (collid : BitVec 32) (block : Nat) (peers : List (BitVec 8 × BitVec 8 × BitVec 32))
  | gatewayPassTwo (c : Fin 48) (collid : BitVec 32) (block : Nat) (peers : List (List (BitVec 32)))
  | collComplete (c : Fin 48) (collid : BitVec 32) (d : Fin 8)
  | collFail (c : Fin 48) (collid : BitVec 32) (cause : Cause)
  | treeRoundComplete (c : Fin 48)
  | treeResultDeliver (L : Fin 6144)
  | coreTreeWrite (L : Fin 6144) (v : Word)
  | coreSplitWrite (L : Fin 6144) (v : Word)
  | coreDtabWrite (L : Fin 6144) (t : Bool) (idx : BitVec 8) (v : Word)
  | coreDtstatRst0 (L : Fin 6144)
  | coreDtstatRst1 (L : Fin 6144)
  | dtabRebuildDone (L : Fin 6144) (t : Bool)
  | coreCourierWrite (L : Fin 6144) (v : Word)
  | courierRequestServe (L : Fin 6144)
  | coreInboxWrite (L : Fin 6144) (v : Word)
  | ctxPinqWrite (c : Fin 48) (lane : Lane) (v : Word)
  | engineInstructionComplete (L : Fin 6144) (matrix : Bool)
  | registerWriteback (L : Fin 6144)
  | railThrottleEnd (d : Fin 8)
  | restorePacketDone (c : Fin 48)
deriving DecidableEq, Repr

/-- The row of the opcode table that an event belongs to. -/
def Event.row : Event → Instr
  | .idle => .nop
  | .perstAssert => .perstAssert | .pcieHotReset => .pcieHotReset | .modRstWarm => .modRstWarm
  | .modRstCold => .modRstCold | .warmReset => .warmReset | .coldReset => .coldReset
  | .firmwareBoot .. => .firmwareBoot | .linkTraining .. => .linkTraining | .flitReceive .. => .flitReceive
  | .flitReceiveInReset .. => .flitReceiveInReset | .destinationInResetReport .. => .destinationInResetReport
  | .flitNakReceive .. => .flitNakReceive | .flitAckReceive .. => .flitAckReceive | .portDown .. => .portDown
  | .laneMarginMeasure .. => .laneMarginMeasure | .laneSwap .. => .laneSwap
  | .budgetPeriodStart .. => .budgetPeriodStart | .modBudgetWrite .. => .modBudgetWrite
  | .railThrottle .. => .railThrottle | .scrubRead .. => .scrubRead | .barRegisterWrite .. => .barRegisterWrite
  | .barUnassignedAccess .. => .barUnassignedAccess | .rcRegisterRead .. => .rcRegisterRead
  | .dieCdataAccess .. => .dieCdataAccess | .hostCxlAccess .. => .hostCxlAccess
  | .devCxlwinEnable .. => .devCxlwinEnable | .devPwwinEnable .. => .devPwwinEnable | .peerWrite .. => .peerWrite
  | .peerRead .. => .peerRead | .ctxEnable .. => .ctxEnable | .ctxDisable .. => .ctxDisable
  | .sqEnable .. => .sqEnable | .sqDisable .. => .sqDisable | .sqResume .. => .sqResume | .cqEnable .. => .cqEnable
  | .fqEnable .. => .fqEnable | .cqHeadWrite .. => .cqHeadWrite | .fqHeadWrite .. => .fqHeadWrite
  | .kick .. => .kick | .sqPacketRead .. => .sqPacketRead | .sqStampRetry .. => .sqStampRetry
  | .packetIssueUnblock .. => .packetIssueUnblock | .launchPacket .. => .launchPacket
  | .launchComplete .. => .launchComplete | .copyPacket .. => .copyPacket | .copyPacketDone .. => .copyPacketDone
  | .signalPacket .. => .signalPacket | .waitPacket .. => .waitPacket
  | .waitPacketSatisfied .. => .waitPacketSatisfied | .waitPacketTimeout .. => .waitPacketTimeout
  | .mapPacket .. => .mapPacket | .bookPacket .. => .bookPacket | .checkpointPacket .. => .checkpointPacket
  | .checkpointStepBoundary .. => .checkpointStepBoundary | .checkpointCopyDone .. => .checkpointCopyDone
  | .dedupDigestReceive .. => .dedupDigestReceive | .dedupDigestTimeout .. => .dedupDigestTimeout
  | .checkpointDrainDone .. => .checkpointDrainDone | .restorePacket .. => .restorePacket
  | .restoreStepBoundary .. => .restoreStepBoundary | .devAttcmdGo => .devAttcmdGo
  | .attestationDone => .attestationDone | .mbxReadIdentityCert => .mbxReadIdentityCert
  | .mbxReadCheckpointCert => .mbxReadCheckpointCert | .mbxReadAuthorityCert => .mbxReadAuthorityCert
  | .mbxWritePartitionRecord => .mbxWritePartitionRecord | .mbxInvalidCommand .. => .mbxInvalidCommand
  | .mbxCommandDone => .mbxCommandDone | .ctxFcmdReplay .. => .ctxFcmdReplay | .ctxFcmdSkip .. => .ctxFcmdSkip
  | .ctxFcmdRestart .. => .ctxFcmdRestart | .ctxFcmdFail .. => .ctxFcmdFail | .coreTactReplay .. => .coreTactReplay
  | .coreTactSkip .. => .coreTactSkip | .coreTactRestart .. => .coreTactRestart | .coreTactFail .. => .coreTactFail
  | .ctxGctlStop .. => .ctxGctlStop | .ctxGctlResume .. => .ctxGctlResume | .gangStop .. => .gangStop
  | .gangStopDrained .. => .gangStopDrained | .fatalFault .. => .fatalFault | .dumpStart => .dumpStart
  | .dumpComplete => .dumpComplete | .migrationGo .. => .migrationGo | .migrationLineMove .. => .migrationLineMove
  | .migrationDone .. => .migrationDone | .movedReply .. => .movedReply | .watchdogExpiry .. => .watchdogExpiry
  | .engineHang .. => .engineHang | .coreStateError .. => .coreStateError | .coreFence .. => .coreFence
  | .reservationTimeout .. => .reservationTimeout | .reservationGrant .. => .reservationGrant
  | .atomicReleaseWrite .. => .atomicReleaseWrite | .accessComplete .. => .accessComplete
  | .waitWake .. => .waitWake | .slotFill .. => .slotFill | .fibreRefill .. => .fibreRefill
  | .preemptPriority .. => .preemptPriority | .preemptQuantum .. => .preemptQuantum
  | .rotationEnd .. => .rotationEnd | .corePfctlClr .. => .corePfctlClr | .urgentDelivery .. => .urgentDelivery
  | .coreUpendWrite .. => .coreUpendWrite | .timerExpiry .. => .timerExpiry | .pcMatchFire .. => .pcMatchFire
  | .clusterBreakpoint .. => .clusterBreakpoint | .clusterWatchpoint .. => .clusterWatchpoint
  | .cluDbgctlHalt .. => .cluDbgctlHalt | .clusterHalt .. => .clusterHalt | .cluDbgctlResume .. => .cluDbgctlResume
  | .replayStop .. => .replayStop | .traceSample .. => .traceSample | .trap .. => .trap
  | .taskDispatch .. => .taskDispatch | .footprintFetchDone .. => .footprintFetchDone
  | .footprintFetchFault .. => .footprintFetchFault | .stealAnnounce .. => .stealAnnounce
  | .stealRequest .. => .stealRequest | .stealReply .. => .stealReply | .balanceStep .. => .balanceStep
  | .balanceEntryArrive .. => .balanceEntryArrive | .bookCtlGo .. => .bookCtlGo | .bookCtlPause .. => .bookCtlPause
  | .bookCtlClear .. => .bookCtlClear | .bookAdvance .. => .bookAdvance
  | .bookLaunchComplete .. => .bookLaunchComplete | .bookTableEnd .. => .bookTableEnd
  | .bookNotice .. => .bookNotice | .ringCreditArrive .. => .ringCreditArrive
  | .remoteStoreArrive .. => .remoteStoreArrive | .sigincArrive .. => .sigincArrive
  | .appendArrive .. => .appendArrive | .appendStatusReturn .. => .appendStatusReturn
  | .mmrcArrive .. => .mmrcArrive | .mmrcCommandExecute .. => .mmrcCommandExecute
  | .barrierArrivalHop .. => .barrierArrivalHop | .barrierReleaseHop .. => .barrierReleaseHop
  | .copyChannelGrant .. => .copyChannelGrant | .copyComplete .. => .copyComplete
  | .stashComplete .. => .stashComplete | .restoreComplete .. => .restoreComplete
  | .collDescriptorCompare .. => .collDescriptorCompare | .collReadyToReceive .. => .collReadyToReceive
  | .collChunkArrive .. => .collChunkArrive | .gatewayPassOne .. => .gatewayPassOne
  | .gatewayPassTwo .. => .gatewayPassTwo | .collComplete .. => .collComplete | .collFail .. => .collFail
  | .treeRoundComplete .. => .treeRoundComplete | .treeResultDeliver .. => .treeResultDeliver
  | .coreTreeWrite .. => .coreTreeWrite | .coreSplitWrite .. => .coreSplitWrite
  | .coreDtabWrite .. => .coreDtabWrite | .coreDtstatRst0 .. => .coreDtstatRst0
  | .coreDtstatRst1 .. => .coreDtstatRst1 | .dtabRebuildDone .. => .dtabRebuildDone
  | .coreCourierWrite .. => .coreCourierWrite | .courierRequestServe .. => .courierRequestServe
  | .coreInboxWrite .. => .coreInboxWrite | .ctxPinqWrite .. => .ctxPinqWrite
  | .engineInstructionComplete .. => .engineInstructionComplete | .registerWriteback .. => .registerWriteback
  | .railThrottleEnd .. => .railThrottleEnd | .restorePacketDone .. => .restorePacketDone

end Sys2Proof.Machine
end

