-- ==== Sys2Proof/Machine/State.lean ====
section
/-! DEFINITION. The state of one EXN-8840 module, as plain data, and the machine right after cold reset (R37, R38).
Registers whose fields software reads and writes whole are words; fields that the part computes are computed where
they are read (`Sys2Proof/Machine/SysRegs.lean`). A docstring names the rule that gives the state.
Log entries: 22, 31, 35 (DEDUCED); 41 (DEDUCED and DESIGN CHOICE); 2, 3, 4, 5, 6, 44 (DESIGN CHOICE). -/

namespace Sys2Proof.Machine

/-! ## How a step can stop -/

/-- Why the machine stops with a fault. No instruction of the table has a fault as its own effect. -/
inductive Fault where
  /-- Raised by `resolve`: an access reached a device physical address in no range of R212.
  MAP refuses such a leaf (R223), so only a state that no run reaches gets here. Safe: the run stops. -/
  | unassignedAddress (pa : Nat)
deriving DecidableEq, Repr

/-- Why a step gives no meaning. -/
inductive Refusal where
  /-- Raised only by an arm of `exec` whose instruction has no meaning yet. Safe: nothing is claimed of it. -/
  | notModelled (mnemonic : String)
deriving DecidableEq, Repr

/-! ## Fibres (R180, R182, R286, R288) -/

/-- Where a trap is delivered (R282, R287, R442). -/
inductive Delivery where
  | urgent      -- in the core's pending-trap queue
  | host        -- in, or on its way to, the host fault queue
  | held        -- the context is stopping or stopped (R287)
deriving DecidableEq, Repr

/-- The trap record of a parked fibre (R286), with what SKIP needs (R284). -/
structure TrapInfo where
  cause    : Cause
  eng      : Bool := false
  addr     : Word := 0
  aux      : Word := 0
  pc       : VAddr := 0
  slot     : BitVec 3 := 0
  word     : Half := 0
  npfx     : BitVec 3 := 0
  /-- Length of the trapping chain in bytes. -/
  len      : Nat := 2
  /-- The chain could not be fetched: SKIP resumes at ADDR + 2. -/
  fetch    : Bool := false
  cycle    : Nat := 0
  /-- DIE_CYCLE in which the instruction issued: the order of the pending-trap queue (R283). -/
  issued   : Nat := 0
  delivery : Delivery := .host
  /-- The record has been written to the host fault queue (R102). -/
  written  : Bool := false
  /-- An HCALL record (R442). -/
  hcall    : Bool := false
deriving DecidableEq, Repr

/-- What a waiting fibre waits for (the third row of R182, and the waits its owners state). -/
inductive Wait where
  | access                                   -- a load or atomic is outstanding (R182, first two rows)
  | reservation (gran : Nat)                 -- queued at a granule's home (R241)
  | written                                  -- WRS (R367)
  | ringFilled (desc k : Nat)                -- AWAITF (R423)
  | ringFree (desc k : Nat)                  -- AWAITE (R423)
  | slots (srcs : List Nat) (dst : Option Nat) -- a vector or matrix instruction (R386, R412)
  | engine (matrix : Bool) (descs : List Nat) -- the core's engine is busy, or a paused instruction names one of these (R386)
  | running                                  -- the fibre's own instruction runs in an engine (R386, R412)
  | table (t : Bool) (write : Bool)            -- a decode table is being rebuilt, or in use before a write (R256)
  | accumulator (q : Fin 4)                  -- MMCLR on an owned accumulator (R405)
  | tags (mask : Word)                       -- TAGWAIT (R378)
  | counter (key : Nat) (target : BitVec 32) -- WAITGE (R371)
  | barrier (b : Fin 4)                      -- BARWAIT (R380)
  | mailboxEmpty (m : Fin 4)                 -- MBPUT (R190)
  | mailboxFull (m : Fin 4)                  -- MBTAKE (R190)
  | inbox                                    -- RECV (R376)
  | treeIn                                   -- a store to a full TREE_IN (R71)
  | treeOut                                  -- a load from an empty TREE_OUT (R71)
  | collective                               -- CSTART beyond 16 in flight (R51)
  | cycle (t : Nat)                          -- SLEEP (R432)
  | retire                                   -- TASKDONE before its requests settle (R431)
  | entry                                    -- FSPAWN without a run-queue entry (R434)
  | channel                                  -- a copy command without a free channel (R193, R417)
  | status                                   -- APPEND or MMRC awaiting its status (R375, R413)
  | port (rd wr : Bool) (gran : Nat)         -- the port holds the access behind the core's reads or writes (R237, R366)
  | stepBoundary                             -- an engine instruction held for a checkpoint (R130)
  | paused (desc : Nat)                      -- an instruction of another fibre that names the ring is paused (R386, R412)
deriving DecidableEq, Repr

/-- A fibre's state (R182, R288). -/
inductive Status where
  | ready
  | waiting (w : Wait)
  | parked
  | writeback          -- awaiting the writeback of a shared register (R348)
  | matched            -- held at a match point (R300)
deriving DecidableEq, Repr

/-- An outstanding access: the destination, the value bound, and the address of its instruction (R182, R189). -/
structure Pending where
  dst   : Option GReg := none
  value : Word := 0
  pc    : VAddr := 0
  /-- Its address operand (R288). -/
  va    : VAddr := 0
  /-- It is a load: an urgent delivery abandons it (R189). -/
  load  : Bool := false
deriving DecidableEq, Repr

/-- A reservation or the last one (R367): the address operand, its home key, and its size. -/
structure Rsv where
  addr : VAddr
  key  : Nat
  word : Bool
deriving DecidableEq, Repr

/-- A fibre (R180, R288). -/
structure Fibre where
  pc      : VAddr := 0
  a       : Vector Word 8 := Vector.replicate 8 0
  /-- The flags word (R180). -/
  flags   : Word := 0
  /-- Bindings of h0–h15: the descriptor's TCM offset in 64-byte units (R195, R288). -/
  h       : Vector (Option (BitVec 12)) 16 := Vector.replicate 16 none
  /-- Effective priority (R183). -/
  prio    : BitVec 2 := 0
  task    : Option VAddr := none
  f       : Vector Word 4 := Vector.replicate 4 0
  c       : Vector Word 4 := Vector.replicate 4 0
  status  : Status := .ready
  /-- DIE_CYCLE at which the fibre became ready or its wait began (R181, R183). -/
  since   : Nat := 0
  /-- The first cycle in which it may issue again: the one after its previous instruction's writeback (R348). -/
  due     : Nat := 0
  /-- Reason code shown in REASON for a ready or waiting fibre (R281, R288). -/
  reason  : Cause := 0
  /-- Instructions issued since it entered its slot (R206). -/
  quantum : Nat := 0
  /-- Instruction count of the task attempt (R309). -/
  icount  : Nat := 0
  /-- It stood at this count when the replay stop of its cluster was armed: only a further completion can meet the stop (R309). -/
  counted : Bool := false
  /-- The slot from which it issued last: that of a replay stop (R304). -/
  slot    : BitVec 3 := 0
  pend    : Option Pending := none
  rsv     : Option Rsv := none
  last    : Option Rsv := none
  lost    : Bool := false
  trap    : Option TrapInfo := none
  /-- The wait that has just ended, until the instruction is executed again: waits on one mailbox or inbox are served
  in order (R190, R376). -/
  wake    : Option Wait := none
  /-- The next instruction meets no match point again (R300). -/
  noMatch : Bool := false
  /-- The next instruction meets no breakpoint or watchpoint again (R303). -/
  noBreak : Bool := false
  /-- Held in the spill area and not in a run-queue entry (R181). -/
  spilled : Bool := false
deriving DecidableEq, Repr

/-! ## Tasks, deques and launches (R136–R149, R198) -/

/-- A deque entry (R142). `prio` is the record's PRIO. -/
structure DqEntry where
  recAddr : VAddr
  prio : BitVec 2
  age  : BitVec 8 := 0
deriving DecidableEq, Repr

/-- One uncommitted credit record of a task (R198, R203). `n` is the producer entry. -/
structure Hold where
  core  : Nat
  desc  : Nat
  slot  : BitVec 32
  n     : Nat
  bytes : Nat
  /-- A poisoned credit of the record set the slot's POIS. -/
  pois  : Bool := false
deriving DecidableEq, Repr

/-- A pinned range (R148, R149): in the core's TCM, or in its cluster's scratchpad. -/
structure Pin where
  scratch : Bool
  off     : Nat
  len     : Nat
deriving DecidableEq, Repr

/-- What a task of a book launch reads (R166, R425). -/
structure BookTask where
  die   : BitVec 3
  entry : BitVec 10
  kind  : BitVec 2
  sop   : BitVec 2
  slot  : BitVec 6
  stage : BitVec 8
  mb    : BitVec 16
  step  : BitVec 32
deriving DecidableEq, Repr

/-- Where a dispatched task stands (R149). -/
inductive TaskPhase where
  | dispatching    -- waits for a repaired mapping, nothing pinned
  | fetching       -- pinned, its footprint is being fetched
  | faulted        -- pinned, waits for a repaired mapping (R226)
  | started        -- its fibre exists
  | restarting     -- re-enters dispatch at the front of its core (R119)
  | resuming       -- goes on with its dispatch, its mapping repaired (R149)
deriving DecidableEq, Repr

/-- What remains to be done after a retirement or a failure (R143, R144): a decrement, or the failure of a record, with its bytes
where they are known. -/
inductive Todo where
  | dec (launch : Option Nat) (va : VAddr) (pfail : Bool)
  | fail (launch : Option Nat) (va : VAddr) (cause : Cause) (raw : Option (List Byte))
deriving DecidableEq, Repr

/-- A task that has been dispatched on a core and has neither retired nor failed. -/
structure Task where
  recAddr : VAddr
  launch : Option Nat
  prio   : BitVec 2
  phase  : TaskPhase
  fibre  : Option Nat := none
  holds  : List Hold := []
  pushes : List VAddr := []
  pins   : List Pin := []
  pinMap : Nat := 0
  /-- The pin addresses of its regions (R149, step 3). -/
  regions : List VAddr := []
  book   : Option BookTask := none
  /-- Mailbox, copy, STASH and RESTORE tags attributed to it that are not set yet (R431). -/
  tags   : List (Fin 64) := []
  /-- Its fibre has entered a slot in this attempt (R147, AHEAD). -/
  ran    : Bool := false
  /-- The record, the regions of its footprint list (address, bytes, in scratchpad), and the format-and-scale block, as read at
  dispatch (R138). -/
  raw    : List Byte := []
  srcs   : List (VAddr × Nat × Bool) := []
  fs     : List Byte := []
  /-- Cores of other modules to whose rings it has sent credits (R198). -/
  away   : List CoreId := []
  /-- Records that it holds on other modules, by module, as these report them (R198). -/
  awayHeld : Sparse Nat := []
  /-- The address whose mapping it waits for (R226). -/
  waitVa : VAddr := 0
  /-- Its retirement has begun: the decrements left, after the pushes left (R143). -/
  retiring : Option (List Todo) := none
deriving DecidableEq, Repr

/-- What a launch belongs to (R95, R166). -/
inductive LaunchOf where
  | packet (c : Nat) (pkt : Nat)
  | book (d : Nat) (b : BookTask)
deriving DecidableEq, Repr

/-- A launch in flight: its open task records, and its failures (R95, R141). -/
structure Launch where
  id      : Nat
  ctx     : Nat
  owner   : LaunchOf
  /-- Records of the array not yet pushed: index and address. -/
  unread  : List (Nat × VAddr) := []
  /-- Open tasks: array index (none for a pushed or released task) and record. -/
  tasks   : List (Option Nat × VAddr) := []
  failed  : Nat := 0
  /-- Lowest failed index and its cause. -/
  firstFail : Option (Nat × Cause) := none
deriving DecidableEq, Repr

/-! ## Core units -/

/-- A mailbox (R190). -/
structure Mailbox where
  words : Vector Word 8 := Vector.replicate 8 0
  full  : Bool := false
  fibre : Nat := 0
  task  : Option VAddr := none
  /-- Its task has restarted or failed since the courier took it: the copy's credits are discarded (R191). -/
  dead  : Bool := false
deriving DecidableEq, Repr

/-- A wide accumulator cell (R267), less ANCHOR, which the accumulator holds. V is kept as the integer it codes. -/
structure Cell where
  v     : Int := 0
  cnt   : Nat := 0
  pinf  : Bool := false
  ninf  : Bool := false
  nan   : Bool := false
  range : Bool := false
  nanv  : BitVec 32 := 0
deriving DecidableEq, Repr

/-- A barrier register (R380) with its part of the sweep and the release (R381). -/
structure Barrier where
  /-- ROW0, COL0, NROWS and NCOLS. -/
  desc : BitVec 21 := 0
  ag   : BitVec 16 := 0
  cg   : BitVec 16 := 0
  /-- The generation that completed last carried a mismatch mark. -/
  bad  : Bool := false
  /-- The arrival of the present generation has been sent, and whether it is marked. -/
  sent : Bool := false
  mark : Bool := false
  /-- Arrivals from the east and the south that no arrival of this core has taken up: the sender's descriptor, and
  its mark. -/
  east : Option (BitVec 21 × Bool) := none
  south : Option (BitVec 21 × Bool) := none
  /-- Neighbours whose arrivals the present generation took up. -/
  tookE : Bool := false
  tookS : Bool := false
  /-- A release on its way to this core, and whether it is marked. -/
  rel  : Option Bool := none
deriving DecidableEq, Repr

/-- An accumulator (R405): 1,024 cells, cell (i, j) at index 32 i + j. -/
structure Acc where
  cells  : Sparse Cell := []
  anchor : Int := 0
  owner  : Nat := 0
  own    : Bool := false
  pois   : Bool := false
deriving DecidableEq, Repr

/-- A skip stream (R410). -/
structure Skip where
  off : Nat := 0
  len : Nat := 0
  pos : Nat := 0
deriving DecidableEq, Repr

/-- A ring credit (R197): descriptor, producer entry, bytes, poison. -/
structure Credit where
  desc  : Nat
  n     : Nat
  bytes : Nat
  pois  : Bool := false
deriving DecidableEq, Repr

/-- A store that an engine operation will make: home key and bytes. -/
structure Put where
  key   : Nat
  bytes : List Byte
deriving DecidableEq, Repr

/-- The instruction being issued (the model's own latch between decoding and meaning): which core and slot, the
chain's address and length, its base word and prefix count (R312, R286). -/
structure Issue where
  core : Nat := 0
  slot : Nat := 0
  pc   : VAddr := 0
  len  : Nat := 2
  word : Half := 0
  npfx : BitVec 3 := 0
  /-- DIE_CYCLE in which it issued. -/
  time : Nat := 0
deriving DecidableEq, Repr

/-- An instruction that runs in a core's vector or matrix engine: everything it does when it finishes (R386, R412). -/
structure EngineOp where
  /-- Its number, which its writes carry in the port while it runs. -/
  id     : Nat := 0
  fibre  : Nat
  slot   : Nat
  shadow : Bool := false
  /-- The instruction's place, and the address at which the fibre goes on. -/
  iss    : Issue
  next   : VAddr
  /-- A remote command of MMRC: no fibre waits for it (R413). -/
  remote : Bool := false
  /-- Who sent it: the core, its fibre, and the address of the MMRC (R365). -/
  sender : Option (CoreId × Nat × VAddr) := none
  /-- Descriptors the instruction names (R386). -/
  descs  : List Nat := []
  /-- Each descriptor with the handle that names it (R286). -/
  handles : List (Nat × Nat) := []
  /-- It uses decode table 0 or 1 (R256). -/
  tab0   : Bool := false
  tab1   : Bool := false
  puts   : List Put := []
  /-- Stores into other cores or clusters, which left as messages when it started (R365, R400): target core, address, key
  and bytes. -/
  sends  : List (Nat × VAddr × Nat × List Byte) := []
  /-- In-place slots whose POIS the instruction sets (R388). -/
  poison : List (Nat × Nat) := []
  credit : Option Credit := none
  flags  : Word := 0
  pops   : List Nat := []
  /-- The accumulator that a matrix instruction names. -/
  accQ   : Option (Fin 4) := none
  acc    : Option (Fin 4 × Acc) := none
  skip   : Option (Fin 4 × Nat) := none
  paused : Bool := false
deriving DecidableEq, Repr

/-- A scalar result bound for a shared register (R186, R348). -/
structure Writeback where
  due   : Nat
  slot  : Nat
  fibre : Nat
  /-- It was issued on the urgent shadow plane (R300). -/
  shadow : Bool := false
  reg   : Fin 32
  value : Word
deriving DecidableEq, Repr

/-- One tree contribution or result queue entry (R67, R71); `cause` is the trap of a load that returns an error. -/
structure TreeEntry where
  word  : Word
  cause : Cause := 0
deriving DecidableEq, Repr

/-- The copy forms (R414). -/
inductive CopyForm where
  | cpy | cpyt | cpyg | cpym | shld
deriving DecidableEq, Repr

/-- Where a copy delivers (R414): memory, or rings named by home core and descriptor offset. -/
inductive CopyDst where
  | memory (da : VAddr)
  | rings (rs : List (Nat × Nat))
  /-- A ring of another module. -/
  | away (id : CoreId) (off : BitVec 16)
deriving DecidableEq, Repr

/-- A copy command in the cluster copy engine (R414–R417). `segs` are the source ranges in copy order. -/
structure CopyOp where
  core   : Nat
  tag    : Fin 64
  slot   : Nat := 7
  segs   : List (VAddr × Nat)
  esz    : Nat := 1
  dst    : CopyDst
  nbytes : Nat
  layout : BitVec 8 := 0
  task   : Option VAddr := none
  pc     : VAddr := 0
  granted : Bool := false
  /-- Its channel of the cluster's engine (R417): the lowest free one at its issue (DESIGN CHOICE, log entry 23). -/
  chan   : Nat := 0
  /-- Its task restarted or failed after the request was taken: its credits are discarded (R191). -/
  dead    : Bool := false
  /-- It has gone to a ring of another module under this number, and awaits the report (R417). -/
  sent    : Option Nat := none
  /-- A failure found from the channel's grant on (R416 step 14, R417). -/
  failed : Cause := 0
  failAddr : Word := 0
  /-- The source bytes as they stood at the grant, and for each whether its line was poisoned (R115). -/
  data   : List Byte := []
  pois   : List Bool := []
deriving DecidableEq, Repr

/-- A STASH or RESTORE in flight (R418, R419). -/
structure StashOp where
  core   : Nat
  tag    : Fin 64
  stash  : Bool
  elems  : VAddr
  n      : Nat
  blocks : VAddr
  fmt    : BitVec 2
  sr     : Bool
  key    : Word
  step   : BitVec 32
  row    : BitVec 32
  col0   : BitVec 32
  task   : Option VAddr := none
  /-- The bytes read at issue, and for each whether its line was poisoned (R245, R419). -/
  data   : List Byte := []
  pois   : List Bool := []
deriving DecidableEq, Repr

/-- A logical core (chapters The Barrel Core and Its Fibres, Task Graphs, and the owners its fields name). -/
structure Core where
  /-- s0–s31 (R186). -/
  s        : Vector Word 32 := Vector.replicate 32 0
  /-- Fibres by number: 0 urgent (main plane), 1 courier, 2–4,095 others (R286). -/
  fibres   : List (Nat × Fibre)
  /-- Worker slots 1–6 (R177): the fibre number each holds. -/
  slots    : Vector (Option Nat) 6 := Vector.replicate 6 none
  /-- The slot that issued last (R178); after reset slot 7, so that slot 0 is considered first (DESIGN CHOICE, log entry 3). -/
  lastSlot : Fin 8 := 7
  /-- Bit s: slot s has issued in the present rotation (R178). -/
  issued   : BitVec 8 := 0
  wb       : List Writeback := []
  /-- The urgent fibre is idle (R188). -/
  idle     : Bool := true
  /-- The urgent shadow plane: a0–a7, flags and PC (R185, R300). -/
  shadowA  : Vector Word 8 := Vector.replicate 8 0
  shadowFl : Word := 0
  shadowPc : VAddr := 0
  /-- Status of the shadow plane while a handler runs. -/
  shadowSt : Status := .ready
  shadowTrap : Option TrapInfo := none
  shadowPend : Option Pending := none
  shadowNoBreak : Bool := false
  /-- When the handler's wait began, and the wait that has just ended (R190, R376). -/
  shadowSince : Nat := 0
  shadowWake : Option Wait := none
  /-- The first cycle in which the handler may issue again (R348). -/
  shadowDue : Nat := 0
  /-- The kinds of FENCE that the port still keeps for earlier accesses: LL, LS, SL, SS (R237, R366). -/
  fence    : BitVec 4 := 0
  /-- A PC-match handler runs for this fibre (R300). -/
  handler  : Option Nat := none
  -- Registers (R155, R208, R213, R215, R188, R192, R256, R299, R374, R413, R435)
  split    : Word := 6
  vgrp     : Word := 0
  bal      : Word := 0x208
  preempt  : Word := 0x110
  upTimer  : Bool := false
  upSoft   : Bool := false
  uctl     : Word := 0x3
  uvec     : Word
  uepc     : Word := 0x0100000000000000
  uefl     : Word := 0
  courier  : Word
  /-- A CORE_COURIER value that waits to take effect (R192). -/
  courierNext : Option Word := none
  dtErr    : Bool := false
  dtEidx   : BitVec 8 := 0
  dtEtab   : Bool := false
  dtBusy0  : Bool := false
  dtBusy1  : Bool := false
  /-- Entries of decode tables 0 and 1 that differ from their reset contents (R255). -/
  dtab0    : Sparse (BitVec 19) := []
  dtab1    : Sparse (BitVec 19) := []
  /-- Host writes of a table that wait for its users (R256): an entry and its value, or (none) a reload. -/
  dtWait   : List (Bool × Option (BitVec 8 × Word × Word)) := []
  /-- The pending-trap queue: fibre numbers, head first (R283). -/
  trapQ    : List Nat := []
  /-- CORE_TREG values written while the present head was the head (R283). -/
  treg     : Vector (Option Word) 9 := Vector.replicate 9 none
  msgTx    : Word := 0
  msgRx    : Word := 0
  xmTx     : Word := 0
  xmRx     : Word := 0
  /-- The four counters latched at the last stop (R292). -/
  latched  : Vector Word 4 := Vector.replicate 4 0
  gsCyc    : Word := 0
  /-- Held by a gang stop, a debug halt, or a CORE_SPLIT change (R214, R291, R306). -/
  stopped  : Bool := false
  halted   : Bool := false
  /-- CORE_SC and CORE_RDYH (R298). -/
  sc       : Sparse Word := []
  rdyh     : Sparse Word := []
  pfRun    : Bool := true
  pfClr    : Bool := false
  /-- The classes of the slots in the last rotation, two bits a slot (R296, R307). -/
  lastClass : BitVec 16 := 0
  /-- The lowest class, of 1 to 3, that each slot has had in the present rotation, two bits a slot (R296). -/
  seen     : BitVec 16 := 0xFFFF
  pmpc     : Vector Word 16 := Vector.replicate 16 0
  pmhnd    : Vector Word 16 := Vector.replicate 16 0
  pmsrc    : Word := 0
  /-- Fibres held at a match point, in the order the matches arose, each with its match point and slot (R300, R301). -/
  matchQ   : List (Nat × Fin 16 × Nat) := []
  inbox    : Word := 0
  inHead   : BitVec 32 := 0
  inTail   : BitVec 32 := 0
  tags     : Word := BitVec.allOnes 64
  /-- CORE_TAGST[i]: CAUSE, FAIL, POIS (R377). -/
  tagst    : Sparse (BitVec 11) := []
  /-- Detail addresses of the tags' failures, for the trap that reports one (R286). -/
  tagAddr  : Sparse Word := []
  /-- b0–b3 (R380, R381). -/
  bar      : Vector Barrier 4 := Vector.replicate 4 {}
  acc      : Vector Acc 4 := Vector.replicate 4 {}
  skip     : Vector Skip 4 := Vector.replicate 4 {}
  mmcap    : Word := 0
  matQ     : List MatCmd := []
  tmIntvl  : BitVec 48 := 0
  tmOvr    : BitVec 8 := 0
  tmPer    : Bool := false
  tmDeadline : Word := 0
  -- Combining tree (R69–R72)
  treeJoin : Bool := false
  treeIn   : List Word := []
  treeOut  : List TreeEntry := []
  treeHeld : List TreeEntry := []
  -- Mailboxes, courier (R190–R193)
  mb       : Vector Mailbox 4 := Vector.replicate 4 {}
  /-- The request that the default courier has taken and whose command has not issued (R193). -/
  courierCmd : Option Mailbox := none
  /-- The mailbox the default courier served last (R193); after reset mb3, so that mb0 is served first (DESIGN CHOICE, log entry 3). -/
  mbLast   : Fin 4 := 3
  /-- The task of the request the courier took most recently; none before any take (R192). -/
  courierTask : Option VAddr := none
  /-- That task has restarted or failed since (R191). -/
  courierDead : Bool := false
  -- Scheduler (R142–R151)
  /-- The four deques, priority 0 first, each bottom first; the first `hw` entries are held in hardware. -/
  deques   : Vector (List DqEntry) 4 := Vector.replicate 4 []
  dqHw     : Vector Nat 4 := Vector.replicate 4 0
  tasks    : List Task := []
  /-- The non-empty bit last announced on the steal network (R151). -/
  announced : Bool := false
  /-- A steal reply on its way to this core (R151): none in flight, an empty reply, or an entry. -/
  stealIn  : Option (Option DqEntry) := none
  /-- Victims that this core's present attempt has asked (R151). -/
  stealTried : List Nat := []
  /-- Entries that balancing sends to this core (R151). -/
  balIn    : List DqEntry := []
  -- Engines (R386, R412, R418)
  vec      : Option EngineOp := none
  vecPaused : List EngineOp := []
  mat      : Option EngineOp := none
  matPaused : List EngineOp := []
  stashes  : List StashOp := []
  /-- Locked lines of the cache portion: line numbers (R227). -/
  locks    : List Nat := []
  /-- The core has been fenced and its spare has not taken up yet (R118). -/
  fenced   : Bool := false
  fenceCause : Cause := 0
  /-- A write that stands in the fenced core's port cannot be read (R250). -/
  portBad  : Bool := false
  /-- DIE_CYCLE since which some slot has held a ready fibre and no instruction has retired (R117). -/
  wdSince  : Nat := 0
deriving DecidableEq, Repr

/-! ## Clusters, dies and books -/

/-- A cluster: repair, debug and trace registers (R120, R303–R309) and its copy engine (R417). -/
structure Cluster where
  /-- CLU_L2P entries that differ from the unrepaired arrangement (R120). -/
  l2p     : Sparse (BitVec 9) := []
  /-- Free spares, physical indices, lowest first. -/
  spares  : List Nat := [16, 33, 50, 67, 84, 101, 118, 135]
  bp      : Vector Word 8 := Vector.replicate 8 0
  wp      : Vector Word 4 := Vector.replicate 4 0
  dbgGang : Bool := false
  dbgOwn  : Bool := false
  halted  : Bool := false
  halting : Bool := false
  reason  : Cause := 0
  src     : CoreId := 0
  trcfg   : Word := 0x4000
  trbase  : Word := 0
  trpos   : Word := 0
  /-- The records of the cycle that a record was last written in, with the cycle (R307). -/
  trNow   : Nat × List (CoreId × List Byte) := (0, [])
  /-- The core the next trace sample comes from (R307). -/
  trNext  : Nat := 0
  rptask  : Word := 0
  rpcnt   : Word := 0
  copies  : List CopyOp := []
deriving DecidableEq, Repr

/-- The states of a schedule book (R164). -/
inductive BookState where
  | empty | ready | run | held | done | fault
deriving DecidableEq, Repr

/-- A ring-table entry of a book (R159). -/
structure BookRing where
  core : CoreId
  off  : BitVec 16
  down : Bool
deriving DecidableEq, Repr

/-- A book entry (R160). -/
structure BookEntry where
  mb    : BitVec 16
  stage : BitVec 8
  kind  : BitVec 2
  sop   : BitVec 2
  slot  : BitVec 6
  up    : BitVec 4
  dn    : BitVec 4
  upn   : BitVec 8
  dnn   : BitVec 8
  graph : VAddr
  ntask : BitVec 32
deriving DecidableEq, Repr

/-- A die's schedule book (R158–R170). -/
structure Book where
  state   : BookState := .empty
  cause   : Cause := 0
  fent    : BitVec 10 := 0
  ctx     : BitVec 6 := 0
  ckhold  : Bool := false
  /-- The last of GO and PAUSE while CKHOLD is set was, or before it stood at, GO (R164). -/
  ckgo    : Bool := false
  pos     : Nat := 0
  step    : BitVec 32 := 0
  stash   : Word := 0
  codec   : Word := 0
  idle    : Vector Word 4 := Vector.replicate 4 0
  cred    : Vector (BitVec 9) 8 := Vector.replicate 8 0
  rings   : List BookRing := []
  entries : List BookEntry := []
  infl    : Nat := 0
  loop    : Bool := false
  donea   : VAddr := 0
  stashBase : VAddr := 0
  stashSlot : BitVec 32 := 0
  nstash  : BitVec 7 := 0
  keyid   : Word := 0
  /-- Launches in flight: launch number and entry index. -/
  flight  : List (Nat × Nat) := []
  /-- Ring notices on their way to this book: ring-table index (R163). -/
  notices : List Nat := []
  /-- Book links that name this die: the ring's core, its offset, and whether it is downstream (R162, R204). -/
  links   : List (CoreId × Nat × Bool) := []
deriving DecidableEq, Repr

/-- A move of the die's migration engine (R229). -/
structure Migration where
  ctx   : Nat
  va    : VAddr
  src   : Nat
  dst   : Nat
  size  : Nat
  /-- Bytes already moved. -/
  moved : Nat := 0
  pois  : Bool := false
  /-- Address of the leaf to rewrite. -/
  leaf  : Nat
deriving DecidableEq, Repr

/-- An event record (R122). -/
structure EvRec where
  cycle  : Word
  src    : CoreId
  code   : BitVec 16
  sev    : BitVec 8
  ctx    : BitVec 8
  detail : BitVec 128
deriving DecidableEq, Repr

/-- A compute die (R20–R25, R43, R117, R122–R124, R228, R368). -/
structure Die where
  /-- DIE_SPCAP.STACK and FUSED (R22). -/
  stack   : Bool := true
  fused   : Bool := false
  cycle   : Word := 0
  /-- DIE_CYCLE at the last warm reset (R38). -/
  resetAt : Nat := 0
  wdog    : BitVec 5 := 24
  evPos   : BitVec 32 := 0
  evCfg   : BitVec 3 := 0b101
  /-- The recorder's ring, newest record in place of the oldest: index and record. -/
  evRecs  : List (Nat × EvRec) := []
  rsvTmo  : BitVec 5 := 16
  csel    : BitVec 26 := 0
  migVa   : Word := 0
  migDpa  : Word := 0
  migDone : Bool := false
  migErr  : BitVec 3 := 0
  mig     : Option Migration := none
  /-- Core-rail current and throttling (R42). -/
  amps    : BitVec 12 := 0
  throttled : Bool := false
  /-- DIE_CYCLE at which the die last throttled; none if never. -/
  throtAt : Option Nat := none
  book    : Book := {}
deriving DecidableEq, Repr

/-! ## Contexts and queues -/

/-- A submission queue (R84, R86, R89). -/
structure SubQ where
  base  : Word := 0
  en    : Bool := false
  halt  : Bool := false
  cq    : BitVec 4 := 0
  log2  : BitVec 4 := 0
  err   : Bool := false
  seq   : BitVec 16 := 0
  head  : BitVec 32 := 0
  tail  : BitVec 32 := 0
  tries : Nat := 0
deriving DecidableEq, Repr

/-- A completion queue (R85, R94). -/
structure CompQ where
  base  : Word := 0
  en    : Bool := false
  log2  : BitVec 4 := 0
  vec   : BitVec 11 := 0
  mask  : Bool := false
  err   : Bool := false
  head  : BitVec 32 := 0
  count : BitVec 32 := 0
  /-- Entries held inside the part while the queue is full: the four words of each (R94). -/
  held  : List (BitVec 128) := []
deriving DecidableEq, Repr

/-- A packet read from a queue: header, body words, and where it stands (R87–R91). -/
structure Packet where
  id    : Nat
  q     : Nat
  stamp : BitVec 16
  kind  : BitVec 8
  order : Bool
  quiet : Bool
  tag   : BitVec 32
  body  : Vector Word 6
  /-- It has issued (R91). -/
  issued : Bool := false
  /-- DIE_CYCLE of die 0 from which a WAIT's timeout counts (R98); RESULT plus 1 of a BOOK that has loaded and whose entry waits (R100). -/
  mark  : Nat := 0
deriving DecidableEq, Repr

/-- A 64-byte fault-queue entry without PHASE (R286, R103). `pc` is the address of the instruction. -/
structure FqEntry where
  info  : TrapInfo
  task  : Bool
  urg   : Bool := false
  repl  : Bool := false
  nofib : Bool
  ctx   : Nat
  core  : CoreId
  fibre : Nat
  recAddr : VAddr
deriving DecidableEq, Repr

/-- A tree round of a context (R69): its members, and the words that members have contributed. -/
structure TreeRound where
  seq     : BitVec 8
  members : List Nat
  words   : List (Nat × Word) := []
  lost    : Bool := false
  /-- Members fenced after they contributed: their results are discarded (R118). -/
  gone    : List Nat := []
deriving DecidableEq, Repr

/-- One participant die of a collective (R50–R57), with the core that started it. -/
structure CollPart where
  die   : Nat
  core  : Nat
  tag   : Fin 64
  desc  : List Byte
  /-- The source shard as the part read it, and for each byte whether its line was poisoned (R63, R64). -/
  src   : List Byte := []
  pois  : List Bool := []
  /-- COLL_NF as it stood at the start (R59, R73). -/
  nf    : BitVec 2 := 0
  /-- Chunks for which a ready-to-receive is out, and chunks that have arrived (R55, R57). -/
  ready : List Nat := []
  got   : List Nat := []
  done  : Bool := false
deriving DecidableEq, Repr

/-- A ready-to-receive of a participant on another module (R55): who asks, the chunk, its address and its length. -/
structure CollAsk where
  dst   : CoreId
  chunk : Nat
  addr  : VAddr
  len   : Nat
deriving DecidableEq, Repr

/-- A collective in flight (R52–R65). -/
structure Coll where
  id    : BitVec 32
  parts : List CollPart
  /-- The descriptors have been compared and agree. -/
  agreed : Bool := false
  /-- Pass-one results per block of a group: E, F, N (R58). -/
  pass1 : List (Nat × BitVec 8 × BitVec 8 × BitVec 32) := []
  /-- Reduced blocks and their elements (R60, R61). -/
  pass2 : List (Nat × List (BitVec 32)) := []
  /-- What participants of other modules ask for, and what they have been sent (R55). -/
  asked : List CollAsk := []
  served : List CollAsk := []
deriving DecidableEq, Repr

/-- A shard of a checkpoint copy (R130, R131). -/
structure Shard where
  id     : Word
  va     : VAddr
  len    : Nat
  off    : Nat
  layout : Word
  rgroup : BitVec 32
  ridx   : BitVec 16
  owner  : BitVec 16
  flags  : BitVec 8
  ref    : Bool := false
  ctxShard : Bool := false
  digest : BitVec 512
  /-- Members that have sent their digests (R131). -/
  heard  : List (BitVec 16) := []
  /-- A member was left out: the shard is written in full (R131). -/
  full   : Bool := false
deriving DecidableEq, Repr

/-- The checkpoint or restore of a context in progress (R130, R134). -/
structure Ckpt where
  pkt     : Nat
  restore : Bool
  id      : Word
  deva    : VAddr
  hosta   : Word
  dedup   : Bool := false
  /-- The step boundary was reached, and the halt tree stops the context. -/
  cuts    : Bool := false
  shards  : List Shard := []
  /-- Messages to and from other modules, as recorded at the cut. -/
  sent    : Word := 0
  recv    : Word := 0
  /-- Rows and columns of the mesh in a manifest that is restored: rows + 256 × columns. -/
  mesh    : Nat := 0
  /-- DIE_CYCLE of die 0 when the second copy was complete (R131). -/
  since   : Nat := 0
  /-- Why a checkpoint fails, or how a restore ended. -/
  failed  : Cause := 0
  /-- A restore has read its shards. -/
  ended   : Bool := false
deriving DecidableEq, Repr

/-- A context (R81–R103, R121, R126, R129, R157, R184, R219, R224, R282, R285, R294, R442). -/
structure Ctx where
  en       : Bool := false
  err      : Bool := false
  rect     : Vector Word 4 := Vector.replicate 4 0
  sqs      : Sparse SubQ := []
  cqs      : Sparse CompQ := []
  /-- The host fault queue, with the map of a completion queue (R102). -/
  fq       : CompQ := {}
  fqLost   : BitVec 32 := 0
  /-- Entries that wait for room in the fault queue, in order (R102, R103). -/
  fqHeld   : List FqEntry := []
  retry    : BitVec 4 := 3
  dumpBase : Word := 0
  dumpLen  : Word := 0
  ckList   : Word := 0
  ckPhase  : BitVec 2 := 0
  ckFail   : Bool := false
  pinq     : Word := 0x00100080
  dqBase   : Word := 0
  fscfg    : Word := 0
  ptPool   : Word := 0
  /-- Pages of the pool that hold tables, besides the root (R219). -/
  ptUsed   : List Nat := []
  memq     : Word := 0x0000100020000780
  /-- Bytes of valid leaves in die store, HBM and LPDDR6 (R224). -/
  useDs    : Nat := 0
  useHbm   : Nat := 0
  useLp    : Nat := 0
  deleg    : BitVec 23 := BitVec.allOnes 23
  fcmdErr  : Bool := false
  stopped  : Bool := false
  stopping : Bool := false
  reason   : Cause := 0
  /-- Stop reasons in force (R295). -/
  reasons  : List Cause := []
  /-- DIE_CYCLE of each die at the stop (R126). -/
  stopAt   : List Nat := []
  /-- DIE_CYCLE of die 0 at the context's fatal fault (R127). -/
  fatalAt  : Nat := 0
  hcfg     : Bool := false
  packets  : List Packet := []
  rounds   : List TreeRound := []
  /-- Number of the context's next tree round (R69). -/
  nextRound : BitVec 8 := 0
  colls    : List Coll := []
  /-- Participants, by COLLID and die, that have yet to start a collective whose descriptors differ (R52). -/
  collLate : List (BitVec 32 × Nat) := []
  ckpt     : Option Ckpt := none
  /-- A finished checkpoint copy that still drains after step 5 of R130 (R295). -/
  drain    : Option Ckpt := none
  /-- A CHECKPOINT or RESTORE waits for the step boundary or works at it: no LAUNCH issues (R130, step 2; R134). -/
  cutting  : Bool := false
deriving DecidableEq, Repr

/-! ## Module -/

/-- A Fensy port (R26–R33). -/
structure Port where
  up     : Bool := false
  degr   : Bool := false
  swap   : BitVec 5 := 31
  /-- The margins last measured, by lane (R32). -/
  margins : Sparse (BitVec 8) := []
  retry  : BitVec 16 := 0
  /-- The next sequence number to send, and the replay buffer, oldest first (R29). -/
  txSeq  : BitVec 12 := 0
  replay : List Flit := []
  /-- The messages that the flits of `replay` and then of `moved` carry. -/
  load   : List Nat := []
  /-- Flits put on the link, oldest first. -/
  out    : List Flit := []
  /-- Successive replays of the oldest flit (R30). -/
  tries  : Nat := 0
  /-- Flits put on the link before the last replay that the receiver may still refuse: their negative acknowledgements say nothing
  of the replay (R30; log entry 41, DEDUCED). -/
  stale  : Nat := 0
  /-- The port that carries the traffic whose own port this one is, where that is another (R30, R31). -/
  via    : Option (Fin 16) := none
  /-- Payloads of a port that went down, which this one sends before anything newer (R30). -/
  moved  : List (BitVec 960) := []
  /-- The port went down under R30: it is not trained again before the next cold reset. -/
  failed : Bool := false
  /-- The highest sequence number received in order. -/
  rxSeq  : BitVec 12 := BitVec.allOnes 12
  /-- Flits that have left the link layer in order (R29). -/
  rx     : List Flit := []
  /-- Acknowledgements sent: sequence number, and whether negative (R28, R29). -/
  acks   : List (BitVec 12 × Bool) := []
  /-- The lane that the spare is trained to replace (R32). -/
  training : Option (Fin 16) := none
deriving DecidableEq, Repr

/-- The operation of an atomic (R367, R369, R370). -/
inductive AtomicForm where
  | lr | add | and | or | xor | max | min | umax | umin | xchg | cas | fadd | acc
deriving DecidableEq, Repr

/-- An atomic that waits for its grant, or for its release (R241): the form, its bytes and address, its operands (`y` from RT, `x`
from RD), its destination, and the instruction's place for a trap. -/
structure AtomicOp where
  form  : AtomicForm
  key   : Nat
  size  : Nat
  va    : VAddr := 0
  y     : Word := 0
  x     : Word := 0
  dst   : Option GReg := none
  /-- It carries acquire order (R362). -/
  acq   : Bool := false
  /-- It was issued on the urgent shadow plane (R300). -/
  shadow : Bool := false
  iss   : Issue
deriving DecidableEq, Repr

/-- A granted or queued reservation (R241) on `count` granules from `gran` (four for an accumulator cell, R270). -/
structure Grant where
  gran  : Nat
  count : Nat := 1
  core  : Nat
  fibre : Nat
  granted : Bool
  /-- DIE_CYCLE of the home's die at the grant (R368). -/
  since : Nat := 0
  /-- The home has answered MOVED: the request is to be issued again at the destination (R229). -/
  away  : Bool := false
  /-- MOVED answers that the request has had (R368). -/
  moved : Nat := 0
  /-- The atomic that the reservation serves; none for an LR (R367). -/
  op    : Option AtomicOp := none
deriving DecidableEq, Repr

/-- A write that is not applied yet (R232), with the core that made it, if any: one that waits at the home behind a grant (R241) or
behind an earlier write of its core, or one of an engine instruction in flight. It has bytes, or the addition of a SIGINC to a 4-byte
word (R373). -/
structure WaitingWrite where
  core  : Option Nat
  key   : Nat
  bytes : List Byte
  add   : Option (BitVec 32) := none
  /-- The engine instruction that makes it, while that runs (R386). -/
  op    : Option Nat := none
  /-- The lines, among those it touches, that the write poisons (R105, R115). -/
  pois  : List Nat := []
deriving DecidableEq, Repr

/-- A fibre's WRS wait (R367), or its WAITGE wait for a target (R242): the location, and its value after the write that
ended the wait. -/
structure Watch where
  core  : Nat
  fibre : Nat
  shadow : Bool := false
  key   : Nat
  size  : Nat
  target : Option (BitVec 32) := none
  /-- The address operand (R288). -/
  va    : VAddr := 0
  dst   : Option GReg := none
  done  : Option Word := none
deriving DecidableEq, Repr

/-- The management mailbox and attestation (R111, R112). -/
structure Mgmt where
  attn    : Vector Word 8 := Vector.replicate 8 0
  attAddr : Word := 0
  attBusy : Bool := false
  attDone : Bool := false
  mbxAddr : Word := 0
  mbxBusy : Bool := false
  mbxDone : Bool := false
  mbxErr  : Bool := false
  mbxLen  : BitVec 16 := 0
  /-- The partition record in flash for the next cold reset (R27, R112). -/
  partRec : Word := 0
  /-- DEV_BOOT (R109). -/
  boot    : Word := 0
  /-- The four measurements recorded at boot (R108, R111). -/
  meas    : List Byte := []
  /-- Firmware slots A and B of the package flash (R108). -/
  flash   : Vector (Option FwSlot) 2 := Vector.replicate 2 none
deriving DecidableEq, Repr

/-- A peer-write window (R104). -/
structure PwWin where
  win : Word := 0
  va  : Word := 0
deriving DecidableEq, Repr

/-- The dump engine (R126–R128). -/
structure Dump where
  tcm    : Bool := false
  busy   : Bool := false
  done   : Bool := false
  trunc  : Bool := false
  ctx    : BitVec 6 := 0
  /-- Contexts whose dumps are queued, in order, with the fatal cause and the faulting core. -/
  queue  : List (Nat × Cause × CoreId) := []
  /-- The dump being written: base, length, records written, and secondary records (R127). -/
  base   : Nat := 0
  len    : Nat := 0
  recs   : Nat := 0
  second : Nat := 0
  /-- The secondary records stored, at most 64: cause, core and DIE_CYCLE. -/
  seconds : List (Cause × CoreId × Nat) := []
  cause  : Cause := 0
  core   : CoreId := 0
deriving DecidableEq, Repr

/-- The whole module. -/
structure State where
  /-- Bytes of every memory that differ from zero, by home key (`Sys2Proof/Machine/Ops.lean` lays the keys out):
  device physical memory, TCM, scratchpad and host memory. -/
  mem      : List Host.Cell := []
  /-- Poisoned 64-byte lines, by key div 64, strictly rising (R115). -/
  poison   : List Nat := []
  /-- Cores that differ from the core at reset, by leaf index L (R66). -/
  cores    : Sparse Core := []
  clusters : Sparse Cluster := []
  dies     : Vector Die 8 := Vector.replicate 8 {}
  ctxs     : Sparse Ctx := []
  ports    : Vector Port 16 := Vector.replicate 16 {}
  /-- The module number (R7) and MOD_PART (R27). -/
  modNum   : BitVec 16 := 0
  part     : Word := 0
  lmthr    : BitVec 8 := 24
  /-- MOD_BUDGET shares that differ from R34, by class × 8 + activity, and writes waiting for a period (R36). -/
  budget   : Sparse (BitVec 13) := []
  budgetNext : List (Nat × BitVec 13) := []
  /-- Units used in the present period, by class × 8 + activity (R35). -/
  used     : Sparse Nat := []
  bErr     : BitVec 7 := 0
  /-- A pending or running reset: none, warm (false) or cold (true) (R40). -/
  reset?   : Option Bool := none
  pwrDie   : BitVec 3 := 0
  nfCfg    : BitVec 2 := 0
  nfCnt    : BitVec 32 := 0
  collSteps : BitVec 8 := 0
  collPois : Bool := false
  collAbort : Bool := false
  dump     : Dump := {}
  cxlWin   : Word := 0
  pwWins   : Sparse PwWin := []
  pwDrop   : BitVec 32 := 0
  mgmt     : Mgmt := {}
  /-- Messages in flight, in the order they were sent (R247). -/
  msgs     : List Msg := []
  /-- Messages that have left for other modules (R292). -/
  outMsgs  : List Msg := []
  /-- Messages to other modules that have been put on their links. -/
  linked   : Nat := 0
  grants   : List Grant := []
  heldWrites : List WaitingWrite := []
  /-- Fibres in a WRS wait (R367) or a WAITGE wait (R242). -/
  watches  : List Watch := []
  launches : List Launch := []
  /-- What failures have left to do and cannot be done yet, such as a decrement behind a reservation (R144, R241): context, core, and
  what to do. -/
  todos    : List (Nat × Nat × Todo) := []
  /-- Slot-state entries whose POIS a credit outside every task's records set (R202). -/
  poisKept : List Nat := []
  /-- Records that tasks of other modules hold on rings here (R198): the core, the task record and the record. -/
  awayHolds : List (CoreId × VAddr × Hold) := []
  /-- MSI-X vectors sent, oldest first (R94, R111, R112). -/
  msix     : List Nat := []
  /-- The value the part returned to the last host read (R76, R77). -/
  hostData : Word := 0
  /-- The bytes that the last CXL read returned, up to a line (R78). -/
  hostBytes : List Byte := []
  /-- The poison indication returned with it (R78). -/
  hostPois : Bool := false
  /-- Back-Invalidate snoops issued, and lines that the host caches (R80). -/
  hostLines : List Nat := []
  snoops   : List Nat := []
  -- The model's own bookkeeping
  /-- Numbers for packets, launches and messages. -/
  nextId   : Nat := 0
  /-- Counter that the free values of `Sys2Proof/Config.lean` are applied to. -/
  free     : Nat := 0
  /-- Events that the environment and the part's timing place next, first to come first. -/
  agenda   : List Event := []
  /-- The event latch: the event that an event row of `exec` acts on. -/
  ev       : Event := .idle
  /-- The core that the barrel considers in the next cycle of the model. -/
  focus    : Nat := 0
  cur      : Issue := {}
deriving DecidableEq, Repr

/-- A core right after reset: the urgent fibre idle at the firmware's entry and the courier at its own (R188, R192,
R209). The two entry addresses are the firmware's (log entry 3). -/
def Core.atReset : Core :=
  { uvec := 0, courier := 0
    fibres := [(0, { status := .ready }), (1, { status := .waiting (.mailboxFull 0) })] }

/-- A core that nothing has touched in `n` rotations since reset, the last of which ended in cycle `t`: in each of them its
slots 0–6 were vacant, and its courier waited at its take in slot 7 (R192, R296–R298). -/
def untouched (n t : Nat) : Core :=
  if n = 0 then { Core.atReset with wdSince := t }
  else
    { Core.atReset with
      sc := (List.range 7).map (fun i => (4 * i + 3, BitVec.ofNat 64 n)) ++ [(30, BitVec.ofNat 64 n)]
      rdyh := [(0, BitVec.ofNat 64 n)], lastClass := 0xBFFF
      wdSince := t }

/-- The module right after cold reset (R37, R38). -/
def State.reset : State := {}

end Sys2Proof.Machine
end

