-- ==== Sys2Proof/Machine/Base.lean ====
section
/-! DEFINITION. Maps, memory by home key, coordinates of cores and clusters (spec/00_scope.md R5–R10), and the accessors
of the module's parts. Memory is one list of bytes; the home keys are laid out below.
Log entries: 1 (DESIGN CHOICE). -/

namespace Sys2Proof.Machine

/-- The firmware is in recovery: only the DEV_ registers respond (R109). -/
def State.recovery (s : State) : Bool := s.mgmt.boot.extractLsb' 0 2 == 2

/-- The latched event of a host access to another register: in recovery it acts as one of an unassigned offset. -/
def State.hostEv (s : State) : Event := if s.recovery then .idle else s.ev

/-! ## Maps -/

/-- The value at a key. -/
def spGet {α : Type} (m : Sparse α) (k : Nat) (d : α) : α :=
  match m with
  | [] => d
  | (i, x) :: r => if i = k then x else spGet r k d

/-- The map with a key set. -/
def spPut {α : Type} (m : Sparse α) (k : Nat) (x : α) : Sparse α :=
  match m with
  | [] => [(k, x)]
  | (i, y) :: r => if k < i then (k, x) :: (i, y) :: r else if i = k then (k, x) :: r else (i, y) :: spPut r k x

/-- The map without a key. -/
def spDel {α : Type} (m : Sparse α) (k : Nat) : Sparse α := m.filter fun e => e.1 ≠ k

/-- Whether a key is listed. -/
def spHas {α : Type} (m : Sparse α) (k : Nat) : Bool := m.any fun e => e.1 == k

/-! ## Memory -/

/-- The byte at a home key; an unlisted key reads as 0 (R37; host memory: log entry 1). -/
def memGet (m : List Host.Cell) (k : Nat) : Byte :=
  match m with
  | [] => 0
  | (i, x) :: r => if i = k then x else if k < i then 0 else memGet r k

/-- Memory with one byte written, in canonical form. -/
def memPut (m : List Host.Cell) (k : Nat) (b : Byte) : List Host.Cell :=
  match m with
  | [] => if b = 0 then [] else [(k, b)]
  | (i, x) :: r =>
    if k < i then (if b = 0 then (i, x) :: r else (k, b) :: (i, x) :: r)
    else if i = k then (if b = 0 then r else (k, b) :: r)
    else (i, x) :: memPut r k b

/-- The canonical form: keys strictly rising above `lo`, no byte equal to what an unlisted key reads as. -/
def memWfFrom (lo : Nat) (m : List Host.Cell) : Bool :=
  match m with
  | [] => true
  | (i, x) :: r => decide (lo ≤ i) && decide (x ≠ 0) && memWfFrom (i + 1) r

/-- The canonical form of a memory. -/
def Memory.wf (m : List Host.Cell) : Bool := memWfFrom 0 m

/-- Bytes written at rising keys. -/
def memPuts (m : List Host.Cell) (k : Nat) (bs : List Byte) : List Host.Cell :=
  match bs with
  | [] => m
  | b :: r => memPuts (memPut m k b) (k + 1) r

/-- `n` bytes from a key. -/
def memGets (m : List Host.Cell) (k n : Nat) : List Byte :=
  match n with
  | 0 => []
  | n + 1 => memGet m k :: memGets m (k + 1) n

/-- Memory with the bytes of a range at zero. -/
def memClear (m : List Host.Cell) (k n : Nat) : List Host.Cell := m.filter fun c => c.1 < k || k + n ≤ c.1

/-- Little-endian value of bytes (R12). -/
def leNat (bs : List Byte) : Nat :=
  match bs with
  | [] => 0
  | b :: r => b.toNat + 256 * leNat r

/-- `n` little-endian bytes of a number (R12). -/
def leBytes (n : Nat) (v : Nat) : List Byte :=
  match n with
  | 0 => []
  | n + 1 => BitVec.ofNat 8 v :: leBytes n (v / 256)

/-- Home key of TCM offset `off` of core L. -/
def tcmKey (L off : Nat) : Nat := 2 ^ 50 + L * 0x40000 + off

/-- Home key of scratchpad offset `off` of cluster k of the module. -/
def scratchKey (k off : Nat) : Nat := 2 ^ 51 + k * 0x4000000 + off

/-- Home key of a host address. -/
def hostKey (a : Nat) : Nat := 2 ^ 64 + a

/-- Bytes of the module's memory at a key. -/
def State.bytes (s : State) (k n : Nat) : List Byte := memGets s.mem k n

/-- Little-endian value at a key. -/
def State.rd (s : State) (k n : Nat) : Nat := leNat (memGets s.mem k n)

/-- A 64-bit value at a key. -/
def State.rd64 (s : State) (k : Nat) : Word := BitVec.ofNat 64 (s.rd k 8)

/-- A rising list of numbers with one inserted. -/
def insNat (l : List Nat) (n : Nat) : List Nat :=
  match l with
  | [] => [n]
  | i :: r => if n < i then n :: i :: r else if i = n then i :: r else i :: insNat r n

/-- The lines that a range of keys touches. -/
def linesOf (k n : Nat) : List Nat := (List.range ((k + n + 63) / 64 - k / 64)).map (· + k / 64)

/-- Whether a range holds poison (R115). -/
def State.poisoned (s : State) (k n : Nat) : Bool :=
  n != 0 && s.poison.any fun l => k / 64 ≤ l && l ≤ (k + n - 1) / 64

/-- The poison list after bytes are written: a line written whole loses its poison (R115). -/
def unpoison (p : List Nat) (k n : Nat) : List Nat :=
  p.filter fun l => !(decide (k ≤ l * 64) && decide (l * 64 + 64 ≤ k + n))

/-- Marks the lines of a range as poison. -/
def State.markPoison (s : State) (k n : Nat) : State :=
  { s with poison := (linesOf k n).foldl insNat s.poison }

/-- (v − T) mod 2^32, signed, is at least 0 (R242). -/
def reached (v t : BitVec 32) : Bool := !(v - t).msb

/-- A wait that a write to its granule leaves: WRS ends with the value after it (R367), WAITGE where the value reaches
the target (R242). -/
def Watch.after (w : Watch) (v : Nat) : Watch :=
  if w.target.all fun t => reached (BitVec.ofNat 32 v) t then { w with done := some (BitVec.ofNat 64 v) } else w

/-- The waits after a memory's range of `n` bytes has been written: those on its granules are tested (R242, R367). -/
def wakeAll (l : List Watch) (m : List Host.Cell) (k n : Nat) : List Watch :=
  l.map fun w =>
    if w.done.isNone && decide (k / 8 ≤ w.key / 8) && decide (w.key / 8 ≤ (k + n - 1) / 8) then w.after (leNat (memGets m w.key w.size)) else w

/-- Bytes written at a key, with the line's poison state kept by R115; the waits on their granules see them (R242). -/
def State.wr (s : State) (k : Nat) (bs : List Byte) : State :=
  let mem := memPuts s.mem k bs
  { s with mem, poison := unpoison s.poison k bs.length, watches := wakeAll s.watches mem k bs.length }

/-- A number written as `n` little-endian bytes. -/
def State.wrN (s : State) (k n v : Nat) : State := s.wr k (leBytes n v)

/-! ## Coordinates (R6, R7, R66) -/

/-- Cores of the module, and of a die. -/
def nCores : Nat := 6144
def dieCores : Nat := 768

def dieOf (L : Nat) : Nat := L / 768
def rowOf (L : Nat) : Nat := L % 768 / 48
def colOf (L : Nat) : Nat := L % 48

/-- Cluster of the module, die × 6 + cluster index (R6). -/
def clusterOf (L : Nat) : Nat := dieOf L * 6 + rowOf L / 8 * 3 + colOf L / 16

/-- Index within the cluster (R6). -/
def inCluster (L : Nat) : Nat := rowOf L % 8 * 16 + colOf L % 16

/-- Leaf index from die, row and column (R66). -/
def leaf (d r c : Nat) : Nat := d * 768 + r * 48 + c

/-- The core of a cluster at a cluster-local index. -/
def clusterCore (k i : Nat) : Nat := leaf (k / 6) (k % 6 / 3 * 8 + i / 16) (k % 3 * 16 + i % 16)

/-- The cores of a cluster, in cluster-local index order. -/
def clusterCores (k : Nat) : List Nat := (List.range 128).map (clusterCore k)

/-- The core identifier of core L with a slot (R7). -/
def State.coreId (s : State) (L slot : Nat) : CoreId :=
  BitVec.ofNat 32 (s.modNum.toNat * 65536 + dieOf L * 8192 + rowOf L * 512 + colOf L * 8 + slot)

/-- The module field of an identifier (R7). -/
def idModule (id : CoreId) : Nat := id.toNat / 65536

/-- The leaf index that an identifier's low half names; none where COL is 48–63 (R8). -/
def idLeaf (id : CoreId) : Option Nat :=
  let col := id.toNat / 8 % 64
  if col < 48 then some (leaf (id.toNat / 8192 % 8) (id.toNat / 512 % 16) col) else none

/-- The core that an identifier names on this module. -/
def State.localCore (s : State) (id : CoreId) : Option Nat := if idModule id = s.modNum.toNat then idLeaf id else none

/-- An identifier with SLOT ignored (R9). -/
def idCore (id : CoreId) : Nat := id.toNat / 8

/-! ## The module's parts -/

def State.die (s : State) (d : Nat) : Die := s.dies.getD d {}
def State.setDie (s : State) (d : Nat) (x : Die) : State := { s with dies := s.dies.setIfInBounds d x }
def State.modDie (s : State) (d : Nat) (f : Die → Die) : State := s.setDie d (f (s.die d))

/-- DIE_CYCLE of a core's die (R43). -/
def State.cycleOf (s : State) (L : Nat) : Nat := (s.die (dieOf L)).cycle.toNat

/-- A core; one that is not listed is untouched since the last reset. -/
def State.core (s : State) (L : Nat) : Core :=
  spGet s.cores L (untouched (s.cycleOf L / 8 - (s.die (dieOf L)).resetAt / 8) (s.cycleOf L / 8 * 8))
def State.setCore (s : State) (L : Nat) (c : Core) : State := { s with cores := spPut s.cores L c }
def State.modCore (s : State) (L : Nat) (f : Core → Core) : State := s.setCore L (f (s.core L))

def State.cluster (s : State) (k : Nat) : Cluster := spGet s.clusters k {}
def State.setCluster (s : State) (k : Nat) (x : Cluster) : State := { s with clusters := spPut s.clusters k x }
def State.modCluster (s : State) (k : Nat) (f : Cluster → Cluster) : State := s.setCluster k (f (s.cluster k))

def State.ctx (s : State) (c : Nat) : Ctx := spGet s.ctxs c {}
def State.setCtx (s : State) (c : Nat) (x : Ctx) : State := { s with ctxs := spPut s.ctxs c x }
def State.modCtx (s : State) (c : Nat) (f : Ctx → Ctx) : State := s.setCtx c (f (s.ctx c))

def State.port (s : State) (p : Nat) : Port := s.ports.getD p {}
def State.setPort (s : State) (p : Nat) (x : Port) : State := { s with ports := s.ports.setIfInBounds p x }

/-- A rectangle of CTX_RECT in use holds a cluster (R81). -/
def rectHas (r : Word) (k : Nat) : Bool :=
  let d := k / 6; let row := k % 6 / 3; let col := k % 3
  r.getLsbD 0
    && decide ((r.extractLsb' 1 3).toNat ≤ d) && decide (d ≤ (r.extractLsb' 4 3).toNat)
    && decide ((r.extractLsb' 7 1).toNat ≤ row) && decide (row ≤ (r.extractLsb' 8 1).toNat)
    && decide ((r.extractLsb' 9 2).toNat ≤ col) && decide (col ≤ (r.extractLsb' 11 2).toNat)

/-- A context's cluster partition holds cluster k (R81). -/
def Ctx.owns (x : Ctx) (k : Nat) : Bool := x.rect.toList.any (rectHas · k)

/-- The context is being disabled: its stop is not over (R82). -/
def Ctx.disabling (x : Ctx) : Bool := x.reasons.contains 0x158

/-- The enabled context that owns a cluster. -/
def State.ownerOf (s : State) (k : Nat) : Option Nat :=
  (s.ctxs.find? fun e => e.2.en && e.2.owns k).map (·.1)

/-- The context of a core. -/
def State.ctxOfCore (s : State) (L : Nat) : Option Nat := s.ownerOf (clusterOf L)

/-- The context number that a core's records name: 0 where no enabled context owns the core. -/
def State.ctxNum (s : State) (L : Nat) : Nat := (s.ctxOfCore L).getD 0

/-- The cores of a context that differ from a core at reset. -/
def State.ctxCores (s : State) (c : Nat) : List Nat :=
  (s.cores.filter fun e => (s.ctx c).owns (clusterOf e.1)).map (·.1)

/-! ## Fibres -/

def Core.fib (c : Core) (f : Nat) : Fibre := spGet c.fibres f {}
def Core.setFib (c : Core) (f : Nat) (x : Fibre) : Core := { c with fibres := spPut c.fibres f x }
def Core.modFib (c : Core) (f : Nat) (g : Fibre → Fibre) : Core := c.setFib f (g (c.fib f))

/-- The fibre in a slot (R177). -/
def Core.inSlot (c : Core) (slot : Nat) : Option Nat :=
  if slot = 0 then some 0 else if slot = 7 then some 1 else c.slots.getD (slot - 1) none

/-- The slot that holds a fibre. -/
def Core.slotOf (c : Core) (f : Nat) : Option Nat :=
  if f = 0 then some 0 else if f = 1 then some 7
  else (List.range 6).findSome? fun i => if c.slots.getD i none = some f then some (i + 1) else none

/-- A worker slot freed (R182). -/
def Core.freeSlot (c : Core) (f : Nat) : Core :=
  { c with slots := c.slots.map fun x => if x = some f then none else x }

/-- The urgent fibre runs on its shadow plane (R300). -/
def Core.shadow (c : Core) (slot : Nat) : Bool := slot == 0 && c.handler.isSome

/-- A fibre that is in no state of the list at all. -/
def Core.hasFib (c : Core) (f : Nat) : Bool := spHas c.fibres f

/-- The task of a core with a record address. -/
def Core.task? (c : Core) (r : VAddr) : Option Task := c.tasks.find? (·.recAddr == r)

/-- Replaces a task of a core. -/
def Core.setTask (c : Core) (t : Task) : Core :=
  { c with tasks := c.tasks.map fun u => if u.recAddr = t.recAddr then t else u }

def Core.dropTask (c : Core) (r : VAddr) : Core := { c with tasks := c.tasks.filter (·.recAddr ≠ r) }

/-! ## How an instruction stops -/

/-- What ends a meaning early: a trap, a wait, a watchpoint that matches (R303), or a stop of the machine. -/
inductive Stop where
  | trap (cause : Cause) (addr aux : Word) (eng : Bool)
  | wait (w : Wait)
  | watch (granule : BitVec 53) (store : Bool)
  | fault (f : Fault)
deriving DecidableEq, Repr

/-- A check or a read that may end the instruction. -/
abbrev Chk := Except Stop

/-- A trap with no detail (R286: both details are 0 where the manual gives nothing). -/
def trap0 {α : Type} (c : Cause) : Chk α := .error (.trap c 0 0 false)

/-- A trap with ADDR and AUX. -/
def trapA {α : Type} (c : Cause) (addr : Word) (aux : Word := 0) : Chk α := .error (.trap c addr aux false)

/-- A wait of the issuing fibre. -/
def wait {α : Type} (w : Wait) : Chk α := .error (.wait w)

/-- A meaning ends in a wait. -/
def waits {α : Type} (r : Chk α) : Bool := match r with | .error (.wait _) => true | _ => false

/-- Traps unless a condition holds. -/
def need (b : Bool) (c : Cause) (addr : Word := 0) (aux : Word := 0) : Chk Unit :=
  if b then .ok () else trapA c addr aux

/-- A cause from a number. -/
def causeN (n : Nat) : Cause := BitVec.ofNat 9 n

end Sys2Proof.Machine
end

