-- ==== Sys2Proof/Machine/Grants.lean ====
section
/-! DEFINITION. Writes at their homes, and the reservations that hold them back (spec/09_memory_model.md R239–R241,
spec/16_isa_memory_sync.md R367, R368; spec/03_host_interface.md R80). The model applies each access at its home in
its own step (log entry 7).
Log entries: 7, 21 (DEDUCED). -/

namespace Sys2Proof.Machine

/-- The 8-byte granule of a key (R241). -/
def granule (k : Nat) : Nat := k / 8

/-- The die of a key's home (R212, R231). -/
def homeDie (k : Nat) : Nat :=
  if k < 2 ^ 40 then k / 0x10000000 % 8
  else if k < 0x20000000000 then (k - 2 ^ 40) / 0x1000000000 % 8
  else if k < 2 ^ 50 then (k - 0x20000000000) / 0x8000000000 % 8
  else if k < 2 ^ 51 then (k - 2 ^ 50) / 0x40000 / 768
  else (k - 2 ^ 51) / 0x4000000 / 6

/-- A reservation covers a granule. -/
def Grant.covers (g : Grant) (n : Nat) : Bool := decide (g.gran ≤ n) && decide (n < g.gran + g.count)

/-- A granted reservation of a core other than `who` covers the granule. -/
def State.heldBack (s : State) (who : Option Nat) (n : Nat) : Bool :=
  s.grants.any fun g => g.granted && g.covers n && who != some g.core

/-- Overlays one byte list on another that starts at key k. -/
def overlay (bs : List Byte) (k : Nat) (w : WaitingWrite) : List Byte :=
  bs.zipIdx.map fun (b, i) => if w.key ≤ k + i ∧ k + i < w.key + w.bytes.length then w.bytes.getD (k + i - w.key) b else b

/-- What a fibre of core L reads at a key: the bytes at the home, and over them the core's own writes that still wait
there (R232, R241). -/
def State.view (s : State) (L k n : Nat) : List Byte :=
  (s.heldWrites.filter (·.core == some L)).foldl (overlay · k ·) (s.bytes k n)

/-- A number read by a fibre of core L. -/
def State.viewN (s : State) (L k n : Nat) : Nat := leNat (s.view L k n)

/-- What the part's engines read at a key: the bytes at the home, and over them the part's own writes that wait there. -/
def State.partBytes (s : State) (k n : Nat) : List Byte :=
  (s.heldWrites.filter (·.core.isNone)).foldl (overlay · k ·) (s.bytes k n)

/-- Before a core's store to lines cached by the host, the part issues a Back-Invalidate snoop of each (R80). -/
def State.snoop (s : State) (k n : Nat) : State :=
  let hit := s.hostLines.filter fun l => decide (k / 64 ≤ l) && decide (l ≤ (k + n - 1) / 64)
  { s with snoops := s.snoops ++ hit, hostLines := s.hostLines.filter fun l => !hit.contains l }

/-- A home takes a write; of the lines that it touches, those of `pois` are poisoned (R105, R115). -/
def State.apply (s : State) (who : Option Nat) (k : Nat) (bs : List Byte) (pois : List Nat := []) : State :=
  if bs.isEmpty then s
  else
    let s := (if who.any (· < nCores) then s.snoop k bs.length else s).wr k bs
    { s with poison := ((linesOf k bs.length).filter pois.contains).foldl insNat s.poison }

/-- A reservation that a party must wait for covers a granule of a range (R241). -/
def State.heldRange (s : State) (who : Option Nat) (k n : Nat) : Bool :=
  !s.grants.isEmpty && (List.range ((k + n + 7) / 8 - k / 8)).any fun i => s.heldBack who (k / 8 + i)

/-- The writers that stand for the host and for the requesters of the peer-write aperture. -/
def hostParty : Option Nat := some nCores
def peerParty : Option Nat := some (nCores + 1)

/-- The bytes that a waiting write changes. -/
def WaitingWrite.size (w : WaitingWrite) : Nat := if w.add.isSome then 4 else w.bytes.length

/-- A waiting write touches a range. -/
def WaitingWrite.meets (w : WaitingWrite) (k n : Nat) : Bool := decide (w.key < k + n) && decide (k < w.key + w.size)

/-- A write of one party stands behind an earlier one of it that waits: to the same bytes (R232), or, of the host and of the aperture's
requesters, to any (R106). -/
def WaitingWrite.before (w : WaitingWrite) (who : Option Nat) (k n : Nat) : Bool :=
  w.core == who && (who == hostParty || who == peerParty || w.meets k n)

/-- A write waits at its home: behind a reservation, or behind an earlier write of its party. -/
def State.mustWait (s : State) (who : Option Nat) (k n : Nat) : Bool := s.heldRange who k n || s.heldWrites.any (·.before who k n)

/-- Writes the parts of a range within its lines, in ascending order: each is applied, or waits as a whole (R240, R241). -/
def writeParts (s : State) (who : Option Nat) (k : Nat) (bs : List Byte) (pois : List Nat) (fuel : Nat) : State :=
  match fuel with
  | 0 => s
  | f + 1 =>
    if bs.isEmpty then s
    else
      let n := 64 - k % 64
      let now := bs.take n
      let s := if s.mustWait who k now.length then { s with heldWrites := s.heldWrites ++ [{ core := who, key := k, bytes := now, pois }] }
        else s.apply who k now pois
      writeParts s who (k + n) (bs.drop n) pois f

/-- A write at its home: by a fibre of core `who`, by the host, or (none) by an engine. -/
def State.homeWrite (s : State) (who : Option Nat) (k : Nat) (bs : List Byte) (pois : List Nat := []) : State :=
  if s.grants.isEmpty && s.heldWrites.isEmpty then s.apply who k bs pois
  else writeParts s who k bs pois (bs.length / 64 + 2)

/-- A SIGINC's addition at its home (R373): applied, or waiting behind a reservation or an earlier write of its core. -/
def State.homeAdd (s : State) (who : Option Nat) (k : Nat) (inc : BitVec 32) : State :=
  if s.mustWait who k 4 then { s with heldWrites := s.heldWrites ++ [{ core := who, key := k, bytes := [], add := some inc }] }
  else s.apply who k (leBytes 4 (s.rd k 4 + inc.toNat))

/-- The home takes a write that waited. -/
def State.applyWaiting (s : State) (w : WaitingWrite) : State :=
  match w.add with
  | none => s.apply w.core w.key w.bytes w.pois
  | some inc => s.apply w.core w.key (leBytes 4 (s.rd w.key 4 + inc.toNat))

/-- Applies the writes that nothing holds any more, in arrival order (R241): those of an engine instruction in flight stay. -/
def applyHeld (s : State) (l : List WaitingWrite) : State :=
  match l with
  | [] => s
  | w :: r =>
    if w.op.isSome || s.mustWait w.core w.key w.size then applyHeld { s with heldWrites := s.heldWrites ++ [w] } r
    else applyHeld (s.applyWaiting w) r

/-- The homes look again at the writes that wait. -/
def State.letThrough (s : State) : State := if s.heldWrites.isEmpty then s else applyHeld { s with heldWrites := [] } s.heldWrites

/-- Ends a grant: the home lets the waiting writes through. -/
def State.endGrant (s : State) (g : Grant) : State := { s with grants := s.grants.erase g }.letThrough

/-! ## Writes of engine instructions (R232, R386) -/

/-- The writes of an engine instruction as they stand in the port; one that only credits or pops stands there with no bytes. -/
def EngineOp.waiting (o : EngineOp) (L : Nat) : List WaitingWrite :=
  (if o.puts.isEmpty then [{ key := 0, bytes := [] }] else o.puts).map fun p =>
    { core := some L, key := p.key, bytes := p.bytes, op := some o.id }

/-- An engine instruction takes its place in the core's port: its writes stand there until it finishes. -/
def State.openOp (s : State) (L : Nat) (o : EngineOp) : State := { s with heldWrites := s.heldWrites ++ o.waiting L }

/-- An engine instruction finishes: its writes go to their homes. -/
def State.closeOp (s : State) (L : Nat) (o : EngineOp) : State :=
  { s with heldWrites := s.heldWrites.map fun (w : WaitingWrite) => if w.core = some L ∧ w.op = some o.id then { w with op := none } else w }.letThrough

/-- An engine instruction of the core is in flight. -/
def Core.runs (c : Core) (id : Nat) : Bool := (c.vec.toList ++ c.mat.toList).any (·.id == id)

/-- The writes of engine instructions of a core that are no longer in flight leave its port: those of an abandoned instruction are never
made (R290), and those of a paused one take a new place when it resumes. -/
def State.dropOps (s : State) (L : Nat) : State :=
  if s.heldWrites.isEmpty then s
  else
    let gone (w : WaitingWrite) : Bool := w.core == some L && w.op.any fun i => !(s.core L).runs i
    { s with heldWrites := s.heldWrites.filter (!gone ·) }.letThrough

/-! ## The port's order (R232, R237, R366) -/

/-- A body that writes at its target: messages count as writes (R237, R247). -/
def MsgBody.writes : MsgBody → Bool
  | .store .. | .siginc .. | .append .. | .credit .. => true
  | _ => false

/-- Core L holds an LR reservation on a granule. -/
def State.reserved (s : State) (L n : Nat) : Bool := s.grants.any fun g => g.granted && g.op.isNone && g.core == L && g.covers n

/-- Core L has an atomic or LR that is not bound yet. Those that queue on granule `n` behind the core's own reservation do
not count for a write to `n`: the write is the reservation's own (R367). -/
def State.readsOpen (s : State) (L n : Nat) : Bool :=
  s.grants.any fun g => g.core == L && (!g.granted || g.op.isSome) && !(g.covers n && s.reserved L n)

/-- Core L has an atomic with acquire order that is not bound yet. -/
def State.acquiresOpen (s : State) (L : Nat) : Bool :=
  s.grants.any fun g => g.core == L && (!g.granted || g.op.isSome) && g.op.any (·.acq)

/-- A message of core L is one of those, numbered below `lim`, that its port has sent. -/
def State.sentBy (s : State) (L : Nat) (lim : Option Nat) (m : Msg) : Bool :=
  m.body.writes && s.localCore m.src == some L && lim.all fun n => decide (m.id < n)

/-- A message to another module counts as applied when the link has acknowledged its flit: nothing else comes back (R29, R237; log
entry 7). -/
def State.outOpen (s : State) (L : Nat) (lim : Option Nat := none) : Bool :=
  (s.outMsgs.zipIdx).any fun (m, i) =>
    s.sentBy L lim m && (decide (s.linked ≤ i) || s.ports.toList.any fun p => p.load.contains m.id)

/-- Core L has a write or a message that is not applied yet; `engines` counts the writes of its engine instructions too. -/
def State.sendsOpen (s : State) (L : Nat) (engines : Bool) : Bool :=
  s.heldWrites.any (fun w => w.core == some L && (engines || w.op.isNone)) || s.msgs.any (s.sentBy L none) || s.outOpen L

/-- Core L has a write or a message that is not applied yet. -/
def State.writesOpen (s : State) (L : Nat) : Bool := s.sendsOpen L true

/-- An access of core L that comes before those of an engine instruction in flight, or a message of the instruction itself, is not done:
its credit, a release, waits (R200, R246). -/
def State.earlierOpen (s : State) (L : Nat) (o : EngineOp) : Bool :=
  let lim := some (o.id + 1 + o.sends.length)
  (s.heldWrites.takeWhile fun w => !(w.core == some L && w.op == some o.id)).any (·.core == some L)
    || s.msgs.any (s.sentBy L lim) || s.outOpen L lim
    || s.grants.any fun g => g.core == L && g.op.any fun x => decide (x.iss.time < o.iss.time)

/-- Every access of core L is bound or applied. -/
def State.portClear (s : State) (L : Nat) : Bool := !s.readsOpen L (2 ^ 64) && !s.writesOpen L

/-- The port holds an access of core L until its earlier reads (`rd`) or writes (`wr`) are done. -/
def State.portHolds (s : State) (L : Nat) (rd wr : Bool) (n : Nat) : Bool := rd && s.readsOpen L n || wr && s.writesOpen L

/-- What the port still keeps of a core's fences. -/
def State.fences (s : State) (L : Nat) (m : BitVec 4) : BitVec 4 :=
  let r := s.readsOpen L (2 ^ 64)
  let w := s.writesOpen L
  m &&& (BitVec.ofBool w ++ BitVec.ofBool w ++ BitVec.ofBool r ++ BitVec.ofBool r : BitVec 4)

/-- A write of core L to a range whose value cannot be forwarded: a SIGINC's addition that waits. -/
def State.addWaits (s : State) (L k n : Nat) : Bool := s.heldWrites.any fun w => w.core == some L && w.add.isSome && w.meets k n

/-- Core L has an atomic on a range that is not bound yet: what it writes is not known (R232). -/
def State.atomicWaits (s : State) (L k n : Nat) : Bool :=
  s.grants.any fun g => g.core == L && g.op.any fun o => o.form != .lr && decide (o.key < k + n) && decide (k < o.key + o.size)

/-- Core L has a write to a range that is not applied yet. -/
def State.ownWaits (s : State) (L k n : Nat) : Bool := s.heldWrites.any fun w => w.core == some L && w.meets k n

/-- A page move that covers a key at its source or, where `dst`, at its destination. -/
def Migration.covers (m : Migration) (dst : Bool) (k : Nat) : Bool :=
  let b := if dst then m.dst else m.src
  decide (b ≤ k) && decide (k < b + m.size)

/-- The page moves under way. -/
def State.moves (s : State) : List Migration := s.dies.toList.filterMap (·.mig)

/-- The home of a line is moving away, and its reservations are answered with MOVED (R229). -/
def State.movingAway (s : State) (k : Nat) : Bool := s.moves.any fun m => m.covers false k

/-- A line has not arrived at its new home yet: reservations wait there (R229). -/
def State.arriving? (s : State) (k : Nat) : Bool := s.moves.any fun m => m.covers true k && decide (m.moved ≤ k - m.dst)

/-- The key at which an access to a physical address is applied: the source forwards the lines that have moved (R229). -/
def State.forward (s : State) (k : Nat) : Nat :=
  match s.moves.find? fun m => m.covers false k && decide (k - m.src < m.moved) with
  | some m => k - m.src + m.dst
  | none => k

/-- A reservation cannot be granted while another one covers one of its granules, granted, or queued earlier, or while
its line moves. -/
def State.mustQueue (s : State) (gran count : Nat) : Bool :=
  (s.grants.any fun g => (List.range count).any fun i => g.covers (gran + i)) || s.movingAway (8 * gran) || s.arriving? (8 * gran)

/-- Revokes an LR grant (R368): the holder's reservation goes and its LOST bit is set. -/
def State.revoke (s : State) (g : Grant) : State :=
  (s.endGrant g).modCore g.core fun c => c.modFib g.fibre fun f => { f with rsv := none, lost := true }

/-- Revokes each LR grant of a list. -/
def revokeAll (s : State) (l : List Grant) : State :=
  match l with
  | [] => s
  | g :: r => revokeAll (s.revoke g) r

/-- No fibre has this number: an atomic that outlives its fibre names it. -/
def noFibre : Nat := 4096

/-- What happens to the reservations of a fibre that ends: an LR grant is revoked, a request that waits is withdrawn,
and an atomic that holds its grant completes without it (R368). -/
def State.endReservations (s : State) (L f : Nat) : State :=
  let mine (g : Grant) : Bool := g.core == L && g.fibre == f
  let keep : List Grant := s.grants.filter fun g => !(mine g && !g.granted)
  let s := revokeAll { s with grants := keep, watches := s.watches.filter fun w => !(w.core == L && w.fibre == f) }
    (keep.filter fun g => mine g && g.op.isNone)
  { s with grants := s.grants.map fun g => if mine g then { g with fibre := noFibre } else g }

end Sys2Proof.Machine
end

