-- ==== Sys2Proof/Machine/Mem.lean ====
section
/-! DEFINITION. Address spaces and translation (spec/08_memory_hierarchy.md R210–R222, R474): from a device virtual
address to a home key, with the window checks and the page walk, and reads and writes of ranges.
Log entries: 30 (DEDUCED); 4 (DESIGN CHOICE). -/

namespace Sys2Proof.Machine

/-- The kind of an access to mapped memory (R222). -/
inductive Kind where
  | read | write | exec | atomic
deriving DecidableEq, Repr

/-- Index of the kind in the not-present grid (R280): an atomic reports as a write. -/
def Kind.code : Kind → Nat
  | .read => 0 | .write => 1 | .exec => 2 | .atomic => 1

/-- Where an address leads (R210, R231). -/
inductive Home where
  | mapped (nc : Bool)
  | tcm (L : Nat)
  | scratch (k : Nat)
  | control (off : Nat)
deriving DecidableEq, Repr

/-- A resolved address: its home key and its home. -/
structure Loc where
  key  : Nat
  home : Home
deriving DecidableEq, Repr

/-- Who makes an access: the core it acts for, if any, its context, and the source of R280 (0 instruction, 1 message,
2 engine, 3 footprint fetch). -/
structure Party where
  core : Option Nat
  ctx  : Option Nat
  src  : Nat := 0
deriving DecidableEq, Repr

/-! ## Device physical memory (R212) -/

inductive MemKind where
  | dieStore | hbm | lp
deriving DecidableEq, Repr

/-- The memory of a device physical address, and its home die; none where the address is unassigned. -/
def paRange (pa : Nat) : Option (MemKind × Nat) :=
  if pa < 8 * 0x10000000 then some (.dieStore, pa / 0x10000000)
  else if 0x10000000000 ≤ pa ∧ pa < 0x10000000000 + 8 * 0x1000000000 then some (.hbm, (pa - 0x10000000000) / 0x1000000000)
  else if 0x20000000000 ≤ pa ∧ pa < 0x20000000000 + 8 * 0x8000000000 then some (.lp, (pa - 0x20000000000) / 0x8000000000)
  else none

/-- The reserved 16 MiB at the top of each die store. -/
def paReserved (pa : Nat) : Bool := decide (pa < 8 * 0x10000000) && decide (0xF000000 ≤ pa % 0x10000000)

/-! ## Translation (R219–R222) -/

/-- Index of an address at a level. -/
def ptIndex (va lvl : Nat) : Nat := if lvl = 4 then va / 2 ^ 48 % 256 else va / 2 ^ (12 + 9 * lvl) % 512

/-- Bytes that a leaf at a level maps. -/
def ptSize (lvl : Nat) (ps64 : Bool) : Nat := if lvl = 0 ∧ ps64 then 0x10000 else 2 ^ (12 + 9 * lvl)

def pteV (e : Word) : Bool := e.getLsbD 0
def pteR (e : Word) : Bool := e.getLsbD 1
def pteW (e : Word) : Bool := e.getLsbD 2
def pteX (e : Word) : Bool := e.getLsbD 3
def pteNC (e : Word) : Bool := e.getLsbD 4
def pteLeaf (e : Word) : Bool := e.getLsbD 5
def ptePS (e : Word) : Bool := e.getLsbD 6
def ptePA (e : Word) : Nat := (e.extractLsb' 12 36).toNat * 4096

/-- A malformed entry at a level (R222). -/
def pteBad (e : Word) (lvl : Nat) : Bool :=
  e.extractLsb' 7 5 != 0 || e.extractLsb' 48 16 != 0
    || (pteLeaf e && decide (3 ≤ lvl)) || (!pteLeaf e && lvl == 0) || (ptePS e && lvl != 0)
    || (pteW e && !pteR e) || (pteLeaf e && ptePA e % ptSize lvl (ptePS e) != 0)

/-- Why a leaf does not permit an access: the kind reported (R222). -/
def pteDenied (e : Word) (k : Kind) : Option Nat :=
  match k with
  | .read => if pteR e then none else some 0
  | .write => if pteW e then none else some 1
  | .exec => if pteX e then none else some 2
  | .atomic => if !pteW e then some 1 else if !pteR e then some 0 else none

/-- The walk from a level's table: the physical address and the leaf, or the cause and the entry read. -/
def walk (s : State) (va : Nat) (k : Kind) (lvl t : Nat) : Except (Cause × Word) (Nat × Word) :=
  let a := t + 8 * ptIndex va lvl
  let e := s.rd64 a
  if s.poisoned a 8 then .error (0x04F, e)
  else if !pteV e || pteBad e lvl then .error (causeN (0x040 + 3 * lvl + k.code), e)
  else if pteLeaf e then
    match pteDenied e k with
    | some j => .error (causeN (0x050 + 3 * lvl + j), e)
    | none => .ok (ptePA e + va % ptSize lvl (ptePS e), e)
  else match lvl with
    | 0 => .error (causeN (0x040 + k.code), e)
    | n + 1 => walk s va k n (ptePA e)

/-- The base of a context's table pool (R219). -/
def Ctx.poolBase (x : Ctx) : Nat := (x.ptPool.extractLsb' 12 36).toNat * 4096

/-- Translation of a mapped address in a context (R222). Without a context there is no table to walk. -/
def translate (s : State) (ctx : Option Nat) (va : VAddr) (k : Kind) : Except (Cause × Word) (Nat × Word) :=
  match ctx with
  | none => .error (causeN (0x04C + k.code), 0)
  | some c => walk s va.toNat k 4 (s.ctx c).poolBase

/-! ## Windows (R210, R211, R474) -/

/-- Direct units of a core's TCM (R213). -/
def Core.direct (c : Core) : Nat := (c.split.extractLsb' 0 4).toNat

/-- Bytes of the direct portion. -/
def Core.directBytes (c : Core) : Nat := c.direct * 0x8000

/-- DIE_SPCAP.MIB (R22). -/
def Die.spMib (d : Die) : Nat := if d.stack && !d.fused then 48 else 24

/-- The core belongs to the context. -/
def inCtx (s : State) (ctx : Option Nat) (k : Nat) : Bool :=
  match ctx with
  | none => false
  | some c => (s.ctx c).en && (s.ctx c).owns k

/-- A failed window check (R211, R280). -/
def badWindow {α : Type} (p : Party) (va : VAddr) (check : Nat) : Chk α :=
  trapA (causeN (0x060 + 4 * p.src + check)) (va.setWidth 64)

/-- The window checks of a TCM offset. -/
def tcmLoc (s : State) (p : Party) (va : VAddr) (L off : Nat) : Chk Loc :=
  if off < (s.core L).directBytes then .ok ⟨tcmKey L off, .tcm L⟩ else badWindow p va 2

/-- The window checks of a scratchpad offset. -/
def scratchLoc (s : State) (p : Party) (va : VAddr) (k off : Nat) : Chk Loc :=
  if off < (s.die (k / 6)).spMib * 2 ^ 20 then .ok ⟨scratchKey k off, .scratch k⟩ else badWindow p va 3

/-- Resolves one address (R210, R211, R222). -/
def resolve (s : State) (p : Party) (va : VAddr) (k : Kind) : Chk Loc :=
  let top := va.toNat / 2 ^ 48
  let low := va.toNat % 2 ^ 48
  if top < 0xFD then
    match translate s p.ctx va k with
    | .error (c, e) => trapA c (va.setWidth 64) e
    | .ok (pa, e) =>
      if (paRange pa).isNone then .error (.fault (.unassignedAddress pa)) else .ok ⟨s.forward pa, .mapped (pteNC e)⟩
  else if k = .exec then badWindow p va 0
  else if top = 0xFD then
    let L := low / 0x40000
    if nCores ≤ L then badWindow p va 0
    else if !inCtx s p.ctx (clusterOf L) then badWindow p va 1
    else tcmLoc s p va L (low % 0x40000)
  else if top = 0xFE then
    let c := low / 0x4000000
    if 48 ≤ c then badWindow p va 0
    else if !inCtx s p.ctx c then badWindow p va 1
    else scratchLoc s p va c (low % 0x4000000)
  else
    match p.core with
    | none => badWindow { p with src := 2 } va 0
    | some L =>
      let sel := low / 2 ^ 32
      let off := low % 2 ^ 32
      if sel = 0 then tcmLoc s p va L off
      else if sel = 1 then scratchLoc s p va (clusterOf L) off
      else if sel = 2 ∧ 0x100 ≤ off ∧ off < 0x110 then .ok ⟨tcmKey L off, .control off⟩
      else badWindow p va 0

/-! ## Ranges -/

/-- A range cut at multiples of `cut`. -/
def pieces (cut fuel va n : Nat) : List (Nat × Nat) :=
  match fuel with
  | 0 => []
  | f + 1 =>
    if n = 0 then []
    else
      let m := min n (cut - va % cut)
      (va % 2 ^ 56, m) :: pieces cut f (va + m) (n - m)

/-- A range cut at 4 KiB boundaries, where translation and every window check are uniform. -/
def rangePieces (va : VAddr) (n : Nat) : List (Nat × Nat) := pieces 4096 (n / 4096 + 2) va.toNat n

/-- The pieces of a range whose bytes lie together: lines while a page moves (R229). -/
def State.rangePieces (s : State) (va : VAddr) (n : Nat) : List (Nat × Nat) :=
  if s.moves.isEmpty then Machine.rangePieces va n else pieces 64 (n / 64 + 2) va.toNat n

/-- Resolves a range in ascending address order: the home of each piece and its length. -/
def resolveRange (s : State) (p : Party) (va : VAddr) (n : Nat) (k : Kind) : Chk (List (Loc × Nat)) :=
  (s.rangePieces va n).mapM fun (a, m) => do
    let l ← resolve s p (BitVec.ofNat 56 a) k
    match l.home with
    | .control _ => badWindow p va 0
    | _ => return (l, m)

/-- The bytes of resolved pieces. -/
def readPieces (s : State) (ps : List (Loc × Nat)) : List Byte :=
  ps.flatMap fun (l, m) => s.bytes l.key m

/-- Whether resolved pieces hold poison. -/
def piecesPoisoned (s : State) (ps : List (Loc × Nat)) : Bool :=
  ps.any fun (l, m) => s.poisoned l.key m

/-- Writes bytes over resolved pieces, at their homes, for a core's fibre or (none) for an engine or the host; the lines of `pois`
become poison. -/
def writePieces (s : State) (who : Option Nat) (ps : List (Loc × Nat)) (bs : List Byte) (pois : List Nat := []) : State :=
  match ps with
  | [] => s
  | (l, m) :: r => writePieces (s.homeWrite who l.key (bs.take m) pois) who r (bs.drop m) pois

/-- Reads a range: its bytes, and whether they hold poison. -/
def readVa (s : State) (p : Party) (va : VAddr) (n : Nat) : Chk (List Byte × Bool) := do
  let ps ← resolveRange s p va n .read
  return (readPieces s ps, piecesPoisoned s ps)

/-- Writes a range, as an engine does. -/
def writeVa (s : State) (p : Party) (va : VAddr) (bs : List Byte) : Chk State := do
  let ps ← resolveRange s p va bs.length .write
  return writePieces s none ps bs

/-- A location is local to a core: its own TCM or its own cluster's scratchpad (R363). -/
def Loc.isLocal (l : Loc) (L : Nat) : Bool :=
  match l.home with
  | .tcm M => M == L
  | .scratch k => k == clusterOf L
  | .control _ => true
  | .mapped _ => false

/-- The party of a core's instruction. -/
def State.party (s : State) (L : Nat) : Party := { core := some L, ctx := s.ctxOfCore L }

/-- The party of an engine acting for a core. -/
def State.engineOf (s : State) (L : Nat) : Party := { core := some L, ctx := s.ctxOfCore L, src := 2 }

/-- A party that acts for no core (R474). -/
def noCore (c : Nat) : Party := { core := none, ctx := some c, src := 2 }

end Sys2Proof.Machine
end

