-- ==== Sys2Proof/Machine/Records.lean ====
section
/-! DEFINITION. What the part writes for the host and for software to read: event records (R122–R124), trap records and
the fault queue (R102, R103, R286), completion entries (R92–R94) and MSI-X messages.
Log entries: 17, 35 (DEDUCED); 9, 18 (DEDUCED and DESIGN CHOICE); 6 (DESIGN CHOICE). -/

namespace Sys2Proof.Machine

/-! ## The event recorder (R122–R124) -/

/-- Severity of an event code: stated for a corrected error, a fatal fault and a book fault (R123, R125, R165); the
manual leaves the others open (log entry 6). -/
def evSev (code : Nat) : Nat :=
  if code = 3 then 1 else if code = 9 then 3 else if code = 13 then 2 else (Config.eventSev code).val

/-- A record placed at the end of the ring, behind those of its cycle whose SRC is not greater (R122). -/
def placeRecord (m : Sparse EvRec) (i fuel : Nat) (r : EvRec) : Sparse EvRec :=
  match fuel, m.find? (·.1 == (i + 4095) % 4096) with
  | f + 1, some (j, q) =>
    if q.cycle = r.cycle ∧ r.src.toNat < q.src.toNat then placeRecord (spPut m (i % 4096) q) j f r else spPut m (i % 4096) r
  | _, _ => spPut m (i % 4096) r

/-- A die after an event record, subject to FREEZE and INFO (R124). -/
def Die.record (x : Die) (r : EvRec) : Die :=
  let code := r.code.toNat
  let sev := r.sev.toNat
  if (sev == 0 && !x.evCfg.getLsbD 2) || (x.evCfg.getLsbD 1 && code != 9 && code != 10) then x
  else { x with evRecs := placeRecord x.evRecs (x.evPos.toNat % 4096) 4095 r
                evPos := x.evPos + 1
                evCfg := if sev = 3 ∧ x.evCfg.getLsbD 0 then x.evCfg ||| 2 else x.evCfg }

/-- Writes an event record in a die's recorder (R122). -/
def State.event (s : State) (d : Nat) (src : CoreId) (code : Nat) (ctx : Nat) (detail : Nat) : State :=
  s.modDie d fun x => x.record
    { cycle := x.cycle, src, code := BitVec.ofNat 16 code, sev := BitVec.ofNat 8 (evSev code),
      ctx := BitVec.ofNat 8 ctx, detail := BitVec.ofNat 128 detail }

/-- The source of a record of a unit of the die (R122). -/
def noSrc : CoreId := 0xFFFFFFFF

/-- Two detail values, the first in bits [63:0] (log entry 9). -/
def detail2 (a b : Nat) : Nat := a % 2 ^ 64 + b % 2 ^ 64 * 2 ^ 64

/-- Three detail values: bits [63:0], [95:64] and [127:96] (log entry 9). -/
def detail3 (a b c : Nat) : Nat := a % 2 ^ 64 + b % 2 ^ 32 * 2 ^ 64 + c % 2 ^ 32 * 2 ^ 96

/-- An event record of a core. R122 prints 'Core identifier' for SRC, and R9's list does not name event records: SLOT is 0 in every one, also
where what a slot ran led to the record (DESIGN CHOICE, log entry 9). -/
def State.coreEvent (s : State) (L : Nat) (code : Nat) (detail : Nat) : State :=
  s.event (dieOf L) (s.coreId L 0) code (s.ctxNum L) detail

/-- Places an event of the part's own for the next step. -/
def State.raise (s : State) (e : Event) : State := { s with agenda := e :: s.agenda }

/-- The event record of a line that the part poisons (R115, R123): origin 0 memory, 1 copy, 2 collective, 3 peer write. -/
def State.poisonEvent (s : State) (k origin : Nat) : State := s.event (homeDie k) noSrc 4 0xFF (detail2 k origin)

/-- The event records of the lines that a write poisons. -/
def poisonEvents (s : State) (ls : List Nat) (origin : Nat) : State := ls.foldl (fun s l => s.poisonEvent (l * 64) origin) s

/-- A line in which an uncorrectable error is found (R115). -/
def State.poisonLine (s : State) (k n origin : Nat) : State := (s.markPoison k n).poisonEvent k origin

/-! ## Trap records (R286) -/

/-- The 64 bytes of a trap record, byte 63 without PHASE. -/
def FqEntry.bytes (e : FqEntry) : List Byte :=
  let i := e.info
  leBytes 2 i.cause.toNat
    ++ leBytes 1 (i.eng.toNat + 2 * e.task.toNat + 4 * e.urg.toNat + 8 * e.repl.toNat + 16 * e.nofib.toNat)
    ++ leBytes 1 e.ctx ++ leBytes 4 e.core.toNat ++ leBytes 2 e.fibre ++ leBytes 6 0
    ++ leBytes 8 i.pc.toNat ++ leBytes 8 i.addr.toNat ++ leBytes 8 i.aux.toNat ++ leBytes 8 e.recAddr.toNat
    ++ leBytes 8 i.cycle ++ leBytes 2 i.word.toNat ++ leBytes 1 i.npfx.toNat ++ leBytes 5 0

/-- Translation faults, which a MAP also replays (R284, R286): groups 4 and 5. -/
def isTranslation (c : Cause) : Bool :=
  c.toNat / 16 == 4 || (c.toNat / 16 == 5 && c.toNat % 16 != 15)

/-- The record of a fibre's trap. REPL belongs to a fault of the fibre's own access, not to one a tag reports (R278). -/
def trapEntry (s : State) (L f : Nat) (t : TrapInfo) (task : Option VAddr) : FqEntry :=
  { info := t, task := task.isSome, urg := t.delivery = .urgent, repl := isTranslation t.cause && !t.eng, nofib := false,
    ctx := s.ctxNum L, core := s.coreId L t.slot.toNat, fibre := f, recAddr := task.getD 0 }

/-! ## Queues in host memory (R85, R92, R94, R102) -/

/-- Entries of a queue of 2^LOG2SIZE. -/
def CompQ.size (q : CompQ) : Nat := 2 ^ q.log2.toNat

/-- The queue is enabled and has room. -/
def CompQ.room (q : CompQ) : Bool := q.en && decide ((q.count - q.head).toNat < q.size)

/-- PHASE of the next entry: 1 on the first pass of the ring (R92). -/
def CompQ.phase (q : CompQ) : Nat := 1 - q.count.toNat / q.size % 2

/-- The host key of the next entry. -/
def CompQ.slot (q : CompQ) (bytes : Nat) : Nat :=
  hostKey ((q.base.toNat / 4096 * 4096 + bytes * (q.count.toNat % q.size)) % 2 ^ 64)

/-- Sends a vector's MSI-X message. -/
def State.irq (s : State) (v : Nat) : State := { s with msix := s.msix ++ [v] }

/-- The message of a queue's entry, unless MASK is set. -/
def State.queueIrq (s : State) (q : CompQ) : State := if q.mask then s else s.irq q.vec.toNat

/-- Marks the trap of a fibre as written to the fault queue (R285). -/
def State.markWritten (s : State) (e : FqEntry) : State :=
  if e.nofib then s
  else match idLeaf e.core with
    | none => s
    | some L => s.modCore L fun c =>
      let set (t : Option TrapInfo) : Option TrapInfo := t.map fun t => { t with written := true }
      if e.fibre = 0 ∧ c.shadowTrap.isSome then { c with shadowTrap := set c.shadowTrap }
      else c.modFib e.fibre fun f => { f with trap := set f.trap }

/-- Writes an entry to a fault queue that has room. -/
def State.fqWrite (s : State) (c : Nat) (e : FqEntry) : State :=
  let x := s.ctx c
  let q := x.fq
  let b := e.bytes
  let s := s.wr (q.slot 64) (b.take 63 ++ [BitVec.ofNat 8 (q.phase * 128)])
  let s := s.setCtx c { x with fq := { q with count := q.count + 1 } }
  (s.queueIrq q).markWritten e

/-- Sends an entry to a context's fault queue (R102, R103): a full or disabled queue holds the traps of fibres and up
to 64 entries that park no fibre, and counts the rest in CTX_FQLOST. -/
def State.fqSend (s : State) (c : Nat) (e : FqEntry) : State :=
  let x := s.ctx c
  if x.fqHeld.isEmpty && x.fq.room then s.fqWrite c e
  else if e.nofib && decide (64 ≤ (x.fqHeld.filter (·.nofib)).length) then
    s.setCtx c { x with fqLost := if x.fqLost = BitVec.allOnes 32 then x.fqLost else x.fqLost + 1 }
  else s.setCtx c { x with fqHeld := x.fqHeld ++ [e] }

/-- Writes held entries while the fault queue has room. -/
def State.fqPump (s : State) (c : Nat) (held : List FqEntry) : State :=
  match held with
  | [] => s.modCtx c fun x => { x with fqHeld := [] }
  | e :: r =>
    if (s.ctx c).fq.room then (s.fqWrite c e).fqPump c r
    else s.modCtx c fun x => { x with fqHeld := e :: r }

/-- A fault-queue entry that parks no fibre (R103). -/
def nofibEntry (s : State) (c : Nat) (cause : Cause) (eng : Bool) (core : CoreId) (fibre : Nat) (pc : VAddr)
    (addr aux : Word) (die : Nat) : FqEntry :=
  { info := { cause, eng, addr, aux, pc, cycle := (s.die die).cycle.toNat }, task := false, nofib := true, ctx := c,
    core, fibre, recAddr := 0 }

/-- What a fibre sent is discarded at core T: the entry in the issuing context's fault queue (R103, R365), here, or by a message to
the module of the fibre. -/
def State.report (s : State) (c T : Nat) (src : CoreId) (fibre : Nat) (pc : VAddr) (cause : Cause) (eng : Bool) (addr aux : Word) :
    State :=
  if idModule src = s.modNum.toNat then s.fqSend c (nofibEntry s c cause eng src fibre pc addr aux (dieOf T))
  else
    let m : Msg := { id := s.nextId, src := s.coreId T 0, dst := src, ctx := c, fibre, pc, cycle := s.cycleOf T
                     body := .refused cause eng addr aux }
    { s with nextId := s.nextId + 1, outMsgs := s.outMsgs ++ [m] }

/-- A completion entry without PHASE (R92). -/
def compEntry (stamp kind status cause queue tag result : Nat) : BitVec 128 :=
  BitVec.ofNat 128 (stamp + kind * 2 ^ 16 + status * 2 ^ 25 + cause * 2 ^ 32 + queue * 2 ^ 48 + tag * 2 ^ 64
    + result % 2 ^ 32 * 2 ^ 96)

/-- Writes a completion entry to a queue that has room. -/
def State.cqWrite (s : State) (c q : Nat) (e : BitVec 128) : State :=
  let x := s.ctx c
  let y := spGet x.cqs q {}
  let s := s.wrN (y.slot 16) 16 (e.toNat + y.phase * 2 ^ 24)
  let s := s.setCtx c { x with cqs := spPut x.cqs q { y with count := y.count + 1 } }
  s.queueIrq y

/-- Sends a completion entry (R94): a full queue holds it inside the part. -/
def State.cqSend (s : State) (c q : Nat) (e : BitVec 128) : State :=
  let x := s.ctx c
  let y := spGet x.cqs q {}
  if y.held.isEmpty && y.room then s.cqWrite c q e
  else s.setCtx c { x with cqs := spPut x.cqs q { y with held := y.held ++ [e] } }

/-- Writes held completion entries while the queue has room. -/
def State.cqPump (s : State) (c q : Nat) (held : List (BitVec 128)) : State :=
  let put (h : List (BitVec 128)) : State :=
    s.modCtx c fun x => { x with cqs := spPut x.cqs q { spGet x.cqs q {} with held := h } }
  match held with
  | [] => put []
  | e :: r => if (spGet (s.ctx c).cqs q {}).room then (s.cqWrite c q e).cqPump c q r else put (e :: r)

/-! ## Trace records (R307, R308) -/

/-- Whether a cluster traces records of a kind. -/
def Cluster.traces (k : Cluster) (kind : Nat) : Bool := k.trcfg.getLsbD 0 && k.trcfg.getLsbD (1 + kind)

/-- The records of a cycle with one more, in ascending order of SRC. -/
def traceInsert (l : List (CoreId × List Byte)) (r : CoreId × List Byte) : List (CoreId × List Byte) :=
  match l with
  | [] => [r]
  | q :: t => if r.1.toNat < q.1.toNat then r :: q :: t else q :: traceInsert t r

/-- Writes trace records from a place of a cluster's ring on; none where a write faults. -/
def traceWrite (s : State) (k i len : Nat) (l : List (CoreId × List Byte)) : Option State :=
  match l with
  | [] => some s
  | (_, b) :: r =>
    match writeVa s { core := none, ctx := s.ownerOf k, src := 2 } (BitVec.ofNat 56 (((s.cluster k).trbase.extractLsb' 0 56).toNat + 32 * (i % len))) b with
    | .ok s => traceWrite s k (i + 1) len r
    | .error _ => none

/-- Writes a trace record into a cluster's ring, in the order of SRC among those of its cycle (R307). A full ring takes no record
unless WRAP is set, and a record that cannot be written clears EN (R308). -/
def State.traceAt (s : State) (k : Nat) (src : CoreId) (kind : Nat) (pc : VAddr) (detail : Nat) : State :=
  let x := s.cluster k
  let len := (x.trpos.extractLsb' 34 22).toNat * 128
  let n := (x.trpos.extractLsb' 0 32).toNat
  let stop := !x.trcfg.getLsbD 1
  let full : Word := 1 <<< 32
  if !x.traces kind || len == 0 then s
  else if stop && decide (len ≤ n) then s.setCluster k { x with trpos := x.trpos ||| full }
  else
    let now := (s.die (k / 6)).cycle.toNat
    let rec_ := leBytes 8 now ++ leBytes 4 src.toNat ++ leBytes 1 kind ++ leBytes 1 ((s.ownerOf k).getD 0) ++ leBytes 2 0
      ++ leBytes 8 pc.toNat ++ leBytes 8 detail
    let old := if x.trNow.1 = now then x.trNow.2 else []
    let all := traceInsert old (src, rec_)
    let same := ((all.zip old).takeWhile fun (a, b) => a == b).length
    match traceWrite s k (n - old.length + same) len (all.drop same) with
    | some s => s.modCluster k fun x =>
      { x with trNow := (now, all)
               trpos := (x.trpos &&& ~~~0xFFFFFFFF#64) ||| BitVec.ofNat 64 ((n + 1) % 2 ^ 32) ||| (if stop && n + 1 == len then full else 0) }
    | none => s.setCluster k { x with trpos := x.trpos ||| (1 <<< 33), trcfg := x.trcfg &&& ~~~1#64 }

/-- A trace record of a core's slot. -/
def State.trace (s : State) (L slot kind : Nat) (pc : VAddr) (detail : Nat) : State :=
  s.traceAt (clusterOf L) (s.coreId L slot) kind pc detail

end Sys2Proof.Machine
end

