-- ==== Sys2Proof/Machine/Ring.lean ====
section
/-! DEFINITION. Rings (spec/07_core_and_fibres.md R194–R204) and layout codes (R218). A ring is named by its home core
and the TCM offset of its descriptor; the descriptor and the slot-state array are bytes of that core's TCM.
Log entries: 19, 27 (DEDUCED and DESIGN CHOICE). -/

namespace Sys2Proof.Machine

/-! ## Layout codes (R218) -/

/-- The unit that must divide the slot size of a layout code; none for a reserved code. -/
def layoutUnit (code : Nat) : Option Nat :=
  if code = 0x00 then some 64
  else if code = 0x11 ∨ code = 0x12 ∨ code = 0x13 then some 128
  else if code = 0x20 then some 1024 else if code = 0x21 then some 2048 else if code = 0x22 then some 4096
  else none

/-- The physical offset of a logical one (R218). -/
def layoutPos (code o : Nat) : Nat :=
  if code = 0x11 ∨ code = 0x12 ∨ code = 0x13 then
    let row := o / 128
    row * 128 + (o % 128 / 16 ^^^ (row % 2 ^ (code - 0x10))) * 16 + o % 16
  else if code = 0x20 ∨ code = 0x21 ∨ code = 0x22 then
    let e := 2 ^ (code - 0x20)
    let T := 1024 * e
    let n := o % T / e
    o / T * T + (n % 32 * 32 + n / 32) * e + o % e
  else o

/-! ## Descriptors (R194) -/

/-- A ring by its home core and its descriptor's TCM offset. -/
structure Ring where
  core : Nat
  off  : Nat
deriving DecidableEq, Repr

def Ring.key (r : Ring) : Nat := tcmKey r.core r.off

/-- A little-endian field of the descriptor. -/
def State.rf (s : State) (r : Ring) (o n : Nat) : Nat := s.rd (r.key + o) n

def ringBase (s : State) (r : Ring) : VAddr := BitVec.ofNat 56 (s.rf r 0 8)
def ringHead (s : State) (r : Ring) : Nat := s.rf r 8 4
def ringTail (s : State) (r : Ring) : Nat := s.rf r 12 4
def ringSsz (s : State) (r : Ring) : Nat := s.rf r 16 2
def ringLog2n (s : State) (r : Ring) : Nat := s.rf r 18 1 % 16
def ringNprod (s : State) (r : Ring) : Nat := s.rf r 18 1 / 16
def ringLayout (s : State) (r : Ring) : Nat := s.rf r 19 1
def ringStrict (s : State) (r : Ring) : Bool := s.rf r 20 1 % 2 == 1
def ringStoff (s : State) (r : Ring) : Nat := s.rf r 22 2 % 0x2000
def ringLink (s : State) (r : Ring) (consumer : Bool) : Nat := s.rf r (if consumer then 28 else 24) 4
def ringProd (s : State) (r : Ring) (n : Nat) : CoreId := BitVec.ofNat 32 (s.rf r (32 + 4 * n) 4)

/-- Slots of the ring. -/
def ringSlots (s : State) (r : Ring) : Nat := 2 ^ ringLog2n s r

/-- Bytes of a slot. -/
def slotBytes (s : State) (r : Ring) : Nat := ringSsz s r * 64

/-- SHARE (R194). -/
def ringShare (s : State) (r : Ring) : Nat := slotBytes s r / ringNprod s r

/-- Filled and ready slots: (TAIL − HEAD) mod 2^32 (R199). -/
def ringFilled (s : State) (r : Ring) : Nat := (ringTail s r + 2 ^ 32 - ringHead s r) % 2 ^ 32

/-- The address of a free-running slot (R194). -/
def slotAddr (s : State) (r : Ring) (i : Nat) : VAddr :=
  ringBase s r + BitVec.ofNat 56 (i % ringSlots s r * slotBytes s r)

/-- The key of a slot's state entry (R196). -/
def slotState (s : State) (r : Ring) (i : Nat) : Nat :=
  tcmKey r.core (ringStoff s r * 32 + 32 * (i % ringSlots s r))

def slotCnt (s : State) (r : Ring) (i n : Nat) : Nat := s.rd (slotState s r i + 3 * n) 3
def slotPois (s : State) (r : Ring) (i : Nat) : Bool := s.rd (slotState s r i + 24) 1 % 2 == 1
def slotHold (s : State) (r : Ring) (i : Nat) : Nat := s.rd (slotState s r i + 25) 1

/-- The mesh rectangle of the partition: a partition of one where MOD_PART is not valid (R27). -/
def inMesh (s : State) (row col : Nat) : Bool :=
  let p := s.part
  if p.getLsbD 26 then
    let r0 := (p.extractLsb' 0 6).toNat; let c0 := (p.extractLsb' 6 6).toNat
    let nr := (p.extractLsb' 12 7).toNat; let nc := (p.extractLsb' 19 7).toNat
    decide (r0 ≤ row) && decide (row < r0 + nr) && decide (c0 ≤ col) && decide (col < c0 + nc)
  else s.modNum.toNat == row * 64 + col

/-- An identifier names a core (R8). -/
def namesCore (s : State) (id : CoreId) : Bool :=
  (idLeaf id).isSome && idModule id / 4096 == 0 && inMesh s (idModule id / 64 % 64) (idModule id % 64)

/-- No two producer entries of the list name the same core, SLOT ignored. -/
def distinctProds (ps : List CoreId) : Bool :=
  match ps with
  | [] => true
  | p :: r => !(r.any fun q => idCore q == idCore p) && distinctProds r

/-- The producer identifiers of a descriptor. -/
def ringProds (s : State) (r : Ring) : List CoreId := (List.range (ringNprod s r)).map (ringProd s r)

/-- The checks of R195 on a descriptor. -/
def ringValid (s : State) (r : Ring) : Bool :=
  let direct := (s.core r.core).directBytes
  let arr := ringStoff s r * 32
  let arrEnd := arr + 32 * ringSlots s r
  decide (r.off % 64 = 0) && decide (r.off + 64 ≤ direct)
    && s.rf r 0 8 % 64 == 0 && s.rf r 7 1 == 0
    && decide (1 ≤ ringSsz s r) && decide (ringSsz s r ≤ 4096) && decide (ringLog2n s r ≤ 8)
    && decide (1 ≤ ringNprod s r) && decide (ringNprod s r ≤ 8) && ringSsz s r % ringNprod s r == 0
    && (match layoutUnit (ringLayout s r) with | none => false | some u => slotBytes s r % u == 0)
    && s.rf r 20 1 / 2 == 0 && s.rf r 21 1 == 0 && s.rf r 22 2 / 0x2000 == 0
    && ringLink s r false / 2 % 0x1000 == 0 && ringLink s r true / 2 % 0x1000 == 0
    && (List.range 8).all (fun n => decide (n < ringNprod s r) || ringProd s r n == 0)
    && (ringProds s r).all (namesCore s) && distinctProds (ringProds s r)
    && decide (arrEnd ≤ direct) && (decide (arrEnd ≤ r.off) || decide (r.off + 64 ≤ arr))

/-- The producer entry of a core (R197). -/
def prodIndex (s : State) (r : Ring) (id : CoreId) : Option Nat :=
  (ringProds s r).findIdx? fun p => idCore p == idCore id

/-- Slots from HEAD to the cursor of producer n (R197): how many of the first `fuel` slots it has filled. -/
def cursorFrom (s : State) (r : Ring) (n i fuel : Nat) : Nat :=
  match fuel with
  | 0 => 0
  | f + 1 => if slotCnt s r i n < ringShare s r then 0 else 1 + cursorFrom s r n (i + 1) f

/-- The cursor of producer n, as a distance from HEAD. -/
def cursor (s : State) (r : Ring) (n : Nat) : Nat := cursorFrom s r n (ringHead s r) (ringSlots s r)

/-- Free slots of producer n (R197). -/
def freeSlots (s : State) (r : Ring) (n : Nat) : Nat := ringSlots s r - cursor s r n

/-- A slot is filled when every producer has credited SHARE bytes (R198). -/
def slotFilled (s : State) (r : Ring) (i : Nat) : Bool :=
  (List.range (ringNprod s r)).all fun n => slotCnt s r i n == ringShare s r

/-- A slot is ready when it is filled and no task holds it (R198). -/
def slotReady (s : State) (r : Ring) (i : Nat) : Bool := slotFilled s r i && slotHold s r i == 0

/-! ## Book links (R163, R204) -/

/-- The ring-table index of a ring in a book: the first entry that names it, in its direction, where several do (DESIGN CHOICE, log
entry 27: R159 forbids no second one, and R163 does not say which counter counts). -/
def Book.ringIdx (b : Book) (id : CoreId) (off : Nat) (down : Bool) : Option Nat :=
  b.rings.findIdx? fun e => idCore e.core == idCore id && e.off.toNat == off && e.down == down

/-- Queues `n` notices of a ring for the book that a link names (R163). -/
def State.notify (s : State) (r : Ring) (consumer : Bool) (n : Nat) : State :=
  let link := ringLink s r consumer
  if link % 2 = 0 then s
  else
    let d := link / 8192 % 8
    if link / 65536 = s.modNum.toNat then
      match (s.die d).book.ringIdx (s.coreId r.core 0) r.off (!consumer) with
      | none => s
      | some j => s.modDie d fun x => { x with book := { x.book with notices := x.book.notices ++ List.replicate n j } }
    else
      let m : Msg :=
        { id := 0, src := s.coreId r.core 0, dst := BitVec.ofNat 32 (link / 8192 * 8192), ctx := s.ctxNum r.core,
          fibre := 0, pc := 0, cycle := s.cycleOf r.core, body := .notice d (BitVec.ofNat 18 r.off) (!consumer) }
      { s with outMsgs := s.outMsgs ++ List.replicate n m }

/-- A reservation that a party must wait for covers the ring's descriptor or slot-state array (R241): its operations wait. -/
def ringHeld (s : State) (who : Option Nat) (r : Ring) : Bool :=
  s.heldRange who r.key 64 || s.heldRange who (tcmKey r.core (ringStoff s r * 32)) (32 * ringSlots s r)

/-! ## Operations (R197–R203) -/

/-- How far TAIL advances from a slot over ready slots. -/
def advanceFrom (s : State) (r : Ring) (i fuel : Nat) : Nat :=
  match fuel with
  | 0 => 0
  | f + 1 => if slotReady s r i then 1 + advanceFrom s r (i + 1) f else 0

/-- TAIL advances over each ready slot at TAIL (R198), and the consumer's book hears of each (R163). -/
def advanceTail (s : State) (r : Ring) : State :=
  let n := advanceFrom s r (ringTail s r) (ringSlots s r - ringFilled s r)
  if n = 0 then s
  else (s.wrN (r.key + 12) 4 (ringTail s r + n)).notify r true n

/-- The plan of a credit of `b` bytes of producer n: slot and bytes, and what is left over (R197). -/
def creditPlan (s : State) (r : Ring) (n i b fuel : Nat) : List (Nat × Nat) × Nat :=
  match fuel with
  | 0 => ([], b)
  | f + 1 =>
    if b = 0 then ([], 0)
    else
      let room := ringShare s r - slotCnt s r i n
      let m := min room b
      let (rest, left) := creditPlan s r n (i + 1) (b - m) f
      (if m = 0 then rest else (i, m) :: rest, left)

/-- The owner of a credit: a task of a core, or nobody (R198). -/
abbrev Owner := Option (Nat × VAddr)

/-- The owning task. -/
def State.ownerTask (s : State) (o : Owner) : Option Task := o.bind fun (L, t) => (s.core L).task? t

/-- Records that a task holds on other modules (R198), as these reported them last (DESIGN CHOICE, log entry 19). -/
def Task.heldAway (t : Task) : Nat := t.awayHeld.foldl (fun n e => n + e.2) 0

/-- Records that the owner of a credit to another module holds outside that module. -/
def State.heldBeside (s : State) (o : Owner) (id : CoreId) : Nat :=
  match s.ownerTask o with
  | none => 0
  | some t => t.holds.length + (t.awayHeld.filter (·.1 != idModule id)).foldl (fun n e => n + e.2) 0

/-- The owner of a credit has sent one to a core of another module, which hears of its end (R198, R203). -/
def State.noteAway (s : State) (o : Owner) (id : CoreId) : State :=
  match o with
  | none => s
  | some (L, r) => s.modCore L fun c => { c with tasks := c.tasks.map fun t =>
      bif t.recAddr == r && !(t.away.any fun x => idCore x == idCore id) then { t with away := t.away ++ [id] } else t }

/-- The task holds a record of the slot. -/
def holdsSlot (t : Task) (r : Ring) (i : Nat) : Bool :=
  t.holds.any fun h => h.core == r.core && h.desc == r.off && h.slot.toNat == i % 2 ^ 32

/-- Adds bytes to the owner's record of a slot, making the record at the first credit (R198); `p`: the credit set POIS. -/
def addHold (t : Task) (r : Ring) (i n b : Nat) (p : Bool) : Task :=
  if holdsSlot t r i then
    { t with holds := t.holds.map fun h =>
        if h.core == r.core && h.desc == r.off && h.slot.toNat == i % 2 ^ 32 then
          { h with bytes := h.bytes + b, pois := h.pois || p }
        else h }
  else { t with holds := t.holds ++ [{ core := r.core, desc := r.off, slot := BitVec.ofNat 32 i, n, bytes := b, pois := p }] }

/-- The bytes of a credit counted in a slot, with POIS. -/
def fillSlot (s : State) (r : Ring) (n : Nat) (pois : Bool) (i b : Nat) : State :=
  let k := slotState s r i
  let s' := s.wrN (k + 3 * n) 3 (slotCnt s r i n + b)
  if pois then s'.wrN (k + 24) 1 1 else s'

/-- A further task holds a slot. HOLD counts 0–255 (R196): a 256th task leaves it at 255 (DESIGN CHOICE, log entry 19). -/
def raiseHold (s : State) (r : Ring) (i : Nat) : State := s.wrN (slotState s r i + 25) 1 (min 255 (slotHold s r i + 1))

/-- One part of a credit applied to a slot. -/
def creditSlot (s : State) (r : Ring) (n : Nat) (pois : Bool) (o : Owner) (i b : Nat) : State :=
  let s' := fillSlot s r n pois i b
  match o, s.ownerTask o with
  | some (L, _), some t =>
    (if holdsSlot t r i then s' else raiseHold s' r i).modCore L fun c => c.setTask (addHold t r i n b pois)
  | _, _ => if pois then { s' with poisKept := insNat s'.poisKept (slotState s r i) } else s'

/-- Applies a planned credit. -/
def creditSlots (s : State) (r : Ring) (n : Nat) (pois : Bool) (o : Owner) (plan : List (Nat × Nat)) : State :=
  match plan with
  | [] => s
  | (i, b) :: rest => creditSlots (creditSlot s r n pois o i b) r n pois o rest

/-- New hold records that a plan makes for a task. -/
def newHolds (t : Task) (r : Ring) (plan : List (Nat × Nat)) : Nat :=
  (plan.filter fun (i, _) => !holdsSlot t r i).length

/-- A plan takes its owner above the 64 records that a task holds at most (R198). -/
def overHeld (s : State) (r : Ring) (o : Owner) (plan : List (Nat × Nat)) : Bool :=
  (s.ownerTask o).any fun t => decide (64 < t.holds.length + t.heldAway + newHolds t r plan)

/-- Checks a credit: the producer entry (0x073), the room (0x074) and the hold limit (0x075). -/
def creditCheck (s : State) (r : Ring) (id : CoreId) (b : Nat) (o : Owner) : Except Cause (Nat × List (Nat × Nat)) :=
  match prodIndex s r id with
  | none => .error 0x073
  | some n =>
    let (plan, left) := creditPlan s r n (ringHead s r) b (ringSlots s r)
    if left ≠ 0 then .error 0x074
    else if overHeld s r o plan then .error 0x075
    else .ok (n, plan)

/-- A credit of `b` bytes by the core `id` (R197, R198, R202). -/
def credit (s : State) (r : Ring) (id : CoreId) (b : Nat) (pois : Bool) (o : Owner) : Except Cause State :=
  match creditCheck s r id b o with
  | .error c => .error c
  | .ok (n, plan) => .ok (advanceTail (creditSlots s r n pois o plan) r)

/-- Clears the state entries of `k` slots from HEAD. -/
def clearSlots (s : State) (r : Ring) (i k : Nat) : State :=
  match k with
  | 0 => s
  | k + 1 =>
    let a := slotState s r i
    clearSlots { s.wrN a 32 0 with poisKept := s.poisKept.filter (· ≠ a) } r (i + 1) k

/-- A pop of `k` slots (R199): ring-underflow beyond TAIL. -/
def pop (s : State) (r : Ring) (k : Nat) : Except Cause State :=
  if ringFilled s r < k then .error 0x076
  else
    let h := ringHead s r
    .ok (((clearSlots s r h k).wrN (r.key + 8) 4 (h + k)).notify r false k)

/-- Commits a task's record (R198): HOLD falls by one and TAIL may advance. -/
def commitHold (s : State) (h : Hold) : State :=
  let r : Ring := ⟨h.core, h.desc⟩
  advanceTail (s.wrN (slotState s r h.slot.toNat + 25) 1 (slotHold s r h.slot.toNat - 1)) r

/-- Records of tasks, on every core and module, that a poisoned credit made or joined on the slot of a record. -/
def poisHolds (s : State) (h : Hold) : Nat :=
  (s.cores.flatMap (fun e => e.2.tasks.flatMap (·.holds)) ++ s.awayHolds.map (·.2.2)).countP fun x =>
    x.pois && x.core == h.core && x.desc == h.desc && x.slot == h.slot

/-- Discards a task's record (R203): its bytes leave CNTn and HOLD falls by one, at the slot's home, where both wait behind another
core's reservation (R241): each is an addition to the word that begins with the field, which borrows nothing from its neighbours.
POIS that no other party's credit set is taken back with the credit, so that the restarted attempt can fill the slot (R119, R426). -/
def discardHold (s : State) (h : Hold) : State :=
  let k := slotState s ⟨h.core, h.desc⟩ h.slot.toNat
  let s' := s.homeAdd none (k + 3 * h.n) (0 - BitVec.ofNat 32 h.bytes)
  let s' := if h.pois && poisHolds s h == 1 && !s.poisKept.contains k then s'.homeWrite none (k + 24) [0] else s'
  s'.homeAdd none (k + 25) (0 - 1#32)

/-- Whether a slot credited by a task holds poison (R431). -/
def holdPoisoned (s : State) (h : Hold) : Bool := slotPois s ⟨h.core, h.desc⟩ h.slot.toNat

/-! ## Slot data (R194, R201) -/

/-- The party that reads or writes a ring's data: its home core (R194). -/
def ringParty (s : State) (r : Ring) (src : Nat) : Party := { core := some r.core, ctx := s.ctxOfCore r.core, src }

/-- The homes of a slot's bytes. -/
def slotPieces (s : State) (r : Ring) (src i : Nat) (k : Kind) : Chk (List (Loc × Nat)) :=
  resolveRange s (ringParty s r src) (slotAddr s r i) (slotBytes s r) k

/-- Logical bytes under a layout code, from physical ones. -/
def unlayout (code : Nat) (bs : List Byte) : List Byte :=
  if code = 0 then bs else
  let a := bs.toArray
  (List.range a.size).map fun o => a.getD (layoutPos code o) 0

/-- The key of the physical byte at offset o of resolved pieces. -/
def pieceKey (ps : List (Loc × Nat)) (o : Nat) : Nat :=
  match ps with
  | [] => 0
  | (l, m) :: r => if o < m then l.key + o else pieceKey r (o - m)

/-- The stores of a run of bytes from physical offset `lo` of resolved pieces: one per piece. -/
def runPuts (ps : List (Loc × Nat)) (lo : Nat) (bs : List Byte) : List Put :=
  (ps.foldl (init := (([] : List Put), lo, bs, 0)) fun (acc, o, rest, start) (l, m) =>
    if start + m ≤ o then (acc, o, rest, start + m)
    else
      let n := start + m - o
      let now := rest.take n
      (if now.isEmpty then acc else acc ++ [{ key := l.key + (o - start), bytes := now }],
        o + now.length, rest.drop n, start + m)).1

/-- The runs of physical offsets under `n` that logical bytes from offset `lo` take up under a layout code: each with its bytes. Every
layout takes an offset's place back to the offset (R218), so the bytes come in the order of their places. -/
def physRuns (code lo n : Nat) (bs : List Byte) : List (Nat × List Byte) :=
  let a := bs.toArray
  let add (l : List (Nat × List Byte)) (p : Nat) : List (Nat × List Byte) :=
    let j := layoutPos code p
    if j < lo ∨ lo + a.size ≤ j then l
    else
      let b := a.getD (j - lo) 0
      match l with
      | [] => [(p, [b])]
      | (o, r) :: t => if o + r.length = p then (o, b :: r) :: t else (p, [b]) :: l
  (((List.range n).foldl add []).map fun (o, r) => (o, r.reverse)).reverse

/-- The stores that place logical bytes from logical offset `lo` under a layout code. -/
def layoutPuts (ps : List (Loc × Nat)) (code lo : Nat) (bs : List Byte) : List Put :=
  if code = 0 then runPuts ps lo bs
  else (physRuns code lo ((ps.map (·.2)).foldl (· + ·) 0) bs).flatMap fun (o, r) => runPuts ps o r

/-- Applies stores; the lines of `pois` become poison. -/
def applyPuts (s : State) (who : Option Nat) (ps : List Put) (pois : List Nat := []) : State :=
  match ps with
  | [] => s
  | p :: r => applyPuts (s.homeWrite who p.key p.bytes pois) who r pois

/-- The checks on a stated layout code (R201, R218), with the details of R286. -/
def statedLayout (s : State) (r : Ring) (code : Nat) (h : Nat) : Chk Unit :=
  let off := BitVec.ofNat 64 r.off
  match layoutUnit code with
  | none => trapA 0x078 off (BitVec.ofNat 64 h)
  | some u =>
    if slotBytes s r % u ≠ 0 then trapA 0x079 off (BitVec.ofNat 64 h)
    else if code ≠ ringLayout s r ∧ ringStrict s r then
      trapA 0x077 off (BitVec.ofNat 64 (code + 256 * ringLayout s r))
    else .ok ()

/-- The ring that a handle of a fibre names (R195). -/
def ringOf (s : State) (L f : Nat) (h : HReg) : Chk Ring :=
  match ((s.core L).fib f).h.getD h.val none with
  | none => trapA 0x071 0 (BitVec.ofNat 64 h.val)
  | some u => .ok ⟨L, u.toNat * 64⟩

/-- The descriptor offset and handle of a binding of core L whose descriptor or slot-state array meets a range of keys
(R195). -/
def boundAt (s : State) (L k n : Nat) : Option (Nat × Nat) :=
  (s.core L).fibres.findSome? fun (_, f) => f.h.toList.zipIdx.findSome? fun (b, i) =>
    match b with
    | none => none
    | some u =>
      let r : Ring := ⟨L, u.toNat * 64⟩
      let arr := tcmKey L (ringStoff s r * 32)
      if (r.key < k + n ∧ k < r.key + 64) ∨ (arr < k + n ∧ k < arr + 32 * ringSlots s r) then some (r.off, i) else none

end Sys2Proof.Machine
end

