-- ==== Sys2Proof/Machine/Fibres.lean ====
section
/-! DEFINITION. Fibres as wholes: the run queue and the spill area (spec/07_core_and_fibres.md R180–R184), the fibre
context (spec/11_traps_and_preemption.md R288), and the end of a fibre (R182, R290, R368, R405).
Log entries: 12 (DEDUCED and DESIGN CHOICE); 3 (DESIGN CHOICE). -/

namespace Sys2Proof.Machine

/-- The core holds its issue: a gang stop, a debug halt, or a fence (R214, R291, R306). -/
def Core.held (c : Core) : Bool := c.stopped || c.halted || c.fenced

/-- Run-queue entries in use (R181, R209). -/
def Core.rqUse (c : Core) : Nat := (c.fibres.filter fun e => !e.2.spilled).length

/-- Fibres that a core may hold (R181). -/
def fibreLimit (s : State) (L : Nat) : Nat :=
  256 * 2 ^ ((s.ctx (s.ctxNum L)).fscfg.extractLsb' 0 3).toNat

/-- The lowest fibre number from `n` that a core does not use (R434). -/
def Core.newFibre (c : Core) (n fuel : Nat) : Nat :=
  match fuel with
  | 0 => n
  | k + 1 => if c.hasFib n then c.newFibre (n + 1) k else n

/-- The flags word as software sees it (R180). -/
def flagsMask : Word := 0x70F

/-- CORE_INBOX.LOG2, and the TCM offset of the inbox (R374). -/
def Core.inLog2 (c : Core) : Nat := (c.inbox.extractLsb' 2 4).toNat
def Core.inBase (c : Core) : Nat := (c.inbox.extractLsb' 7 11).toNat * 128

/-- Where an instruction's ring wait stands: the first ring, of its sources and then its destination, that is not ready (R386). -/
def slotWait (s : State) (L : Nat) (srcs : List Nat) (dst : Option Nat) : Nat :=
  ((srcs.find? fun o => ringFilled s ⟨L, o⟩ == 0).or (dst.or srcs.head?)).getD 0

/-- The wait's location and target, as the fibre context shows them (R288): the address of an access as its instruction gave it, a
descriptor by its TCM offset, the control page's or the inbox entry's own address, and a barrier or a mailbox by its number; a wait
without a location has 0 (DESIGN CHOICE, log entry 12). -/
def Wait.detail (s : State) (L f : Nat) : Wait → Nat × Nat
  | .access => (((s.core L).fib f).pend.elim 0 (·.va.toNat), 0)
  | .reservation _ =>
    (((s.grants.find? fun g => !g.granted && g.core == L && g.fibre == f).bind (·.op)).elim 0 (·.va.toNat), 0)
  | .written => ((((s.core L).fib f).last.map (·.addr.toNat)).getD 0, 0)
  | .ringFilled d k | .ringFree d k => (d, k)
  | .tags m => (0, m.toNat)
  | .counter k t =>
    (((s.watches.find? fun w => w.core == L && w.fibre == f && w.key == k && w.target == some t).map (·.va.toNat)).getD 0, t.toNat)
  | .cycle t => (0, t)
  | .slots srcs dst => (slotWait s L srcs dst, 1)
  | .treeIn => (0xFF * 2 ^ 48 + 2 * 2 ^ 32 + 0x100, 1)
  | .treeOut => (0xFF * 2 ^ 48 + 2 * 2 ^ 32 + 0x108, 1)
  | .inbox => (0xFF * 2 ^ 48 + (s.core L).inBase + 128 * ((s.core L).inHead.toNat % 2 ^ (s.core L).inLog2), 1)
  | .barrier b => (0, b.val)
  | .mailboxEmpty m | .mailboxFull m => (0, m.val)
  | _ => (0, 0)

/-- The 224 bytes of a fibre context (R288). -/
def fibreContext (s : State) (L f : Nat) : List Byte :=
  let c := s.core L
  let x := c.fib f
  let inSlot := (c.slotOf f).isSome
  let mine (o : EngineOp) : Bool := o.fibre == f && !o.remote
  let paused := (c.vecPaused ++ c.matPaused).any mine || ((c.stopped || c.halted) && (c.vec.any mine || c.mat.any mine))
  let st := match x.status with
    | .parked => 2
    | .waiting w => if inSlot ∧ 2 ≤ f then 3 else if w = .running ∧ paused then 0 else 1
    | _ => if inSlot then 3 else 0
  let reason := match x.trap with | some t => t.cause | none => if st = 3 then 0 else x.reason
  let tq := c.trapQ.idxOf? f
  let (wa, wt) := match x.trap, x.status with
    | some t, _ => (t.addr.toNat, t.aux.toNat)
    | none, .waiting w => w.detail s L f
    | _, _ => (0, 0)
  let dst := (x.pend.bind (·.dst)).bind fun r => if r.val < 8 then some r.val else none
  let rsv := if x.rsv.isSome then x.rsv else x.last
  leBytes 8 x.pc.toNat ++ x.a.toList.flatMap (fun v => leBytes 8 v.toNat) ++ leBytes 8 x.flags.toNat
    ++ leBytes 8 (f % 4096 + x.prio.toNat * 2 ^ 12 + st * 2 ^ 14 + reason.toNat * 2 ^ 17 + paused.toNat * 2 ^ 26
        + (f == 0 && c.handler.isSome).toNat * 2 ^ 27 + tq.getD 0 * 2 ^ 28 + tq.isSome.toNat * 2 ^ 40)
    ++ leBytes 8 (x.task.getD 0).toNat
    ++ x.h.toList.flatMap (fun h => match h with | some u => leBytes 2 (u.toNat + 0x8000) | none => leBytes 2 0)
    ++ x.f.toList.flatMap (fun v => leBytes 8 v.toNat) ++ x.c.toList.flatMap (fun v => leBytes 8 v.toNat)
    ++ leBytes 8 wa ++ leBytes 8 wt
    ++ leBytes 8 (dst.elim 0 (· + 32))
    ++ leBytes 8 (match rsv with
        | some r => r.addr.toNat + r.word.toNat * 2 ^ 56 + x.rsv.isSome.toNat * 2 ^ 57 + x.lost.toNat * 2 ^ 58
        | none => x.lost.toNat * 2 ^ 58)

/-- Address of the spill record of a fibre (R181). -/
def spillAddr (s : State) (L f : Nat) : VAddr :=
  let w := (s.ctx (s.ctxNum L)).fscfg
  BitVec.ofNat 56 ((w.extractLsb' 16 40).toNat * 65536 + L * 2 ^ (16 + (w.extractLsb' 0 3).toNat) + f * 256)

/-- Raises a fatal fault of the core's context (R125), found by a slot (R9). -/
def State.fatalAt (s : State) (L slot : Nat) (cause : Cause) : State :=
  match s.ctxOfCore L with
  | some c => if h : c < 48 then s.raise (.fatalFault ⟨c, h⟩ cause (s.coreId L slot)) else s
  | none => s

/-- A fatal fault that the core finds as a whole. -/
def State.fatal (s : State) (L : Nat) (cause : Cause) : State := s.fatalAt L 0 cause

/-- The words of a context that an instruction's end writes: the PC, a0–a7 and the flags (R288). -/
def Fibre.savedWords (x : Fibre) : List Word := x.pc.setWidth 64 :: x.a.toList ++ [x.flags]

/-- A spilled fibre's registers stand in its spill record: what the end of an access or of an engine's instruction changes in them, from
`s0` to `s`, is written there (R182, R184). -/
def keepSpilled (s0 s : State) (L f : Nat) : State :=
  let x := (s.core L).fib f
  if !x.spilled then s
  else (((((s0.core L).fib f).savedWords).zip x.savedWords).zipIdx).foldl (init := s) fun s ((old, new), i) =>
    if old = new then s
    else match resolveRange s (s.engineOf L) (spillAddr s L f + BitVec.ofNat 56 (8 * i)) 8 .write with
      | .ok ps => writePieces s none ps (leBytes 8 new.toNat)
      | .error _ => s.fatal L 0x173

/-- A spilled fibre returns with the registers, the priority and the bindings of its spill record (R181, R288). -/
def Fibre.load (x : Fibre) (b : List Byte) : Fibre :=
  let w (i : Nat) : Nat := leNat ((b.drop (8 * i)).take 8)
  let v (i n : Nat) : Vector Word n := Vector.ofFn fun k => BitVec.ofNat 64 (w (i + k.val))
  { x with
    pc := BitVec.ofNat 56 (w 0) &&& ~~~1#56, a := v 1 8, flags := BitVec.ofNat 64 (w 9) &&& flagsMask, prio := BitVec.ofNat 2 (w 10 / 2 ^ 12)
    h := Vector.ofFn fun k =>
      let h := leNat ((b.drop (96 + 2 * k.val)).take 2)
      if h / 2 ^ 15 % 2 = 1 then some (BitVec.ofNat 12 h) else none
    f := v 16 4, c := v 20 4, spilled := false }

/-- A fibre whose instruction is paused in an engine is ready (R207). -/
def Core.pausedFibre (c : Core) (f : Nat) : Bool := (c.vecPaused ++ c.matPaused).any fun o => o.fibre == f && !o.remote

/-- The fibre that is spilled when an entry is needed: of the waiting fibres outside slots, the one whose wait began
earliest, ties to the lower number; one whose instruction is paused in an engine is ready and stays (R181, R207). -/
def Core.spillVictim (c : Core) : Option Nat :=
  (c.fibres.foldl (init := (none : Option (Nat × Nat))) fun best (n, x) =>
    match x.status with
    | .waiting _ =>
      if n < 2 ∨ x.spilled ∨ (c.slotOf n).isSome ∨ c.pausedFibre n then best
      else match best with
        | none => some (x.since, n)
        | some (t, _) => if x.since < t then some (x.since, n) else best
    | _ => best).map (·.2)

/-- Writes a spill record: a translation fault or a poisoned line is an error (R184). -/
def writeSpill (s : State) (L f : Nat) : Chk State := do
  let ps ← resolveRange s (s.engineOf L) (spillAddr s L f) 256 .write
  need (!piecesPoisoned s ps) 0x173
  if ps.any fun (l, m) => s.heldRange none l.key m then wait .entry
  return writePieces s none ps (fibreContext s L f ++ leBytes 32 0)

/-- Frees a run-queue entry for a request of a slot: none where no fibre can be spilled yet. A failed spill is fatal (R184). -/
def takeEntry (s : State) (L slot : Nat) : Option State :=
  let c := s.core L
  if c.rqUse < 256 then some s
  else if fibreLimit s L = 256 then none
  else match c.spillVictim with
    | none => none
    | some f =>
      match writeSpill s L f with
      | .ok s => some (s.modCore L fun c => c.modFib f fun x => { x with spilled := true, reason := 0x15E })
      | .error (.wait _) => none
      | .error _ => some (s.fatalAt L slot 0x173)

/-- Makes a fibre ready in the run queue from the present cycle (R183). -/
def State.makeReady (s : State) (L f : Nat) : State :=
  s.modCore L fun c => c.modFib f fun x => { x with status := .ready, since := s.cycleOf L, pend := none }

/-- Accumulators of a fibre released (R405). -/
def releaseAccs (accs : Vector Acc 4) (f : Nat) : Vector Acc 4 :=
  accs.map fun a => if a.own ∧ a.owner = f then { a with own := false } else a

/-- Ends a fibre (R182): its slot and entry are free, its accumulators released (R405), its reservation revoked
(R368), its engine operations abandoned (R290), and its queued traps and matches withdrawn. -/
def endFib (s : State) (L f : Nat) : State :=
  let keep (o : EngineOp) : Bool := o.fibre != f
  let s := s.endReservations L f
  (s.modCore L fun c =>
    let c := c.freeSlot f
    { c with
      fibres := spDel c.fibres f
      acc := releaseAccs c.acc f
      vec := c.vec.filter keep, mat := c.mat.filter keep
      vecPaused := c.vecPaused.filter keep, matPaused := c.matPaused.filter keep
      trapQ := c.trapQ.filter (· ≠ f)
      treg := if c.trapQ.head? = some f then Vector.replicate 9 none else c.treg
      matchQ := c.matchQ.filter (·.1 ≠ f) }).dropOps L

/-- The urgent fibre's main plane made idle at CORE_UVEC, with a0–a7 and flags zero (R284). A PC-match handler goes on on the
shadow plane. -/
def idleUrgent (s : State) (L : Nat) : State :=
  let keep (o : EngineOp) : Bool := o.fibre != 0 || o.shadow || o.remote
  let s := s.endReservations L 0
  (s.modCore L fun c =>
    { c with idle := true, acc := releaseAccs c.acc 0
             vec := c.vec.filter keep, mat := c.mat.filter keep
             vecPaused := c.vecPaused.filter keep, matPaused := c.matPaused.filter keep }.modFib 0 fun x =>
      { x with pc := c.uvec.setWidth 56, a := Vector.replicate 8 0, flags := 0, status := .ready, trap := none,
               pend := none }).dropOps L

/-- The courier fibre runs the default courier program (R193): CORE_COURIER holds the firmware's entry. -/
def Core.defaultCourier (c : Core) : Bool := c.courier == Core.atReset.courier

/-- The courier restarted at CORE_COURIER.ENTRY, with a0–a7 and flags zero (R192, R284). A pending entry takes
effect with it. The default program's instructions are the firmware's: its fibre stands at its take (R193). -/
def restartCourier (s : State) (L : Nat) : State :=
  let keep (o : EngineOp) : Bool := o.fibre != 1
  let s := s.endReservations L 1
  (s.modCore L fun c =>
    let e := c.courierNext.getD c.courier
    { c with courier := e, courierNext := none, courierTask := none, courierDead := false, courierCmd := none, acc := releaseAccs c.acc 1
             vec := c.vec.filter keep, mat := c.mat.filter keep
             vecPaused := c.vecPaused.filter keep, matPaused := c.matPaused.filter keep }.modFib 1 fun x =>
      { x with pc := (e.extractLsb' 0 56) &&& ~~~1#56, a := Vector.replicate 8 0, flags := 0, trap := none, rsv := none,
               pend := none, status := if e = Core.atReset.courier then .waiting (.mailboxFull 0) else .ready }).dropOps L

end Sys2Proof.Machine
end

