-- ==== Sys2Proof/Machine/Sched.lean ====
section
/-! DEFINITION. Task records, deques, dispatch and retirement (spec/05_scheduler.md R136–R154), and the restart and
failure of tasks (spec/04_resilience_and_checkpoint.md R119).
Log entries: 17 (DEDUCED); 11, 12, 19, 26 (DEDUCED and DESIGN CHOICE). -/

namespace Sys2Proof.Machine

/-! ## Task records (R136–R139) -/

/-- A task record's 128 bytes, split (R136). -/
structure TRec where
  raw : List Byte
deriving DecidableEq, Repr

def TRec.num (t : TRec) (o n : Nat) : Nat := leNat ((t.raw.drop o).take n)
def TRec.entry (t : TRec) : VAddr := BitVec.ofNat 56 (t.num 0 7)
def TRec.arg (t : TRec) (i : Nat) : Word := BitVec.ofNat 64 (t.num (8 + 8 * i) 8)
def TRec.fplist (t : TRec) : VAddr := BitVec.ofNat 56 (t.num 40 7)
def TRec.fsblk (t : TRec) : VAddr := BitVec.ofNat 56 (t.num 48 7)
def TRec.depctr (t : TRec) : Nat := t.num 56 4
def TRec.prio (t : TRec) : Nat := t.num 60 1 % 4
def TRec.nfp (t : TRec) : Nat := t.num 60 1 / 4 % 16
def TRec.ndep (t : TRec) : Nat := t.num 61 1 % 16
def TRec.ctx (t : TRec) : Nat := t.num 62 1 % 64
def TRec.restart (t : TRec) : Nat := t.num 63 1 % 16
def TRec.state (t : TRec) : Nat := t.num 63 1 / 16 % 8
def TRec.pfail (t : TRec) : Bool := t.num 63 1 / 128 == 1
def TRec.dep (t : TRec) (i : Nat) : Word := BitVec.ofNat 64 (t.num (64 + 8 * i) 8)

/-- The check of R139 that ends in invalid-task-record. -/
def TRec.valid (t : TRec) : Bool :=
  t.state < 6 && t.entry.toNat % 2 == 0 && decide (t.nfp ≤ 8) && decide (t.ndep ≤ 8)
    && t.fplist.toNat % 64 == 0 && t.fsblk.toNat % 64 == 0
    && t.num 7 1 == 0 && t.num 47 1 == 0 && t.num 55 1 == 0
    && t.num 60 1 / 64 == 0 && t.num 61 1 / 16 == 0 && t.num 62 1 / 64 == 0
    && (List.range 8).all fun i =>
        if i < t.ndep then (t.dep i).toNat % 64 == 0 else t.dep i == 0

/-- A footprint region (R137). -/
structure Region where
  src : VAddr
  len : Nat
  scratch : Bool
deriving DecidableEq, Repr

/-- A footprint descriptor, checked against R137. -/
def region (b : List Byte) : Option Region :=
  let src := leNat (b.take 8)
  let len := leNat ((b.drop 8).take 4)
  let dst := leNat (b.drop 12)
  if src % 64 = 0 ∧ src < 2 ^ 56 ∧ len % 64 = 0 ∧ 64 ≤ len ∧ len ≤ 48 * 2 ^ 20 ∧ dst < 2 then
    some { src := BitVec.ofNat 56 src, len, scratch := dst == 1 }
  else none

/-- The regions of a list of 16-byte descriptors. -/
def regionsOf (b : List Byte) (n : Nat) : Option (List Region) :=
  match n with
  | 0 => some []
  | n + 1 => do
    let r ← region (b.take 16)
    let rs ← regionsOf (b.drop 16) n
    return r :: rs

/-- The homes of a record of context c, by the first three checks of R139; ADDR of group 16 is the record address (R286).
Every mapped address lies in die store, HBM or LPDDR6, and the windows begin where those end: a record that runs into them does not
lie there. -/
def recPieces (s : State) (c : Nat) (va : VAddr) (k : Kind) : Chk (List (Loc × Nat)) := do
  need (va.toNat % 64 = 0 ∧ va.toNat / 2 ^ 48 < 0xFD) 0x100 (va.setWidth 64)
  let n := min 128 (0xFD * 2 ^ 48 - va.toNat)
  let ps ← resolveRange s (noCore c) va n k
  need (n = 128) 0x100 (va.setWidth 64)
  return ps

/-- The bytes of pieces as core L's port reads them (R232), or at their homes. -/
def lookPieces (s : State) (look : Option Nat) (ps : List (Loc × Nat)) : List Byte :=
  match look with
  | some L => ps.flatMap fun (l, m) => s.view L l.key m
  | none => readPieces s ps

/-- A record of context c, read with or without the right to write it, by the part or by a fibre of core `look`. -/
def recRead (s : State) (c : Nat) (va : VAddr) (k : Kind) (look : Option Nat := none) : Chk TRec := do
  let ps ← recPieces s c va k
  need (!piecesPoisoned s ps) 0x124 (va.setWidth 64)
  return { raw := lookPieces s look ps }

/-- The first four checks of R139 on a record of context c. -/
def readRec (s : State) (c : Nat) (va : VAddr) (look : Option Nat := none) : Chk TRec := recRead s c va .atomic look

/-- A reservation holds back the part's writes to a record (R241). -/
def recHeld (s : State) (c : Nat) (va : VAddr) : Bool :=
  match recPieces s c va .atomic with
  | .ok ps => ps.any fun (l, m) => s.heldRange none l.key m
  | .error _ => false

/-- The footprint list of a record (R137, R139). A list that reads as poison, of which R139 says nothing, gives
poisoned-task-record, at a push as at dispatch (log entry 11). -/
def readList (s : State) (p : Party) (va : VAddr) (t : TRec) (look : Option Nat := none) : Chk (List Region) :=
  if t.nfp = 0 then .ok []
  else do
    let ps ← resolveRange s p t.fplist (16 * t.nfp) .read
    need (!piecesPoisoned s ps) 0x124 (va.setWidth 64)
    match regionsOf (lookPieces s look ps) t.nfp with
    | some rs => return rs
    | none => trapA 0x103 (va.setWidth 64)

/-- A byte store into a record, where its address translates (R138). -/
def recByte (s : State) (c : Nat) (va : VAddr) (o : Nat) (f : Nat → Nat) : State :=
  match resolve s (noCore c) (va + BitVec.ofNat 56 o) .atomic with
  | .ok l =>
    s.homeWrite none l.key [BitVec.ofNat 8 (f (leNat (s.partBytes l.key 1)))]
  | .error _ => s

/-- Writes STATE (R136). -/
def setRecState (s : State) (c : Nat) (va : VAddr) (st : Nat) : State :=
  recByte s c va 63 fun b => b % 16 + st * 16 + b / 128 * 128

/-- Writes RESTART. -/
def setRecRestart (s : State) (c : Nat) (va : VAddr) (n : Nat) : State :=
  recByte s c va 63 fun b => b / 16 * 16 + n % 16

/-- Writes PFAIL 1. -/
def setPfail (s : State) (c : Nat) (va : VAddr) : State := recByte s c va 63 fun b => b % 128 + 128

/-! ## Capacity (R148) -/

def tcmCharge (rs : List Region) : Nat := (rs.filter (!·.scratch)).foldl (fun n r => n + r.len) 64
def spCharge (rs : List Region) : Nat := (rs.filter (·.scratch)).foldl (fun n r => n + r.len) 0

def Ctx.pinTcm (x : Ctx) : Nat := (x.pinq.extractLsb' 0 9).toNat
def Ctx.pinSp (x : Ctx) : Nat := (x.pinq.extractLsb' 16 6).toNat

/-- capT of a core of a context with DIRECT units of 32 KiB. -/
def capTOf (x : Ctx) (direct : Nat) : Nat := min x.pinTcm (direct * 32) * 1024
def capT (s : State) (c L : Nat) : Nat := capTOf (s.ctx c) (s.core L).direct
def capS (s : State) (c k : Nat) : Nat := min (s.ctx c).pinSp (s.die (k / 6)).spMib * 2 ^ 20

/-- The clusters of a context. -/
def Ctx.clusters (x : Ctx) : List Nat := (List.range 48).filter x.owns

/-- The largest capT over the context's cores; a core that is not listed is as at reset. -/
def maxCapT (s : State) (c : Nat) : Nat :=
  let listed := s.ctxCores c
  let m := listed.foldl (fun n L => max n (capT s c L)) 0
  if listed.length < (s.ctx c).clusters.length * 128 then max m (capTOf (s.ctx c) Core.atReset.direct) else m

/-- The largest capS over the context's clusters. -/
def maxCapS (s : State) (c : Nat) : Nat := (s.ctx c).clusters.foldl (fun n k => max n (capS s c k)) 0

/-- A footprint exceeds the largest capT or the largest capS of the context (R148). -/
def oversize (s : State) (c : Nat) (rs : List Region) : Bool :=
  decide (maxCapT s c < tcmCharge rs) || decide (maxCapS s c < spCharge rs)

/-- The largest capT of a context over the cores of one of its clusters. -/
def clusterCapT (s : State) (c k : Nat) : Nat :=
  let listed := (s.ctxCores c).filter fun L => clusterOf L == k
  let m := listed.foldl (fun n L => max n (capT s c L)) 0
  if listed.length < 128 then max m (capTOf (s.ctx c) Core.atReset.direct) else m

/-- Some core of the context could hold the footprint with nothing pinned (R148). -/
def holdable (s : State) (c : Nat) (rs : List Region) : Bool :=
  (s.ctx c).clusters.any fun k => decide (tcmCharge rs ≤ clusterCapT s c k) && decide (spCharge rs ≤ capS s c k)

/-- All checks of R139, by the part or by a fibre of core `look`. `released`: STATE 1 is no failure (R143). -/
def checkRec (s : State) (c : Nat) (p : Party) (va : VAddr) (released : Bool) (look : Option Nat := none) : Chk TRec := do
  let t ← readRec s c va look
  need (t.ctx = c) 0x101 (va.setWidth 64)
  need (!(t.state == 2 || t.state == 3 || (t.state == 1 && !released))) 0x102 (va.setWidth 64)
  need t.valid 0x103 (va.setWidth 64)
  let rs ← readList s p va t look
  need (!oversize s c rs) 0x104 (va.setWidth 64)
  return t

/-! ## Pins (R149) -/

/-- Ranges pinned in a core's TCM. -/
def tcmPins (s : State) (L : Nat) : List (Nat × Nat) :=
  (s.core L).tasks.flatMap fun t => (t.pins.filter (!·.scratch)).map fun p => (p.off, p.len)

/-- Ranges pinned in a cluster's scratchpad. -/
def spPins (s : State) (k : Nat) : List (Nat × Nat) :=
  (s.cores.filter fun e => clusterOf e.1 = k).flatMap fun e =>
    e.2.tasks.flatMap fun t => (t.pins.filter (·.scratch)).map fun p => (p.off, p.len)

def pinnedBytes (ps : List (Nat × Nat)) : Nat := ps.foldl (fun n p => n + p.2) 0

/-- The lowest free 64-byte-aligned place of `len` bytes in an area. -/
def lowestFree (lo hi : Nat) (ps : List (Nat × Nat)) (len : Nat) : Option Nat :=
  let starts := (lo :: ps.map fun p => p.1 + p.2).map fun a => (max a lo + 63) / 64 * 64
  let ok (a : Nat) : Bool :=
    decide (a + len ≤ hi) && ps.all fun p => decide (a + len ≤ p.1) || decide (p.1 + p.2 ≤ a)
  (starts.filter ok).foldl (fun b a => match b with | none => some a | some m => some (min a m)) none

/-- Places each region, then the pin map: the pins in list order, and the pin map's offset. -/
def placePins (tLo tHi sLo sHi : Nat) (tp sp : List (Nat × Nat)) (rs : List Region) : Option (List Pin × Nat) :=
  match rs with
  | [] => do
    let a ← lowestFree tLo tHi tp 64
    return ([{ scratch := false, off := a, len := 64 }], a)
  | r :: rest =>
    if r.scratch then do
      let a ← lowestFree sLo sHi sp r.len
      let (ps, m) ← placePins tLo tHi sLo sHi tp ((a, r.len) :: sp) rest
      return ({ scratch := true, off := a, len := r.len } :: ps, m)
    else do
      let a ← lowestFree tLo tHi tp r.len
      let (ps, m) ← placePins tLo tHi sLo sHi ((a, r.len) :: tp) sp rest
      return ({ scratch := false, off := a, len := r.len } :: ps, m)

/-- The charges of a footprint are within the bytes that a core and its cluster have free (R148, R151). -/
def chargesFit (s : State) (c L : Nat) (rs : List Region) : Bool :=
  let k := clusterOf L
  decide (tcmCharge rs + pinnedBytes (tcmPins s L) ≤ capT s c L) && decide (spCharge rs + pinnedBytes (spPins s k) ≤ capS s c k)

/-- The placement of a footprint on a core; none where it does not fit (R148, R149). -/
def placeOn (s : State) (c L : Nat) (rs : List Region) : Option (List Pin × Nat) :=
  let k := clusterOf L
  let direct := (s.core L).directBytes
  let sp := (s.die (k / 6)).spMib * 2 ^ 20
  if chargesFit s c L rs then
    placePins (direct - capT s c L) direct (sp - capS s c k) sp (tcmPins s L) (spPins s k) rs
  else none

/-- The footprint of a queued record; unreadable records fit, and meet their fault at dispatch (log entry 11). -/
def queuedFootprint (s : State) (c L : Nat) (va : VAddr) : List Region :=
  match (do let t ← readRec s c va; readList s (s.engineOf L) va t) with
  | .ok rs => rs
  | .error _ => []

/-- fits(e, c) of R148. -/
def fits (s : State) (c L : Nat) (va : VAddr) : Bool := (placeOn s c L (queuedFootprint s c L va)).isSome

/-! ## Deques (R142, R145, R146) -/

/-- Effective priority of an entry (R145). -/
def DqEntry.eff (e : DqEntry) : Nat := min 3 (e.prio.toNat + e.age.toNat / 64)

/-- The entries of a core: deque, position from the bottom, entry. -/
def Core.entries (c : Core) : List (Nat × Nat × DqEntry) :=
  (List.range 4).flatMap fun p => (c.deques.getD p []).zipIdx.map fun (e, i) => (p, i, e)

/-- Whether x comes before y for the owner or a thief (R146). -/
def before (thief : Bool) (x y : Nat × Nat × DqEntry) : Bool :=
  if x.2.2.eff ≠ y.2.2.eff then y.2.2.eff < x.2.2.eff
  else if x.1 ≠ y.1 then y.1 < x.1
  else if thief then y.2.1 < x.2.1 else x.2.1 < y.2.1

def insertBy {α : Type} (lt : α → α → Bool) (x : α) (l : List α) : List α :=
  match l with
  | [] => [x]
  | y :: r => if lt x y then x :: y :: r else y :: insertBy lt x r

/-- The order of R146. -/
def Core.order (c : Core) (thief : Bool) : List (Nat × Nat × DqEntry) :=
  c.entries.foldl (fun l e => insertBy (before thief) e l) []

def Core.dq (c : Core) (p : Nat) : List DqEntry := c.deques.getD p []
def Core.hw (c : Core) (p : Nat) : Nat := c.dqHw.getD p 0
def Core.setDq (c : Core) (p : Nat) (l : List DqEntry) (hw : Nat) : Core :=
  { c with deques := c.deques.setIfInBounds p l, dqHw := c.dqHw.setIfInBounds p hw }

/-- An entry added at the bottom: a push that finds 64 held spills the top 32 (R142). -/
def Core.pushBottom (c : Core) (e : DqEntry) : Core :=
  let p := e.prio.toNat
  c.setDq p (e :: c.dq p) (if c.hw p = 64 then 33 else c.hw p + 1)

/-- An entry added at the top. -/
def Core.pushTop (c : Core) (p : Nat) (e : DqEntry) : Core :=
  c.setDq p (c.dq p ++ [e]) (if c.hw p = (c.dq p).length ∧ c.hw p < 64 then c.hw p + 1 else c.hw p)

/-- A deque without one record's entry. -/
def Core.removeEntry (c : Core) (p : Nat) (r : VAddr) : Core :=
  let l := c.dq p
  match l.findIdx? (·.recAddr == r) with
  | none => c
  | some i => c.setDq p (l.eraseIdx i) (if i < c.hw p then c.hw p - 1 else c.hw p)

/-- Every entry ages by one (R145). -/
def Core.ageAll (c : Core) : Core :=
  { c with deques := c.deques.map fun l => l.map fun e => { e with age := if e.age = 255 then 255 else e.age + 1 } }

/-- The 16 bytes of a spilled entry (R142). -/
def DqEntry.bytes (e : DqEntry) : List Byte :=
  leBytes 8 e.recAddr.toNat ++ leBytes 1 e.prio.toNat ++ leBytes 1 e.age.toNat ++ leBytes 6 0

/-- Address of a deque's spill array (R142). -/
def spillArray (s : State) (L p : Nat) : VAddr :=
  BitVec.ofNat 56 (((s.ctx (s.ctxNum L)).dqBase.extractLsb' 16 40).toNat * 65536 + L * 65536 + p * 16384)

/-- The spilled entries of a deque as its array holds them, topmost first (log entry 12). -/
def Core.spilledDq (c : Core) (p : Nat) : List DqEntry := ((c.dq p).drop (c.hw p)).reverse

/-- Adds the store of one entry at key `k`, where `old` stands: of an entry that has only aged, its AGE; entries that lie together are
stored together. -/
def addEntryPut (acc : List Put) (k : Nat) (old new : List Byte) : List Put :=
  if old = new then acc
  else if old.eraseIdx 9 = new.eraseIdx 9 then acc ++ [{ key := k + 9, bytes := [new.getD 9 0] }]
  else match acc.getLast? with
    | some q => if q.key + q.bytes.length = k then acc.dropLast ++ [{ q with bytes := q.bytes ++ new }] else acc ++ [{ key := k, bytes := new }]
    | none => [{ key := k, bytes := new }]

/-- Brings a deque's spill array up to date: the entries that do not stand there yet are written (R142). -/
def spillDq (s : State) (L p : Nat) : Chk State := do
  let sp := (s.core L).spilledDq p
  if sp.isEmpty then return s
  let ps ← resolveRange s (s.engineOf L) (spillArray s L p) (16 * sp.length) .write
  return applyPuts s none (sp.zipIdx.foldl (init := []) fun acc (e, i) =>
    let k := pieceKey ps (16 * i)
    addEntryPut acc k (s.partBytes k 16) e.bytes)

/-- An entry from its 16 bytes in a spill array. -/
def dqEntryOf (b : List Byte) : DqEntry :=
  { recAddr := BitVec.ofNat 56 (leNat (b.take 8)), prio := BitVec.ofNat 2 (leNat ((b.drop 8).take 1)), age := BitVec.ofNat 8 (leNat ((b.drop 9).take 1)) }

/-- Reads `n` entries of a deque's spill array from the `i`-th. R142 names no cause for a line that reads as poison: it is
poisoned-spill, 0x128 (DESIGN CHOICE, log entry 12). -/
def readSpill (s : State) (L p i n : Nat) : Chk (List Byte) := do
  let (b, pois) ← readVa s (s.engineOf L) (spillArray s L p + BitVec.ofNat 56 (16 * i)) (16 * n)
  need (!pois) 0x128
  return b

/-- The items of n bytes of a list. -/
def itemsOf {α : Type} (k : Nat) (l : List α) (fuel : Nat) : List (List α) :=
  match fuel with
  | 0 => []
  | n + 1 => if l.isEmpty then [] else l.take k :: itemsOf k (l.drop k) n

/-- The refill of a deque whose held entries have fallen to 16 or fewer: up to 32 spilled entries, the lowest first, are read
from its array (R142). -/
def refillDq (s : State) (L p : Nat) : Chk State := do
  let c := s.core L
  let l := c.dq p
  let hw := c.hw p
  let n := min 32 (l.length - hw)
  if 16 < hw ∨ n = 0 then return s
  let s ← spillDq s L p
  let b ← readSpill s L p (l.length - hw - n) n
  return s.modCore L (·.setDq p (l.take hw ++ ((itemsOf 16 b n).reverse.map dqEntryOf) ++ l.drop (hw + n)) (hw + n))

/-- Brings a core's spill area up to date and refills its deques. One whose area cannot be written or read stays as it is, and is
tried again: a push onto it meets the fault (R142; log entry 12). -/
def spillAll (s : State) (L : Nat) : State :=
  [0, 1, 2, 3].foldl (init := s) fun s p =>
    match (do refillDq (← spillDq s L p) L p) with
    | .ok s => s
    | .error _ => s

/-- Entries that a deque holds at most. -/
def dqMax : Nat := 1088

/-- Pushes an entry onto a deque: deque-overflow, or the fault of a refill that is due or of the spill that the push makes (R142). -/
def pushEntry (s : State) (L : Nat) (e : DqEntry) : Chk State := do
  let p := e.prio.toNat
  need (((s.core L).dq p).length < dqMax) 0x106 (e.recAddr.setWidth 64)
  let s ← refillDq s L p
  let spills := decide ((s.core L).hw p = 64)
  let s := s.modCore L (·.pushBottom e)
  if spills then spillDq s L p else return s

/-- Places a checked record (R140). -/
def placeRec (s : State) (c L : Nat) (va : VAddr) (t : TRec) : Chk State :=
  if t.depctr = 0 then do
    let s ← pushEntry s L { recAddr := va, prio := BitVec.ofNat 2 t.prio }
    return setRecState s c va 2
  else .ok (setRecState s c va 1)

/-! ## Launches and failures (R95, R141, R143, R144) -/

/-- The launch that an open record belongs to. -/
def State.launchOf (s : State) (va : VAddr) : Option Nat :=
  (s.launches.find? fun l => l.tasks.any (·.2 == va)).map (·.id)

def State.modLaunch (s : State) (i : Option Nat) (f : Launch → Launch) : State :=
  match i with
  | none => s
  | some i => { s with launches := s.launches.map fun l => if l.id = i then f l else l }

/-- A record that a task pushes or releases belongs to that task's launch, whatever launch held it (R141). -/
def State.openTask (s : State) (i : Option Nat) (idx : Option Nat) (va : VAddr) : State :=
  if (s.launchOf va).isSome && s.launchOf va == i then s
  else
    let s := { s with launches := s.launches.map fun (l : Launch) => { l with tasks := l.tasks.filter (·.2 ≠ va) } }
    s.modLaunch i fun l => { l with tasks := l.tasks ++ [(idx, va)] }

/-- A record of a launch has retired. -/
def State.closeTask (s : State) (va : VAddr) : State :=
  { s with launches := s.launches.map fun l => { l with tasks := l.tasks.filter (·.2 ≠ va) } }

/-- Rank of a failure: its index in the launch's array. R95 and R141 rank no task that has none, one that a task pushed or
released from outside the array: it comes after every indexed one (DESIGN CHOICE, log entry 26). -/
def failRank (l : Launch) (idx : Option Nat) (va : VAddr) : Nat :=
  match idx with
  | some i => i
  | none => ((l.tasks.find? (·.2 == va)).bind (·.1)).getD (2 ^ 32)

/-- Counts one failed task of a launch (R95); a record that another push keeps alive stays open (R139). -/
def State.countFail (s : State) (i : Option Nat) (idx : Option Nat) (va : VAddr) (cause : Cause) : State :=
  s.modLaunch i fun l =>
    let r := failRank l idx va
    { l with
      failed := l.failed + 1
      firstFail := match l.firstFail with
        | none => some (r, cause)
        | some (q, d) => if r < q then some (r, cause) else some (q, d)
      tasks := if cause = 0x102 then l.tasks else l.tasks.filter (·.2 ≠ va) }

/-- The decrements of a record's dependents, in DEP order. A record address has 56 bits: R136 names no field in bits [63:56] of a
DEPn below NDEP, and the model neither checks nor uses them (DESIGN CHOICE, log entry 11). -/
def depsOf (i : Option Nat) (t : TRec) (pfail : Bool) : List Todo :=
  (List.range (min t.ndep 8)).map fun n => .dec i ((t.dep n).setWidth 56) pfail

/-- The cause of a failed check, and its detail address. -/
def stopCause (e : Stop) : Cause := match e with | .trap c _ _ _ => c | _ => 0x100
def stopAddr (e : Stop) : Word := match e with | .trap _ a _ _ => a | _ => 0

/-- A failure that leaves the record and its dependents alone (R139). -/
def leavesRecord (c : Cause) : Bool :=
  c = 0x100 || c = 0x102 || c = 0x124 || (decide (4 ≤ c.toNat / 16) && decide (c.toNat / 16 ≤ 6))

/-- A record fails with STATE 5 (R144). Its dependents are those that its task read at dispatch (R138), or those of the record as it
reads: one that fails because it is poisoned is taken by the bytes that stand in it (DEDUCED, log entry 11). -/
def failRec (s : State) (c L : Nat) (i : Option Nat) (va : VAddr) (cause : Cause) (raw : Option (List Byte)) : State × List Todo :=
  match raw.or ((recPieces s c va .atomic).toOption.map (readPieces s)) with
  | none => (s.countFail i none va cause, [])
  | some b =>
    let s := ((setRecState s c va 5).countFail i none va cause).coreEvent L 7 (detail2 va.toNat cause.toNat)
    (s, depsOf i { raw := b } true)

/-- A record that a task of its own launch releases before the launch has pushed it is pushed no more: it joins the launch's
tasks under its index (R95, R144; log entry 26). -/
def State.claim (s : State) (i : Option Nat) (va : VAddr) : State :=
  s.modLaunch i fun l =>
    match l.unread.find? (·.2 == va) with
    | some (j, _) => { l with unread := l.unread.filter (·.2 != va), tasks := l.tasks ++ [(some j, va)] }
    | none => l

/-- The release of a record whose counter has reached 0, by a task of launch `i` on target core L (R143, step 4). -/
def releaseRec (s : State) (c L : Nat) (i : Option Nat) (va : VAddr) : Chk (State × List Todo) :=
  match checkRec s c (s.engineOf L) va true with
  | .error e =>
    let cause := stopCause e
    let s := if cause = 0x102 then s else s.openTask i none va
    .ok (if leavesRecord cause then (s.countFail i none va cause, []) else (s, [.fail i va cause none]))
  | .ok t => do return (← placeRec (s.openTask i none va) c L va t, [])

/-- One decrement (R143 step 4, R144), with the release of its dependent on target core L. An atomic at the counter's home, it
waits while a reservation covers the record (R241); the push of a release may overflow its deque or meet a fault (R142). -/
def decRec (s : State) (c L : Nat) (i : Option Nat) (va : VAddr) (pfail : Bool) : Chk (State × List Todo) :=
  match readRec s c va with
  | .error e => .ok ((s.openTask i none va).countFail i none va (stopCause e), [])
  | .ok t =>
    if recHeld s c va then wait .retire
    else
      let s := if pfail then setPfail s c va else s
      if t.depctr = 0 then .ok (s.countFail i none 0xFFFFFFFFFFFFFF 0x10A, [])
      else
        let s := match resolve s (noCore c) (va + 56) .atomic with
          | .ok l => s.homeWrite none l.key (leBytes 4 (t.depctr - 1))
          | .error _ => s
        if t.depctr ≠ 1 then .ok (s, [])
        else
          let s := s.claim i va
          if t.pfail || pfail then .ok (s.openTask i none va, [.fail i va 0x109 none]) else releaseRec s c L i va

/-- One item of the work after a retirement or a failure. -/
def doTodo (s : State) (c L : Nat) (x : Todo) : Chk (State × List Todo) :=
  match x with
  | .dec i va p => decRec s c L i va p
  | .fail i va cause raw => .ok (failRec s c L i va cause raw)

/-- Works off a list of decrements and failures: what cannot be done now is done later, and the rest goes on. Each failure or release
closes a record for good, so the list ends. -/
def workOff (s : State) (c L : Nat) (l : List Todo) (fuel : Nat) : State :=
  match fuel, l with
  | 0, _ => s
  | _, [] => s
  | f + 1, x :: r =>
    match doTodo s c L x with
    | .ok (s, more) => workOff s c L (more ++ r) f
    | .error _ => workOff { s with todos := s.todos ++ [(c, L, x)] } c L r f

/-- Steps that suffice for every graph that the part's memory can hold. -/
def todoFuel : Nat := 2 ^ 44

/-- Tries again what failures have left to do. -/
def retryTodos (s : State) : State :=
  s.todos.foldl (fun s (c, L, x) => workOff s c L [x] todoFuel) { s with todos := [] }

/-- Discards a task's uncommitted ring bytes (R203). -/
def discardHolds (s : State) (l : List Hold) : State :=
  match l with
  | [] => s
  | h :: r => discardHolds (discardHold s h) r

/-- The credits of a task that are still on their way (R423): dead when its attempt has ended, and nobody's when the
task has retired. -/
def relabelCredits (s : State) (L : Nat) (r : VAddr) (dead : Bool) : State :=
  { s with msgs := s.msgs.map fun m =>
      match m.body with
      | .credit off k t _ n =>
        if idCore m.src = idCore (s.coreId L 0) ∧ t = some r then { m with body := .credit off k none dead n } else m
      | _ => m }

/-- Tells the modules to whose rings a task has sent credits that they commit, or are discarded (R198, R203; log entry 19). -/
def settleAway (s : State) (L : Nat) (t : Task) (commit : Bool) : State :=
  t.away.foldl (init := s) fun s id =>
    let m : Msg := { id := s.nextId, src := s.coreId L 0, dst := id, ctx := s.ctxNum L, fibre := 0, pc := 0, cycle := s.cycleOf L,
                     body := .settle t.recAddr commit }
    { s with nextId := s.nextId + 1, outMsgs := s.outMsgs ++ [m] }

/-- Removes a task's requests from the mailboxes, and marks those taken as dead: the courier's command that has not issued, and
the copies (R191). -/
def dropRequests (s : State) (L : Nat) (r : VAddr) : State :=
  let s := s.modCore L fun c =>
    { c with mb := c.mb.map fun m => if m.full ∧ m.task = some r then { m with full := false } else m
             courierCmd := c.courierCmd.map fun m => if m.task = some r then { m with dead := true } else m
             courierDead := c.courierDead || c.courierTask == some r }
  s.modCluster (clusterOf L) fun k =>
    { k with copies := k.copies.map fun o => if o.core = L ∧ o.task = some r then { o with dead := true } else o }

/-- What a task leaves when it does not retire: its credits, requests and fibre go. -/
def abandonTask (s : State) (L : Nat) (t : Task) : State :=
  let s := settleAway s L t false
  let s := relabelCredits (dropRequests (discardHolds s t.holds) L t.recAddr) L t.recAddr true
  match t.fibre with
  | none => s
  | some f => endFib s L f

/-- A task of a core that may still restart or fail: its retirement, once begun, runs to its end (R143). -/
def State.live? (s : State) (L : Nat) (r : VAddr) : Option Task := ((s.core L).task? r).filter (·.retiring.isNone)

/-- A running task fails (R144). -/
def failTask (s : State) (L : Nat) (r : VAddr) (cause : Cause) : State :=
  match s.live? L r with
  | none => s
  | some t =>
    let c := s.ctxNum L
    let s := (abandonTask s L t).modCore L (·.dropTask r)
    workOff s c L [.fail t.launch r cause (if t.raw.isEmpty then none else some t.raw)] todoFuel

/-- Restarts a task (R119): it re-enters dispatch at the front of its core, or fails with retry-exhausted. -/
def restartTask (s : State) (L : Nat) (r : VAddr) : State :=
  match s.live? L r with
  | none => s
  | some t =>
    let c := s.ctxNum L
    let n := (match readRec s c r with | .ok t => t | .error _ => { raw := t.raw }).restart + 1
    let s := (setRecRestart s c r n).coreEvent L 6 (detail2 r.toNat n)
    if (s.ctx c).retry.toNat < n then failTask s L r 0x108
    else
      (abandonTask s L t).modCore L fun k => k.setTask
        { t with phase := .restarting, fibre := none, holds := [], pushes := [], pins := [], regions := [], tags := [],
                 ran := false, raw := [], srcs := [], fs := [], away := [], awayHeld := [] }

/-! ## Dispatch (R147, R149) -/

/-- A task waits for the mapping of an address. -/
def setPhase (s : State) (L : Nat) (t : Task) (p : TaskPhase) (addr : Word) : State :=
  s.modCore L (·.setTask { t with phase := p, waitVa := addr.setWidth 56 })

/-- The fault of a dispatch or a footprint fetch: one entry that parks no fibre (R149, R226). -/
def fetchFault (s : State) (c L : Nat) (r : VAddr) (cause : Cause) (addr : Word) : State :=
  s.fqSend c (nofibEntry s c cause true (s.coreId L 0) 0 0 addr (r.setWidth 64) (dieOf L))

/-- The local address of a pin (R149, step 3). -/
def Pin.va (p : Pin) : VAddr := BitVec.ofNat 56 (0xFF * 2 ^ 48 + (if p.scratch then 2 ^ 32 else 0) + p.off)

/-- Step 1 of R149: STATE 3, and the reads of the record, its list and its format-and-scale block, whose values the task uses
(R138). -/
def readTask (s : State) (c L : Nat) (r : VAddr) : Chk (TRec × List Region × List Byte) := do
  let p := { s.engineOf L with src := 3 }
  let rec_ ← readRec s c r
  let rs ← readList s p r rec_
  let fs ← if rec_.fsblk = 0 then pure ([], false) else readVa s p rec_.fsblk 64
  need (!fs.2) 0x124 (r.setWidth 64)
  need (!oversize s c rs) 0x104 (r.setWidth 64)
  return (rec_, rs, fs.1)

/-- Steps 1 to 3 of R149 for a task of core L, first or again. One whose mapping has been repaired may find no room any more: it goes on
waiting for it. -/
def dispatchTask (s : State) (c L : Nat) (t : Task) : State :=
  let s := setRecState s c t.recAddr 3
  match readTask s c L t.recAddr with
  | .error (.trap cause addr _ _) =>
    if cause.toNat / 16 = 16 ∨ cause = 0x124 then failTask s L t.recAddr cause
    else fetchFault (setPhase s L t .dispatching addr) c L t.recAddr cause addr
  | .error _ => s
  | .ok (rec_, rs, fs) =>
    match placeOn s c L rs with
    | none => setPhase s L t .resuming 0
    | some (pins, m) =>
      let regs := (pins.take rec_.nfp).map Pin.va
      let map := (regs.flatMap fun v => leBytes 8 v.toNat) ++ leBytes (8 * (8 - rec_.nfp)) 0
      let s := s.homeWrite none (tcmKey L m) map
      s.modCore L (·.setTask
        { t with phase := .fetching, pins, pinMap := m, regions := regs, raw := rec_.raw
                 srcs := rs.map fun r => (r.src, r.len, r.scratch), fs })

/-- Tasks dispatched that have not started running (R147). -/
def Core.ahead (c : Core) : Nat := (c.tasks.filter fun t => !t.ran && t.phase != .restarting).length

/-- CORE_BAL.AHEAD. -/
def Core.aheadMax (c : Core) : Nat := (c.bal.extractLsb' 8 3).toNat

/-- A run-queue entry is free for a new fibre (R147, R181). -/
def hasEntry (s : State) (L : Nat) : Bool :=
  decide ((s.core L).fibres.length < fibreLimit s L) && (takeEntry s L 0).isSome

/-- The dispatch loop of R147: an entry that does not fit moves to the top of its deque. -/
def pick (s : State) (c L : Nat) (l : List (Nat × Nat × DqEntry)) : State × Option DqEntry :=
  match l with
  | [] => (s, none)
  | (p, _, e) :: r =>
    if fits s c L e.recAddr then (s.modCore L fun k => (k.removeEntry p e.recAddr).ageAll, some e)
    else pick (s.modCore L fun k => (k.removeEntry p e.recAddr).pushTop p e) c L r

/-- The book task of a launch (R166, R425). -/
def State.bookOf (s : State) (i : Option Nat) : Option BookTask :=
  match i.bind fun i => s.launches.find? (·.id == i) with
  | some { owner := .book _ b, .. } => some b
  | _ => none

/-- A dispatch of the record goes on: its footprint fits, or its dispatch fails, with a list that no core could hold any more (R138). -/
def goesOn (s : State) (c L : Nat) (va : VAddr) : Bool := fits s c L va || oversize s c (queuedFootprint s c L va)

/-- A restarted task that fits stands before the entries of its core (R119, R147). -/
def restarted (s : State) (c L : Nat) : Option Task :=
  (s.core L).tasks.find? fun t => t.phase == .restarting && goesOn s c L t.recAddr

/-- A task whose dispatch a MAP resumes (R149). -/
def resumed (s : State) (c L : Nat) : Option Task :=
  (s.core L).tasks.find? fun t => t.phase == .resuming && goesOn s c L t.recAddr

/-- One dispatch opportunity of a core (R147): each dispatch ages the entries that stay (R145); one that goes on has done so. -/
def dispatch (s : State) (c L : Nat) : State :=
  let k := s.core L
  match resumed s c L with
  | some t => dispatchTask s c L { t with phase := .dispatching }
  | none =>
  if k.ahead < k.aheadMax ∧ hasEntry s L then
    match restarted s c L with
    | some t =>
      let t := { t with phase := .dispatching }
      dispatchTask (spillAll (s.modCore L fun k => k.ageAll.setTask t) L) c L t
    | none =>
      match pick s c L (k.order false) with
      | (s, none) => spillAll s L
      | (s, some e) =>
        let i := s.launchOf e.recAddr
        let t : Task := { recAddr := e.recAddr, launch := i, prio := BitVec.ofNat 2 e.eff, phase := .dispatching,
                          book := s.bookOf i }
        dispatchTask ((spillAll s L).modCore L fun k => { k with tasks := k.tasks ++ [t] }) c L t
  else s

/-- The bytes of each region, in list order (R149, step 4): address, bytes and place of each. The engine's writes wait behind a
reservation that covers them (R241). -/
def fetchRegions (s : State) (L : Nat) (rs : List (VAddr × Nat × Bool)) (pins : List Pin) : Chk (State × Bool) :=
  match rs, pins with
  | (va, n, _) :: rs, p :: ps => do
    let (b, pois) ← readVa s { s.engineOf L with src := 3 } va n
    let k := if p.scratch then scratchKey (clusterOf L) p.off else tcmKey L p.off
    if s.heldRange none k n then wait .retire
    let (s, q) ← fetchRegions (s.homeWrite none k b) L rs ps
    return (s, pois || q)
  | _, _ => .ok (s, false)

/-- The fibre of a task (R149, step 5). -/
def taskFibre (s : State) (L : Nat) (t : Task) (rec_ : TRec) (fs : List Byte) : Fibre :=
  let w (i : Nat) : Word := BitVec.ofNat 64 (leNat ((fs.drop (8 * i)).take 8))
  { pc := rec_.entry
    a := #v[rec_.arg 0, rec_.arg 1, rec_.arg 2, rec_.arg 3, t.recAddr.setWidth 64,
            ({ scratch := false, off := t.pinMap, len := 64 : Pin }.va).setWidth 64, BitVec.ofNat 64 rec_.restart, 0]
    prio := t.prio, task := some t.recAddr
    f := #v[w 0, w 1, w 2, w 3], c := #v[w 4, w 5, w 6, w 7]
    since := s.cycleOf L }

/-- The footprint has arrived: the fibre is created (R149, step 5) where the core may have one more (R181), or the poisoned attempt
is restarted, or the fetch waits for its mapping (R226). -/
def fetchFootprint (s : State) (c L : Nat) (t : Task) : State :=
  match fetchRegions s L t.srcs t.pins with
  | .error (.trap cause addr _ _) => fetchFault (setPhase s L t .faulted addr) c L t.recAddr cause addr
  | .error _ => s
  | .ok (s', true) => restartTask s' L t.recAddr
  | .ok (s', false) =>
    if fibreLimit s L ≤ (s.core L).fibres.length then s
    else match takeEntry s' L 0 with
      | none => s
      | some s =>
        let f := (s.core L).newFibre 2 4096
        s.modCore L fun k => (k.setFib f (taskFibre s L t { raw := t.raw } t.fs)).setTask { t with phase := .started, fibre := some f }

/-! ## Retirement (R143) -/

/-- Step 1: each of the task's records commits. -/
def commitHolds (s : State) (l : List Hold) : State :=
  match l with
  | [] => s
  | h :: r => commitHolds (commitHold s h) r

/-- Step 3: one held push, on the retiring core. A full deque makes it wait (R429). -/
def pushHeld (s : State) (c L : Nat) (i : Option Nat) (va : VAddr) : Chk State :=
  match readRec s c va with
  | .error e => .ok ((s.openTask i none va).countFail i none va (stopCause e))
  | .ok t => if recHeld s c va then wait .retire else placeRec (s.openTask i none va) c L va t

/-- A retirement that meets a full deque waits for room (R142, R429). -/
def waitForRoom {α : Type} (r : Chk α) : Chk α :=
  match r with
  | .error (.trap 0x106 _ _ _) => wait .retire
  | r => r

/-- A task's records of slots, and its own record, lie behind no reservation (R241). -/
def retireHeld (s : State) (c : Nat) (t : Task) : Bool :=
  recHeld s c t.recAddr || t.holds.any fun h => ringHeld s none ⟨h.core, h.desc⟩

/-- Steps 1 and 2 of R143, once the task's accesses are visible: its slots commit, and the pushes and decrements are left, those of the
record as the task read it at dispatch (R138). -/
def beginRetire (s : State) (L : Nat) (t : Task) : State :=
  (commitHolds (settleAway s L t true) t.holds).modCore L (·.setTask
    { t with holds := [], away := [], awayHeld := [], retiring := some (depsOf t.launch { raw := t.raw } false) })

/-- The next push, then decrement, of a retirement that has begun (steps 3 and 4 of R143): none is left where it answers none. -/
def retireItem (s : State) (c L : Nat) (t : Task) : Option (Chk State) :=
  match t.pushes, t.retiring with
  | va :: r, _ => some do
    return (← waitForRoom (pushHeld s c L t.launch va)).modCore L (·.setTask { t with pushes := r })
  | [], some (x :: r) => some do
    let (s, more) ← waitForRoom (doTodo s c L x)
    return s.modCore L (·.setTask { t with retiring := some (more ++ r) })
  | [], _ => none

/-- Goes on with a retirement until nothing is left, or until what comes next has to wait or traps. -/
def retireGo (s : State) (c L : Nat) (r : VAddr) (fuel : Nat) : State × Option Stop :=
  match fuel with
  | 0 => (s, none)
  | f + 1 =>
    match ((s.core L).task? r).bind (retireItem s c L) with
    | none => (s, none)
    | some (.ok s) => retireGo s c L r f
    | some (.error e) => (s, some e)

/-- Steps 5 and 6 of R143: the task's pins go with it. -/
def endRetire (s : State) (c L : Nat) (t : Task) : State :=
  setRecState (relabelCredits ((s.modCore L (·.dropTask t.recAddr)).closeTask t.recAddr) L t.recAddr false) c t.recAddr 4

/-- R143 for a task of core L. Once begun, the retirement runs to its end: what has been done stays done where the rest must wait, and
a fault met at the first item left is the fibre's (R142). -/
def retire (s : State) (c L : Nat) (t : Task) : Chk (State × Bool) := do
  if t.retiring.isNone && (!s.portClear L || retireHeld s c t) then wait .retire
  match retireGo (if t.retiring.isNone then beginRetire s L t else s) c L t.recAddr todoFuel with
  | (s', none) => return (endRetire s' c L t, true)
  | (s', some e) => if (s'.core L).task? t.recAddr = some t then .error e else return (s', false)

/-- A task may retire, or go on with its retirement. -/
def mayRetire (s : State) (c L : Nat) (t : Task) : Bool :=
  match t.retiring with
  | none => s.portClear L && !retireHeld s c t
  | some _ => (retireItem s c L t).all (!waits ·)

end Sys2Proof.Machine
end

