-- ==== Sys2Proof/Machine/Ops.lean ====
section
/-! DEFINITION. The issuing fibre's registers, flags and PC; taking a trap and resolving one (spec/11_traps_and_preemption.md
R277–R287), waits (spec/07_core_and_fibres.md R182), and how a meaning ends.
Log entries: 7, 17, 20, 21, 28 (DEDUCED). -/

namespace Sys2Proof.Machine

/-! ## The issuing fibre -/

/-- The issuing core and slot. -/
def State.L (s : State) : Nat := s.cur.core
def State.slot (s : State) : Nat := s.cur.slot

/-- The issuing core's state. -/
def State.here (s : State) : Core := s.core s.L

/-- The issuing fibre's number. -/
def State.fibre (s : State) : Nat := (s.here.inSlot s.slot).getD 0

/-- The issuing fibre. -/
def State.me (s : State) : Fibre := s.here.fib s.fibre

/-- A PC-match handler issues, on the urgent shadow plane (R300). -/
def State.onShadow (s : State) : Bool := s.here.shadow s.slot

/-- A worker slot issues. -/
def State.worker (s : State) : Bool := decide (1 ≤ s.slot) && decide (s.slot ≤ 6)

/-- The issuing fibre changed. -/
def State.modMe (s : State) (g : Fibre → Fibre) : State := s.modCore s.L fun c => c.modFib s.fibre g

/-- The issuing core changed. -/
def State.modHere (s : State) (g : Core → Core) : State := s.modCore s.L g

/-- The context of the issuing core. -/
def State.myCtx (s : State) : Nat := s.ctxNum s.L

/-- The issuing core's identifier with the issuing slot (R7). -/
def State.myId (s : State) : CoreId := s.coreId s.L s.slot

/-- DIE_CYCLE where the fibre runs. -/
def State.now (s : State) : Nat := s.cycleOf s.L

/-! ## Registers (R185, R186) -/

/-- A private register of the plane that issues. -/
def State.getA (s : State) (i : Nat) : Word :=
  if s.onShadow then s.here.shadowA.getD i 0 else s.me.a.getD i 0

/-- A register of class G: 0–7 are a0–a7, 8–39 are s0–s31. -/
def State.getG (s : State) (r : GReg) : Word :=
  if r.val < 8 then s.getA r.val else s.here.s.getD (r.val - 8) 0

/-- A private register written. -/
def State.setA (s : State) (i : Nat) (v : Word) : State :=
  if s.onShadow then s.modHere fun c => { c with shadowA := c.shadowA.setIfInBounds i v }
  else s.modMe fun f => { f with a := f.a.setIfInBounds i v }

/-- A wait in the port keeps the place of the wait that ended before it (R190, R376). -/
def Status.keepsWake : Status → Bool
  | .waiting (.port ..) => true
  | _ => false

/-- The status of the plane that issues. -/
def State.setStatus (s : State) (st : Status) : State :=
  if s.onShadow then
    s.modHere fun c => { c with shadowSt := st, shadowSince := s.now, shadowWake := if st.keepsWake then c.shadowWake else none }
  else s.modMe fun f => { f with status := st, since := s.now, wake := if st.keepsWake then f.wake else none }

/-- The wait that has just ended of the plane that issues. -/
def State.wake (s : State) : Option Wait := if s.onShadow then s.here.shadowWake else s.me.wake

/-- The issuing plane issues again no earlier than the cycle after its writeback, `lat` cycles from now (R178, R348). -/
def State.settle (s : State) (lat : Nat) : State :=
  if s.onShadow then s.modHere fun c => { c with shadowDue := s.now + lat + 1 } else s.modMe fun f => { f with due := s.now + lat + 1 }

/-- A shared register bound for its writeback cycle (R186): the fibre is not ready until then (R178). -/
def State.setS (s : State) (lat : Nat) (r : Fin 32) (v : Word) : State :=
  (s.modHere fun c => { c with
    wb := c.wb ++ [{ due := s.now + lat, slot := s.slot, fibre := s.fibre, shadow := s.onShadow, reg := r, value := v }] }).setStatus .writeback

/-- The destination of an instruction with writeback latency `lat` (R348): a private register, which only its own plane
reads, takes its value at once. -/
def State.setG (s : State) (lat : Nat) (r : GReg) (v : Word) : State :=
  if r.val < 8 then (s.setA r.val v).settle lat
  else if h : r.val - 8 < 32 then (s.setS lat ⟨r.val - 8, h⟩ v).settle lat
  else s

/-- The flags word of the plane that issues (R180). -/
def State.getFlags (s : State) : Word := if s.onShadow then s.here.shadowFl else s.me.flags

/-- The flags word written; its reserved bits read 0. -/
def State.setFlags (s : State) (v : Word) : State :=
  if s.onShadow then s.modHere fun c => { c with shadowFl := v &&& flagsMask }
  else s.modMe fun f => { f with flags := v &&& flagsMask }

/-- The PC of the plane that issues. -/
def State.getPc (s : State) : VAddr := if s.onShadow then s.here.shadowPc else s.me.pc

/-- The PC written. -/
def State.setPc (s : State) (pc : VAddr) : State :=
  if s.onShadow then s.modHere fun c => { c with shadowPc := pc } else s.modMe fun f => { f with pc := pc }

/-- The address of the next chain (R312). -/
def State.nextPc (s : State) : VAddr := s.cur.pc + BitVec.ofNat 56 s.cur.len

/-- The instruction completes and the fibre goes on at an address; a task attempt counts it (R309). -/
def State.goto (s : State) (pc : VAddr) : State :=
  if s.onShadow then s.modHere fun c => { c with shadowPc := pc, shadowNoBreak := false, shadowWake := none }
  else s.modMe fun f => { f with pc := pc, icount := f.icount + 1, counted := false, noMatch := false, noBreak := false, wake := none }

/-- A branch: the PC takes effect in its writeback cycle (R348). -/
def State.jump (s : State) (pc : VAddr) : State := (s.goto pc).settle 1

/-- The fibre goes on at its next chain. -/
def State.advance (s : State) : State := s.goto s.nextPc

/-- Whether the fibre's registers may be written at once: a private destination (R182). -/
def privateDest (d : Option GReg) : Bool :=
  match d with | some r => decide (r.val < 8) | none => true

/-! ## Leaving a slot (R182) -/

/-- The issuing fibre waits; a worker leaves its slot unless it is to stay. -/
def State.park (s : State) (w : Wait) (leave : Bool) : State :=
  let s := s.setStatus (.waiting w)
  if leave && s.worker then s.modHere fun c => (c.freeSlot s.fibre).modFib s.fibre fun f => { f with quantum := 0 } else s

/-- The reason code of a wait (R281, R288). -/
def Wait.reason : Wait → Cause
  | .access | .reservation _ | .port .. => 0x15A
  | _ => 0x15B

/-- Waits that leave the fibre in its slot, not ready (R256, R386, R412). -/
def Wait.stays : Wait → Bool
  | .table _ _ | .engine _ _ | .running | .stepBoundary | .port .. | .paused _ => true
  | _ => false

/-- The reason that the issuing fibre shows (R281). -/
def State.setReason (s : State) (c : Cause) : State := if s.onShadow then s else s.modMe fun f => { f with reason := c }

/-- The issuing plane's outstanding access. -/
def State.setPend (s : State) (p : Pending) : State :=
  if s.onShadow then s.modHere fun c => { c with shadowPend := some p } else s.modMe fun f => { f with pend := some p }

/-- A wait that a meaning ends in: the instruction is executed again when it ends (R182). -/
def State.waitFor (s : State) (w : Wait) : State := (s.setReason w.reason).park w (!w.stays)

/-! ## Taking a trap (R277–R283, R287) -/

/-- A cause that a task fibre does not deliver (R279): poison met at a load, fetch or atomic, and an engine hang. -/
def restarts (c : Cause) : Bool :=
  c = 0x120 || c = 0x121 || c = 0x122 || (c.toNat / 16 == 17 && c.toNat % 2 == 1)

/-- Where a trap of a fibre goes (R282, R287). -/
def deliveryOf (s : State) (L f : Nat) (c : Cause) : Delivery :=
  let x := s.ctx (s.ctxNum L)
  if x.stopped || x.stopping then .held
  else if f < 2 ∨ c.toNat / 16 = 23 ∨ x.deleg.getLsbD (c.toNat / 16) then .host
  else .urgent

/-- DIE_CYCLE in which the trapping instruction of a parked fibre issued. -/
def Core.trapTime (c : Core) (f : Nat) : Nat := match (c.fib f).trap with | some t => t.issued | none => 0

/-- A fibre joins the pending-trap queue, in the order in which the trapping instructions issued (R283). A new head has none of the
values that CORE_TREG holds for the old one. -/
def Core.queueTrap (c : Core) (f : Nat) : Core :=
  let q := insertBy (fun a b => decide (c.trapTime a < c.trapTime b)) f c.trapQ
  { c with trapQ := q, treg := if q.head? = c.trapQ.head? then c.treg else Vector.replicate 9 none }

/-- Sends a parked fibre's trap on its way (R102, R283). -/
def deliver (s : State) (L f : Nat) (t : TrapInfo) : State :=
  match t.delivery with
  | .held => s
  | .urgent => (s.trace L t.slot.toNat 5 t.pc t.cause.toNat).modCore L fun c => c.queueTrap f
  | .host => (s.trace L t.slot.toNat 5 t.pc t.cause.toNat).fqSend (s.ctxNum L) (trapEntry s L f t ((s.core L).fib f).task)

/-- Parks a fibre of core L with its trap (R277). On the shadow plane the main plane's state stays (R301). -/
def parkTrap (s : State) (L f : Nat) (shadow : Bool) (t : TrapInfo) : State :=
  s.modCore L fun c =>
    if shadow then { c with shadowSt := .parked, shadowTrap := some t }
    else (if 2 ≤ f then c.freeSlot f else c).modFib f fun x =>
      { x with status := .parked, trap := some t, pend := none, wake := none, quantum := 0, reason := t.cause, since := s.cycleOf L }

/-- Taking a trap, the one operation: fibre `f` of the core of `i` traps at the chain of `i`, on its shadow plane or not.
Its registers, flags, PC and bindings stand as after its previous instruction. -/
def trapFibre (s : State) (f : Nat) (shadow : Bool) (i : Issue) (cause : Cause) (addr aux : Word) (eng fetch : Bool) :
    State :=
  let L := i.core
  match (if restarts cause then ((s.core L).fib f).task else none) with
  | some r => restartTask s L r
  | none =>
    let t : TrapInfo :=
      { cause, eng, addr, aux, pc := i.pc, slot := BitVec.ofNat 3 i.slot, word := i.word, npfx := i.npfx, len := i.len,
        fetch, cycle := s.cycleOf L, issued := i.time, delivery := deliveryOf s L f cause }
    deliver (parkTrap s L f shadow t) L f t

/-- The fibre in the slot of `i` traps at the chain of `i`. -/
def takeTrap (s : State) (i : Issue) (cause : Cause) (addr aux : Word) (eng fetch : Bool) : State :=
  trapFibre s (((s.core i.core).inSlot i.slot).getD 0) ((s.core i.core).shadow i.slot) i cause addr aux eng fetch

/-- How a meaning ends: with its effect, a trap, a wait, a watchpoint, or a stop of the machine. -/
def finish (s : State) (r : Chk State) : Host.Outcome State Fault Refusal :=
  match r with
  | .ok s' => .next s'
  | .error (.trap c addr aux eng) => .next (takeTrap s s.cur c addr aux eng false)
  | .error (.wait w) => .next (s.waitFor w)
  | .error (.watch g st) =>
    if h : s.L < 6144 ∧ s.slot < 8 then .next (s.raise (.clusterWatchpoint ⟨s.L, h.1⟩ ⟨s.slot, h.2⟩ g st)) else .next s
  | .error (.fault e) => .fault e

/-! ## Resolving a trap (R284, R301, R442) -/

/-- Where SKIP resumes. -/
def TrapInfo.skipPc (t : TrapInfo) : VAddr :=
  if t.fetch then t.addr.setWidth 56 + 2
  else if t.cause.toNat / 16 ≤ 1 then
    t.pc + BitVec.ofNat 56 (2 * (t.npfx.toNat + 1))
  else t.pc + BitVec.ofNat 56 t.len

/-- Starts the PC-match handler of a fibre held in a slot on the shadow plane (R300). -/
def startHandler (s : State) (L f : Nat) (i : Fin 16) (slot : Nat) : State :=
  s.modCore L fun c =>
    { c with
      handler := some f, shadowPc := ((c.pmhnd.getD i.val 0).extractLsb' 0 56) &&& ~~~1#56, shadowSt := .ready, shadowTrap := none
      pmsrc := BitVec.ofNat 64 (i.val + slot * 16 + f * 256) }

/-- The return of a PC-match handler (R300, R441): slot 0 returns to its main plane, the matched fibre becomes ready
and meets no match, and the next held fibre's handler starts (R301). -/
def endHandler (s : State) (L : Nat) : State :=
  let s := s.modCore L fun c =>
    let c := { c with handler := none, shadowTrap := none, shadowSt := .ready }
    match (s.core L).handler with
    | none => c
    | some f => if (c.fib f).status = .matched then c.modFib f fun x => { x with status := .ready, noMatch := true } else c
  match (s.core L).matchQ with
  | [] => s
  | (f, i, slot) :: r => startHandler (s.modCore L fun c => { c with matchQ := r }) L f i slot

/-- Takes a resolved trap out of the queues it stands in. -/
def withdraw (s : State) (L f : Nat) : State :=
  let s := s.modCore L fun c =>
    { c with trapQ := c.trapQ.filter (· ≠ f)
             treg := if c.trapQ.head? = some f then Vector.replicate 9 none else c.treg }
  s.modCtx (s.ctxNum L) fun x =>
    { x with fqHeld := x.fqHeld.filter fun e => e.nofib || !(idCore e.core == idCore (s.coreId L 0) && e.fibre == f) }

/-- A parked fibre becomes ready at a PC; the default courier stands at its command again (R193). -/
def unpark (s : State) (L f : Nat) (pc : VAddr) (noBreak : Bool) : State :=
  s.modCore L fun c => c.modFib f fun x =>
    { x with status := if f = 1 && c.defaultCourier then .waiting (.mailboxFull 0) else .ready
             trap := none, pc, noMatch := false, noBreak, since := s.cycleOf L }

/-- The values of CORE_TREG in a fibre (R283). -/
def useTreg (s : State) (L f : Nat) (tr : Vector (Option Word) 9) : State :=
  s.modCore L fun c => c.modFib f fun x =>
    { x with a := x.a.zipWith (fun v o => o.getD v) (tr.take 8 |>.cast (by decide))
             flags := (tr.getD 8 none).getD x.flags &&& flagsMask }

/-- The action on the trap of a fibre of core L (R284); `treg`: it comes from the urgent handler. -/
def resolveTrap (s : State) (L f : Nat) (act : Nat) (treg : Bool) : State :=
  let c := s.core L
  let shadow := f == 0 && c.shadowTrap.isSome
  match (if shadow then c.shadowTrap else (c.fib f).trap) with
  | none => s
  | some t =>
    let s0 := s
    let s := withdraw s L f
    let noBreak := act = 0 && (t.cause = 0x140 || t.cause = 0x141 || t.cause = 0x142)
    if act < 2 then
      let pc := if act = 0 then t.pc else t.skipPc
      if shadow then s.modCore L fun c => { c with shadowTrap := none, shadowSt := .ready, shadowPc := pc, shadowNoBreak := noBreak }
      else
        let s := unpark s L f pc noBreak
        let s := if f = 1 ∧ act = 1 then s.modCore L fun c => { c with courierCmd := none } else s
        keepSpilled s0 (if act = 1 ∧ treg then useTreg s L f c.treg else s) L f
    else if shadow then endHandler s L
    else match (c.fib f).task with
      | some r =>
        if (s.live? L r).isNone then unpark s L f t.pc noBreak
        else if act = 2 then restartTask s L r else failTask s L r (if t.hcall then 0x16F else t.cause)
      | none => if f = 0 then idleUrgent s L else if f = 1 then restartCourier s L else endFib s L f

/-! ## The trap return (R189, R441) -/

/-- TRET's effect: PC and flags from CORE_UEPC and CORE_UEFL, IE set, idle as at delivery. -/
def trapReturn (s : State) : State :=
  let c := s.here
  s.setCore s.L ({ c with uctl := c.uctl ||| 1, idle := c.idle || c.uepc.getLsbD 56 }.modFib 0 fun x =>
    { x with pc := (c.uepc.extractLsb' 0 56) &&& ~~~1#56, flags := c.uefl &&& flagsMask, status := .ready })

/-! ## Loads and stores (R361–R365) -/

/-- Size code of the alignment grid (R280). -/
def sizeCode (n : Nat) : Nat := if n = 2 then 0 else if n = 4 then 1 else if n = 8 then 2 else 3

/-- The alignment check: kind 0 load, 1 store, 2 atomic. -/
def aligned (va : VAddr) (size kind : Nat) : Chk Unit :=
  need (va.toNat % size = 0) (causeN (0x030 + 4 * kind + sizeCode size)) (va.setWidth 64)

/-- The issuing plane meets no breakpoint or watchpoint at its next instruction (R303). -/
def State.broken (s : State) : Bool := if s.onShadow then s.here.shadowNoBreak else s.me.noBreak

/-- A watchpoint of the cluster watches the granule for loads (bit 56 of its register) or stores (bit 57, R303). -/
def watched (s : State) (va : VAddr) (bit : Nat) : Bool :=
  !s.broken && (s.cluster (clusterOf s.L)).wp.toList.any fun w =>
    w.extractLsb' 3 53 == va.extractLsb' 3 53 && w.getLsbD bit

/-- Ends the instruction at a matching watchpoint, after every check has passed. An atomic counts as both. -/
def watchCheck (s : State) (va : VAddr) (load store : Bool) : Chk Unit :=
  if load && watched s va 56 then .error (.watch (va.extractLsb' 3 53) false)
  else if store && watched s va 57 then .error (.watch (va.extractLsb' 3 53) true)
  else .ok ()

/-- The same for an access of `n` bytes: at the lowest granule of it that a watchpoint watches. -/
def watchRange (s : State) (va : VAddr) (n : Nat) (load store : Bool) : Chk Unit :=
  ((List.range ((va.toNat % 8 + n + 7) / 8)).map fun i => va + BitVec.ofNat 56 (8 * i)).forM fun a => watchCheck s a load store

/-! ## The memory port (R232, R237) -/

/-- The orders of a MOD prefix (R321). -/
def acq (m : MMod) : Bool := m.order.val % 2 == 1
def rel (m : MMod) : Bool := decide (2 ≤ m.order.val)

/-- The port lets an access of the issuing core go, or holds it until the earlier reads or writes that it is ordered after
are done (log entry 7). -/
def portGo (s : State) (rd wr : Bool) (n : Nat) : Chk Unit :=
  if s.portHolds s.L rd wr n then wait (.port rd wr n) else .ok ()

/-- No granule of memory. -/
def noGran : Nat := 2 ^ 64

/-- A read without a location, such as a wait's: it follows FENCE kinds LL and SL, and with acquire order every earlier access. -/
def readAny (s : State) (a : Bool) : Chk Unit :=
  let f := s.here.fence
  portGo s (f.getLsbD 0 || a || s.acquiresOpen s.L) (f.getLsbD 2 || a) noGran

/-- The core that counts messages to a location (R292). -/
def Loc.target (l : Loc) : Option Nat :=
  match l.home with
  | .tcm L => some L
  | .scratch k => some (clusterCore k 0)
  | _ => none

/-- A message of the core that writes is on its way to a location's target. -/
def State.messageTo (s : State) (l : Loc) : Bool :=
  s.msgs.any fun m => m.body.writes && s.localCore m.src == some s.L && l.target.any fun T => s.localCore m.dst == some T

/-- An engine instruction in flight will credit or pop a ring whose descriptor or slot-state array meets a range (R386). -/
def State.opRings (s : State) (k n : Nat) : Bool :=
  (s.here.vec.toList ++ s.here.mat.toList).any fun o => (o.pops ++ (o.credit.map (·.desc)).toList ++ o.poison.map (·.1)).any fun d =>
    let r : Ring := ⟨s.L, d⟩
    let arr := tcmKey s.L (ringStoff s r * 32)
    decide (r.key < k + n ∧ k < r.key + 64) || decide (arr < k + n ∧ k < arr + 32 * ringSlots s r)

/-- A write of the core to a location is on its way as a message, as an addition at its home, or as a credit or pop of an engine
instruction: a read of it is not forwarded but waits (R232, R234). -/
def State.unforwarded (s : State) (l : Loc) (size : Nat) : Bool := s.addWaits s.L l.key size || s.messageTo l || s.opRings l.key size

/-- The port lets a read of a location go, once the core's own atomics on it are bound and nothing is left that it would have to
forward and cannot (R232). -/
def forwardGo (s : State) (l : Loc) (size : Nat) : Chk Unit :=
  portGo s (s.atomicWaits s.L l.key size) (s.unforwarded l size) noGran

/-- A read at a location. -/
def readGo (s : State) (l : Loc) (size : Nat) (a : Bool) : Chk Unit := do
  readAny s a
  forwardGo s l size

/-- A read of resolved pieces. -/
def piecesGo (s : State) (ps : List (Loc × Nat)) (a : Bool) : Chk Unit := do
  readAny s a
  ps.forM fun (l, m) => forwardGo s l m

/-- The core's own writes to a ring's descriptor and slot-state array are applied before an operation on it reads them (R200, R232). -/
def ringHome (s : State) (r : Ring) : Chk Unit :=
  portGo s false (s.ownWaits s.L r.key 64 || s.ownWaits s.L (tcmKey r.core (ringStoff s r * 32)) (32 * ringSlots s r)) noGran

/-- A write to a granule, after every earlier read and atomic; with release order, after every earlier access. -/
def writeGo (s : State) (n : Nat) (r : Bool) : Chk Unit := portGo s true (s.here.fence.getLsbD 3 || r) n

/-- A store at a location: in the core's own local store it comes behind the core's messages to itself (R232, R247). -/
def storeGo (s : State) (l : Loc) (r : Bool) : Chk Unit := do
  writeGo s (granule l.key) r
  portGo s false (l.isLocal s.L && s.messageTo l) noGran

/-- Binds an access that lies outside local store, with its result (R182): a worker leaves its slot where its
destination is private; the fibre resumes at the next chain when the access completes. -/
def State.bindAway (s : State) (dst : Option GReg) (v : Word) (load : Bool := false) (va : VAddr := 0) : State :=
  ((s.setPend { dst, value := v, pc := s.cur.pc, va, load }).advance.setReason 0x15A).park .access (privateDest dst)

/-- Writeback latency of a local load (R187). -/
def loadLat : Nat := 3

/-- Completes a read of a location: local ones at once, others when the access completes (R363). -/
def State.bind (s : State) (l : Loc) (va : VAddr) (dst : GReg) (v : Word) (load : Bool := false) : State :=
  if l.isLocal s.L then (s.setG loadLat dst v).advance else s.bindAway (some dst) v load va

end Sys2Proof.Machine
end

