-- ==== Sys2Proof/Machine/Flags.lean ====
section
/-! DEFINITION. The condition flags (spec/15_isa_scalar.md R346, R353) and the sticky flags (spec/07_core_and_fibres.md
R180). -/

namespace Sys2Proof.Machine

/-- Z, N, C and V. -/
structure Cond where
  z : Bool
  n : Bool
  c : Bool
  v : Bool
deriving DecidableEq, Repr

/-- A result with the flags of its class. -/
structure Flagged where
  r : Word
  f : Cond
deriving DecidableEq, Repr

/-- Class A (R346): x + y + k, or x − y − k, with carry or borrow and signed overflow. -/
def flagsA (x y : Word) (k sub : Bool) : Flagged :=
  let u : Int := if sub then x.toNat - y.toNat - k.toNat else x.toNat + y.toNat + k.toNat
  let s : Int := if sub then x.toInt - y.toInt - k.toNat else x.toInt + y.toInt + k.toNat
  let r := BitVec.ofInt 64 u
  { r, f := { z := r == 0, n := r.msb, c := decide (u < 0 ∨ 2 ^ 64 ≤ u), v := decide (s < -2 ^ 63 ∨ 2 ^ 63 ≤ s) } }

/-- Class L (R346). -/
def flagsL (r : Word) : Flagged := { r, f := { z := r == 0, n := r.msb, c := false, v := false } }

/-- The flags as bits [3:0] of the flags word (R180). -/
def Cond.bits (f : Cond) : BitVec 4 := BitVec.ofBool f.v ++ BitVec.ofBool f.c ++ BitVec.ofBool f.n ++ BitVec.ofBool f.z

/-- The condition flags of a flags word. -/
def condOf (w : Word) : Cond := { z := w.getLsbD 0, n := w.getLsbD 1, c := w.getLsbD 2, v := w.getLsbD 3 }

/-- The issuing fibre's condition flags. -/
def State.cond (s : State) : Cond := condOf s.getFlags

/-- The four condition flags written; the sticky flags stay (R346). -/
def State.setCond (s : State) (f : Cond) : State := s.setFlags ((s.getFlags &&& ~~~0xF#64) ||| f.bits.setWidth 64)

/-- The tests of B.cc (R353). -/
def Cond.test (f : Cond) (cc : Fin 8) : Bool :=
  match cc with
  | 0 => f.z
  | 1 => !f.z
  | 2 => f.n != f.v
  | 3 => f.n == f.v
  | 4 => f.c
  | 5 => !f.c
  | 6 => f.n
  | 7 => true

/-- The sticky flags SAT, OVF and NV that an operation sets (R180). -/
structure Sticky where
  sat : Bool := false
  ovf : Bool := false
  nv  : Bool := false
deriving DecidableEq, Repr

def Sticky.or (a b : Sticky) : Sticky := { sat := a.sat || b.sat, ovf := a.ovf || b.ovf, nv := a.nv || b.nv }

/-- The sticky flags in their places of the flags word. -/
def Sticky.bits (a : Sticky) : Word :=
  (BitVec.ofBool a.nv ++ BitVec.ofBool a.ovf ++ BitVec.ofBool a.sat ++ 0#8).setWidth 64

/-- Sets sticky flags; none is cleared. -/
def State.stick (s : State) (a : Sticky) : State := s.setFlags (s.getFlags ||| a.bits)

end Sys2Proof.Machine
end

