-- ==== Sys2Proof/Machine/Operands.lean ====
section
/-! DEFINITION. Operands: the two sources of RR and RI forms (spec/13_isa_formats.md R320), effective addresses
(spec/16_isa_memory_sync.md R360), branch targets (spec/15_isa_scalar.md R357) and results.
Log entries: 16, 21 (DEDUCED). -/

namespace Sys2Proof

open Machine

/-! ## Sources (R320) -/

/-- src1 and src2 of an RR form. -/
def OpRR.x (o : OpRR) (s : State) : Word := match o.t with | none => s.getG o.d | some _ => s.getG o.s
def OpRR.y (o : OpRR) (s : State) : Word := match o.t with | none => s.getG o.s | some t => s.getG t

/-- The source of a single-operand RF form (R355). -/
def OpRF.x (o : OpRF) (s : State) : Word := match o.t with | none => s.getG o.d | some t => s.getG t

/-- src1 and the immediate of an RI form (R351). -/
def OpRI.x (o : OpRI) (s : State) : Word := match o.t with | none => s.getG o.d | some t => s.getG t
def OpRI.y (o : OpRI) : Word := o.imm.signExtend 64

/-! ## Addresses -/

/-- The sum of LEA (R356). -/
def OpLea.sum (o : OpLea) (s : State) : Word :=
  s.getG o.b + o.disp.signExtend 64 + (match o.t with | none => 0 | some t => s.getG t)

/-- The effective address of a load or store of `size` bytes (R360). -/
def OpMem.ea (o : OpMem) (size : Nat) (s : State) : VAddr :=
  (s.getG o.b + o.disp.signExtend 64 * BitVec.ofNat 64 size + (match o.t with | none => 0 | some t => s.getG t)).setWidth 56

/-- The register n places above r, of a group of `n + 1` consecutive registers; none beyond s31. -/
def GReg.plus (r : GReg) (n : Nat) : Option GReg := if h : r.val + n < 40 then some ⟨r.val + n, h⟩ else none

end Sys2Proof

namespace Sys2Proof.Machine

/-- The address in a register: bits [55:0] (R360). -/
def State.addrG (s : State) (r : GReg) : VAddr := (s.getG r).setWidth 56

/-- A target relative to the chain, from an offset in 2-byte units (R317, R357). -/
def State.relTarget (s : State) {w : Nat} (off : BitVec w) : VAddr := s.cur.pc + off.signExtend 56 * 2

/-- A register target traps when it is odd (R357). -/
def checkTarget (t : VAddr) : Chk Unit := need (t.toNat % 2 = 0) 0x03C (t.setWidth 64)

/-! ## Results -/

/-- Writes the destination and goes on. -/
def State.result (s : State) (lat : Nat) (d : GReg) (v : Word) : State := (s.setG lat d v).advance

/-- Writes the destination and the condition flags, and goes on (R346). -/
def State.flagged (s : State) (d : GReg) (x : Flagged) : State := ((s.setCond x.f).setG 1 d x.r).advance

/-- Writes the condition flags only, and goes on. -/
def State.compared (s : State) (x : Flagged) : State := ((s.setCond x.f).settle 1).advance

end Sys2Proof.Machine
end

