-- ==== Sys2Proof/Machine/Alu.lean ====
section
/-! DEFINITION. Scalar arithmetic, logic, moves and bit fields (spec/15_isa_scalar.md R349–R356). A destination has its
writeback latency from R348. -/

namespace Sys2Proof.Machine

/-! ## RR forms (R349, R350) -/

/-- A result without flags. -/
def rr (o : OpRR) (s : State) (lat : Nat) (r : Word) : Host.Outcome State Fault Refusal := .next (s.result lat o.d r)

/-- A result with flags. -/
def rrF (o : OpRR) (s : State) (r : Flagged) : Host.Outcome State Fault Refusal := .next (s.flagged o.d r)

/-- The shift or rotate count: bits [5:0]. -/
def count6 (y : Word) : Nat := (y.extractLsb' 0 6).toNat

/-- Division of R350: truncated quotient and the remainder with the sign of x. -/
def divS (x y : Word) : Word := if y = 0 then BitVec.allOnes 64 else BitVec.ofInt 64 (x.toInt.tdiv y.toInt)
def remS (x y : Word) : Word := if y = 0 then x else BitVec.ofInt 64 (x.toInt.tmod y.toInt)
def divU (x y : Word) : Word := if y = 0 then BitVec.allOnes 64 else BitVec.ofNat 64 (x.toNat / y.toNat)
def remU (x y : Word) : Word := if y = 0 then x else BitVec.ofNat 64 (x.toNat % y.toNat)

/-- Upper halves of products (R349). -/
def mulHi (x y : Word) : Word := BitVec.ofInt 64 (x.toInt * y.toInt / 2 ^ 64)
def mulHiU (x y : Word) : Word := BitVec.ofNat 64 (x.toNat * y.toNat / 2 ^ 64)

def execAdd (o : OpRR) (s : State) : Host.Outcome State Fault Refusal := rrF o s (flagsA (o.x s) (o.y s) false false)
def execSub (o : OpRR) (s : State) : Host.Outcome State Fault Refusal := rrF o s (flagsA (o.x s) (o.y s) false true)
def execAnd (o : OpRR) (s : State) : Host.Outcome State Fault Refusal := rrF o s (flagsL (o.x s &&& o.y s))
def execOr (o : OpRR) (s : State) : Host.Outcome State Fault Refusal := rrF o s (flagsL (o.x s ||| o.y s))
def execXor (o : OpRR) (s : State) : Host.Outcome State Fault Refusal := rrF o s (flagsL (o.x s ^^^ o.y s))
def execShl (o : OpRR) (s : State) : Host.Outcome State Fault Refusal := rr o s 1 (o.x s <<< count6 (o.y s))
def execShr (o : OpRR) (s : State) : Host.Outcome State Fault Refusal := rr o s 1 (o.x s >>> count6 (o.y s))
def execSar (o : OpRR) (s : State) : Host.Outcome State Fault Refusal :=
  rr o s 1 (BitVec.ofInt 64 ((o.x s).toInt / 2 ^ count6 (o.y s)))
def execAddc (o : OpRR) (s : State) : Host.Outcome State Fault Refusal :=
  rrF o s (flagsA (o.x s) (o.y s) s.cond.c false)
def execSubc (o : OpRR) (s : State) : Host.Outcome State Fault Refusal :=
  rrF o s (flagsA (o.x s) (o.y s) s.cond.c true)
def execMul (o : OpRR) (s : State) : Host.Outcome State Fault Refusal := rr o s 3 (o.x s * o.y s)
def execMulh (o : OpRR) (s : State) : Host.Outcome State Fault Refusal := rr o s 3 (mulHi (o.x s) (o.y s))
def execMulhu (o : OpRR) (s : State) : Host.Outcome State Fault Refusal := rr o s 3 (mulHiU (o.x s) (o.y s))
def execDiv (o : OpRR) (s : State) : Host.Outcome State Fault Refusal := rr o s 6 (divS (o.x s) (o.y s))
def execDivu (o : OpRR) (s : State) : Host.Outcome State Fault Refusal := rr o s 6 (divU (o.x s) (o.y s))
def execRem (o : OpRR) (s : State) : Host.Outcome State Fault Refusal := rr o s 6 (remS (o.x s) (o.y s))
def execRemu (o : OpRR) (s : State) : Host.Outcome State Fault Refusal := rr o s 6 (remU (o.x s) (o.y s))
def execMin (o : OpRR) (s : State) : Host.Outcome State Fault Refusal :=
  rr o s 1 (if (o.y s).slt (o.x s) then o.y s else o.x s)
def execMax (o : OpRR) (s : State) : Host.Outcome State Fault Refusal :=
  rr o s 1 (if (o.x s).slt (o.y s) then o.y s else o.x s)
def execMinu (o : OpRR) (s : State) : Host.Outcome State Fault Refusal :=
  rr o s 1 (if (o.y s).ult (o.x s) then o.y s else o.x s)
def execMaxu (o : OpRR) (s : State) : Host.Outcome State Fault Refusal :=
  rr o s 1 (if (o.x s).ult (o.y s) then o.y s else o.x s)
def execRol (o : OpRR) (s : State) : Host.Outcome State Fault Refusal := rr o s 1 ((o.x s).rotateLeft (count6 (o.y s)))
def execRor (o : OpRR) (s : State) : Host.Outcome State Fault Refusal := rr o s 1 ((o.x s).rotateRight (count6 (o.y s)))
def execAndn (o : OpRR) (s : State) : Host.Outcome State Fault Refusal := rrF o s (flagsL (o.x s &&& ~~~o.y s))

/-! ## Comparisons and bit fields (R352, R354) -/

def execCmp (o : OpRR) (s : State) : Host.Outcome State Fault Refusal :=
  .next (s.compared (flagsA (o.x s) (o.y s) false true))
def execTst (o : OpRR) (s : State) : Host.Outcome State Fault Refusal := .next (s.compared (flagsL (o.x s &&& o.y s)))

/-- Position and width of a bit field (R354). -/
def fieldPos (y : Word) : Nat := (y.extractLsb' 0 6).toNat
def fieldLen (y : Word) : Nat := min (y.extractLsb' 8 7).toNat (64 - fieldPos y)

/-- The field of x that y names, zero- or sign-extended. -/
def fieldU (x y : Word) : Word := (x >>> fieldPos y) &&& BitVec.ofNat 64 (2 ^ fieldLen y - 1)
def fieldS (x y : Word) : Word :=
  if fieldLen y = 0 then 0 else (fieldU x y <<< (64 - fieldLen y)).sshiftRight (64 - fieldLen y)

/-- r with the low bits of v in the field that y names. -/
def fieldIns (r v y : Word) : Word :=
  let m : Word := BitVec.ofNat 64 (2 ^ fieldLen y - 1)
  (r &&& ~~~(m <<< fieldPos y)) ||| ((v &&& m) <<< fieldPos y)

def execBfx (o : OpRR) (s : State) : Host.Outcome State Fault Refusal := rr o s 1 (fieldS (o.x s) (o.y s))
def execBfxu (o : OpRR) (s : State) : Host.Outcome State Fault Refusal := rr o s 1 (fieldU (o.x s) (o.y s))
def execBfi (o : OpRR3) (s : State) : Host.Outcome State Fault Refusal :=
  .next (s.result 1 o.d (fieldIns (s.getG o.d) (s.getG o.s) (s.getG o.t)))
def execSelz (o : OpRR) (s : State) : Host.Outcome State Fault Refusal := rr o s 1 (if s.cond.z then o.y s else o.x s)
def execSeln (o : OpRR) (s : State) : Host.Outcome State Fault Refusal := rr o s 1 (if s.cond.n then o.y s else o.x s)
def execSelc (o : OpRR) (s : State) : Host.Outcome State Fault Refusal := rr o s 1 (if s.cond.c then o.y s else o.x s)

/-! ## Single-operand forms (R355) -/

/-- A result without flags. -/
def rf (o : OpRF) (s : State) (r : Word) : Host.Outcome State Fault Refusal := .next (s.result 1 o.d r)

/-- A result with flags. -/
def rfF (o : OpRF) (s : State) (r : Flagged) : Host.Outcome State Fault Refusal := .next (s.flagged o.d r)

/-- Zero bits above the highest set bit of the low n bits. -/
def clzFrom (x : Word) (n : Nat) : Nat :=
  match n with
  | 0 => 0
  | k + 1 => if x.getLsbD k then 0 else 1 + clzFrom x k

/-- Zero bits from bit i upward. -/
def ctzFrom (x : Word) (i n : Nat) : Nat :=
  match n with
  | 0 => 0
  | k + 1 => if x.getLsbD i then 0 else 1 + ctzFrom x (i + 1) k

/-- Set bits among the low n. -/
def popFrom (x : Word) (n : Nat) : Nat :=
  match n with
  | 0 => 0
  | k + 1 => (x.getLsbD k).toNat + popFrom x k

/-- The word whose bytes are in the other order. -/
def byteSwap (x : Word) : Word :=
  x.extractLsb' 0 8 ++ x.extractLsb' 8 8 ++ x.extractLsb' 16 8 ++ x.extractLsb' 24 8
    ++ x.extractLsb' 32 8 ++ x.extractLsb' 40 8 ++ x.extractLsb' 48 8 ++ x.extractLsb' 56 8

def execMov (o : OpRF) (s : State) : Host.Outcome State Fault Refusal := rf o s (o.x s)
def execNeg (o : OpRF) (s : State) : Host.Outcome State Fault Refusal := rfF o s (flagsA 0 (o.x s) false true)
def execNot (o : OpRF) (s : State) : Host.Outcome State Fault Refusal := rfF o s (flagsL (~~~o.x s))
def execClz (o : OpRF) (s : State) : Host.Outcome State Fault Refusal := rf o s (BitVec.ofNat 64 (clzFrom (o.x s) 64))
def execCtz (o : OpRF) (s : State) : Host.Outcome State Fault Refusal := rf o s (BitVec.ofNat 64 (ctzFrom (o.x s) 0 64))
def execPopc (o : OpRF) (s : State) : Host.Outcome State Fault Refusal := rf o s (BitVec.ofNat 64 (popFrom (o.x s) 64))
def execBrev (o : OpRF) (s : State) : Host.Outcome State Fault Refusal := rf o s (o.x s).reverse
def execBswap (o : OpRF) (s : State) : Host.Outcome State Fault Refusal := rf o s (byteSwap (o.x s))
def execSextb (o : OpRF) (s : State) : Host.Outcome State Fault Refusal := rf o s (((o.x s).setWidth 8).signExtend 64)
def execSexth (o : OpRF) (s : State) : Host.Outcome State Fault Refusal := rf o s (((o.x s).setWidth 16).signExtend 64)
def execSextw (o : OpRF) (s : State) : Host.Outcome State Fault Refusal := rf o s (((o.x s).setWidth 32).signExtend 64)
def execZextb (o : OpRF) (s : State) : Host.Outcome State Fault Refusal := rf o s (((o.x s).setWidth 8).setWidth 64)
def execZexth (o : OpRF) (s : State) : Host.Outcome State Fault Refusal := rf o s (((o.x s).setWidth 16).setWidth 64)
def execZextw (o : OpRF) (s : State) : Host.Outcome State Fault Refusal := rf o s (((o.x s).setWidth 32).setWidth 64)

/-! ## Immediates (R351) and addresses (R356) -/

def execAddi (o : OpRI) (s : State) : Host.Outcome State Fault Refusal :=
  .next (s.flagged o.d (flagsA (o.x s) o.y false false))
def execLi (o : OpLI) (s : State) : Host.Outcome State Fault Refusal := .next (s.result 1 o.d (o.imm.signExtend 64))
def execCmpi (o : OpRI) (s : State) : Host.Outcome State Fault Refusal :=
  .next (s.compared (flagsA (o.x s) o.y false true))
def execAndi (o : OpRI) (s : State) : Host.Outcome State Fault Refusal := .next (s.flagged o.d (flagsL (o.x s &&& o.y)))
def execOri (o : OpRI) (s : State) : Host.Outcome State Fault Refusal := .next (s.flagged o.d (flagsL (o.x s ||| o.y)))
def execXori (o : OpRI) (s : State) : Host.Outcome State Fault Refusal := .next (s.flagged o.d (flagsL (o.x s ^^^ o.y)))
def execLea (o : OpLea) (s : State) : Host.Outcome State Fault Refusal := .next (s.result 1 o.d (o.sum s))
def execMovpc (o : OpD) (s : State) : Host.Outcome State Fault Refusal :=
  .next (s.result 1 o.d (s.cur.pc.setWidth 64))

end Sys2Proof.Machine
end

