-- ==== Sys2Proof/Machine/Numbers.lean ====
section
/-! DEFINITION. Number formats and deterministic arithmetic (spec/10_numbers.md R251–R275). A finite value is an exact
signed dyadic number; every result is rounded once, where the manual says. -/

namespace Sys2Proof.Machine

/-! ## Values -/

/-- A value: ±m × 2^e, an infinity, or a NaN by its FP32 pattern (R264). -/
inductive Val where
  | fin (neg : Bool) (m : Nat) (e : Int)
  | inf (neg : Bool)
  | nan (x : BitVec 32)
deriving DecidableEq, Repr

def Val.isNan : Val → Bool | .nan _ => true | _ => false
def Val.isInf : Val → Bool | .inf _ => true | _ => false
def Val.isZero : Val → Bool | .fin _ m _ => m == 0 | _ => false
def Val.neg? : Val → Bool | .fin s _ _ => s | .inf s => s | .nan x => x.msb

/-- ±m with its sign. -/
def sgn (neg : Bool) (m : Nat) : Int := if neg then -(m : Int) else m

/-- n × 2^e for an integer n; `zneg` is the sign of a zero. -/
def ofDyadic (n : Int) (e : Int) (zneg : Bool) : Val := .fin (if n = 0 then zneg else decide (n < 0)) n.natAbs e

/-- m × 2^e as an integer at exponent `u` ≤ e. -/
def atExp (m : Nat) (e u : Int) : Nat := m * 2 ^ (e - u).toNat

/-- Comparison of two finite values: −1, 0 or 1, zeros equal. -/
def cmpFin (s1 : Bool) (m1 : Nat) (e1 : Int) (s2 : Bool) (m2 : Nat) (e2 : Int) : Ordering :=
  let u := min e1 e2
  compare (sgn s1 (atExp m1 e1 u)) (sgn s2 (atExp m2 e2 u))

/-- The order of two values that are no NaN. -/
def Val.cmp : Val → Val → Ordering
  | .fin s m e, .fin t n f => cmpFin s m e t n f
  | .inf s, .inf t => if s = t then .eq else if s then .lt else .gt
  | .inf s, _ => if s then .lt else .gt
  | _, .inf t => if t then .gt else .lt
  | _, _ => .eq

/-- floor(log2) of a positive finite value. -/
def flog2 (m : Nat) (e : Int) : Int := (Nat.log2 m : Int) + e

/-- m × 2^(−s) to the nearest integer, ties to even, for a natural m. -/
def rneShift (m s : Nat) : Nat :=
  let q := m / 2 ^ s
  let r := m % 2 ^ s
  if 2 * r < 2 ^ s ∨ s = 0 then q else if 2 ^ s < 2 * r then q + 1 else q + q % 2

/-- The integer nearest ±m × 2^e, ties to even. -/
def rneInt (neg : Bool) (m : Nat) (e : Int) : Int :=
  sgn neg (if 0 ≤ e then m * 2 ^ e.toNat else rneShift m (-e).toNat)

/-- floor(n × 2^e). -/
def floorShift (n e : Int) : Int := if 0 ≤ e then n * 2 ^ e.toNat else n / 2 ^ (-e).toNat

/-! ## Element formats (R251, R252) -/

inductive Fmt where
  | fp32 | bf16 | fp16 | t8 (tbl : Bool) | e2m3 | e3m2 | e2m1 | e8m0 | int8 | int32 | bsi24
deriving DecidableEq, Repr

/-- A format code with its TBL bit; none for a reserved code, or TBL 1 elsewhere than T8. -/
def fmtOf (code : Nat) (tbl : Bool) : Option Fmt :=
  match code, tbl with
  | 0x00, false => some .fp32 | 0x01, false => some .bf16 | 0x02, false => some .fp16 | 0x03, t => some (.t8 t)
  | 0x04, false => some .e2m3 | 0x05, false => some .e3m2 | 0x06, false => some .e2m1 | 0x07, false => some .e8m0
  | 0x08, false => some .int8 | 0x09, false => some .int32 | 0x0A, false => some .bsi24
  | _, _ => none

/-- Bits of an element; BSI24 is counted per block elsewhere. -/
def Fmt.bits : Fmt → Nat
  | .fp32 | .int32 => 32 | .bf16 | .fp16 => 16 | .t8 _ | .e8m0 | .int8 => 8 | .e2m3 | .e3m2 => 6 | .e2m1 => 4
  | .bsi24 => 25

/-- A regular floating format: fraction width, bias, the largest finite magnitude code, sign bit, and whether the
codes above it are infinity and NaNs. -/
structure Flt where
  w    : Nat
  bias : Int
  top  : Nat
  sign : Nat
  spec : Bool
deriving DecidableEq, Repr

def Fmt.flt : Fmt → Option Flt
  | .fp32 => some ⟨23, 127, 0x7F7FFFFF, 31, true⟩
  | .bf16 => some ⟨7, 127, 0x7F7F, 15, true⟩
  | .fp16 => some ⟨10, 15, 0x7BFF, 15, true⟩
  | .e2m3 => some ⟨3, 1, 0x1F, 5, false⟩
  | .e3m2 => some ⟨2, 3, 0x1F, 5, false⟩
  | .e2m1 => some ⟨1, 1, 0x7, 3, false⟩
  | _ => none

/-- Decodes a magnitude code of a floating format (R252). -/
def Flt.mag (f : Flt) (c : Nat) : Nat × Int :=
  let e := c / 2 ^ f.w
  let x := c % 2 ^ f.w
  if e = 0 then (x, 1 - f.bias - f.w) else (2 ^ f.w + x, e - f.bias - f.w)

/-- A NaN of FP32, BF16 or FP16 as an FP32 pattern (R260). -/
def nanTo32 (F : Fmt) (c : Nat) : BitVec 32 :=
  match F with
  | .bf16 => BitVec.ofNat 32 (c * 2 ^ 16)
  | .fp16 => BitVec.ofNat 32 (c / 2 ^ 15 % 2 * 2 ^ 31 + 0x7F800000 + c % 2 ^ 10 * 2 ^ 13)
  | _ => BitVec.ofNat 32 c

/-- Decodes a floating code. -/
def Flt.decode (f : Flt) (F : Fmt) (c : Nat) : Val :=
  let neg := c / 2 ^ f.sign % 2 == 1
  let k := c % 2 ^ f.sign
  if k ≤ f.top then .fin neg (f.mag k).1 (f.mag k).2
  else if k = f.top + 1 then .inf neg
  else .nan (nanTo32 F c)

/-! ## Decode tables (R255) -/

/-- An E8M10 entry is of one of the four classes. -/
def entryOk (x : BitVec 19) : Bool :=
  let e := (x.extractLsb' 10 8).toNat
  let f := (x.extractLsb' 0 10).toNat
  (e == 0 && f == 0) || (decide (103 ≤ e) && decide (e ≤ 143)) || e == 255

/-- The E8M10 number of a finite dyadic of at most 11 significant bits. -/
def e8m10 (neg : Bool) (m : Nat) (e : Int) : BitVec 19 :=
  if m = 0 then BitVec.ofNat 19 (neg.toNat * 2 ^ 18)
  else
    let k := Nat.log2 m
    BitVec.ofNat 19 (neg.toNat * 2 ^ 18 + (127 + e + k).toNat * 2 ^ 10 + (m * 2 ^ (10 - k)) % 2 ^ 10)

/-- Reset contents of table 0: the E4M3 codes; of table 1: the E5M2 codes. -/
def resetEntry (t : Bool) (c : Nat) : BitVec 19 :=
  let neg := c / 128 % 2 == 1
  let k := c % 128
  let special (f : Nat) : BitVec 19 := BitVec.ofNat 19 (neg.toNat * 2 ^ 18 + 255 * 2 ^ 10 + f)
  if t then
    if k = 0x7C then special 0 else if 0x7C < k then special 0x200
    else let v := (⟨2, 15, 0x7B, 7, true⟩ : Flt).mag k; e8m10 neg v.1 v.2
  else
    if k = 0x7F then special 0x200
    else let v := (⟨3, 7, 0x7E, 7, true⟩ : Flt).mag k; e8m10 neg v.1 v.2

/-- Entry c of a core's table (R255). -/
def Core.entry (k : Core) (t : Bool) (c : Nat) : BitVec 19 := spGet (if t then k.dtab1 else k.dtab0) c (resetEntry t c)

/-- A decode table: its 256 entries by code. -/
abbrev Table := List (BitVec 19)

def Core.table (k : Core) (t : Bool) : Table := (List.range 256).map (k.entry t)

/-- The value of an entry of code c; finite magnitudes are multiples of 2^−34. -/
def entryVal (c : Nat) (x : BitVec 19) : Val :=
  let neg := x.msb
  let e := (x.extractLsb' 10 8).toNat
  let f := (x.extractLsb' 0 10).toNat
  if e = 255 then
    if f = 0 then .inf neg
    else .nan (BitVec.ofNat 32 (neg.toNat * 2 ^ 31 + 0x7FC00000 + c * 2 ^ 5 + 2 ^ 4))
  else if e = 0 then .fin neg 0 0
  else .fin neg (2 ^ 10 + f) (e - 137)

/-! ## Decoding an element -/

/-- The value of an element code (R252, R264). E8M0 codes are scales; code 0xFF is the NaN of R260. -/
def decodeElt (k : Core) (F : Fmt) (c : Nat) : Val :=
  match F with
  | .t8 t => entryVal c (k.entry t c)
  | .e8m0 => if c = 255 then .nan 0x7FC00002 else .fin false 1 (c - 127)
  | .int8 => ofDyadic (BitVec.ofNat 8 c).toInt 0 false
  | .int32 => ofDyadic (BitVec.ofNat 32 c).toInt 0 false
  | .bsi24 => .fin false 0 0
  | F => match F.flt with | some f => f.decode F c | none => .fin false 0 0

/-! ## Encoding (R257–R260) -/

/-- A conversion's rounding: the mode, SAT, and the draw of mode 2. -/
structure Rnd where
  mode : Nat := 0
  sat  : Bool := false
  d    : BitVec 32 := 0
deriving DecidableEq, Repr

/-- Rounds a magnitude k + rem / 2^s to k or k + 1 in sign `neg` (R258). -/
def roundUp (r : Rnd) (neg : Bool) (k rem s : Nat) : Bool :=
  if rem = 0 then false
  else if r.mode = 0 then decide (2 ^ s < 2 * rem) || (2 * rem == 2 ^ s && k % 2 == 1)
  else if r.mode = 1 then false
  else if neg then decide (r.d.toNat * 2 ^ s < rem * 2 ^ 32)
  else decide (2 ^ 32 * 2 ^ s ≤ rem * 2 ^ 32 + r.d.toNat * 2 ^ s)

/-- A magnitude m × 2^e in units of 2^u: quotient, remainder and its width. -/
def units (m : Nat) (e u : Int) : Nat × Nat × Nat :=
  if u ≤ e then (m * 2 ^ (e - u).toNat, 0, 0)
  else let s := (u - e).toNat; (m / 2 ^ s, m % 2 ^ s, s)

/-- Overflow in a floating format (R259). -/
def Flt.overflow (f : Flt) (neg : Bool) (r : Rnd) : Nat × Sticky :=
  let s := neg.toNat * 2 ^ f.sign
  if r.sat then (s + f.top, { sat := true })
  else if !f.spec then (s + f.top, { ovf := true })
  else if r.mode = 1 then (s + f.top, {})
  else (s + f.top + 1, {})

/-- Encodes a finite value into a floating format (R258). -/
def Flt.encode (f : Flt) (r : Rnd) (neg : Bool) (m : Nat) (e : Int) : Nat × Sticky :=
  let s := neg.toNat * 2 ^ f.sign
  if m = 0 then (s, {})
  else
    let E := max (flog2 m e) (1 - f.bias)
    let (k, rem, w) := units m e (E - f.w)
    let c := ((E + f.bias - 1) * 2 ^ f.w).toNat + k
    if f.top < c then f.overflow neg r
    else
      let c := if roundUp r neg k rem w then c + 1 else c
      if f.top < c then f.overflow neg r else (s + c, {})

/-- Encodes a finite value into a two's-complement integer format (R258, R259). -/
def encodeInt (bits : Nat) (r : Rnd) (neg : Bool) (m : Nat) (e : Int) : Nat × Sticky :=
  let top := if neg then 2 ^ (bits - 1) else 2 ^ (bits - 1) - 1
  let beyond : Nat × Sticky := ((BitVec.ofInt bits (sgn neg top)).toNat, if r.sat then { sat := true } else { ovf := true })
  let (k, rem, w) := units m e 0
  if top < k then beyond
  else
    let k := if roundUp r neg k rem w then k + 1 else k
    if top < k then beyond else ((BitVec.ofInt bits (sgn neg k)).toNat, {})

/-- A member of a T8 value list: its value in units of 2^−34, its code, its significand; `ext` for X+ and X−. -/
structure Member where
  v    : Int
  neg  : Bool
  code : Nat
  sig  : Nat
  ext  : Bool := false
deriving DecidableEq, Repr

/-- The finite and zero entries of a table, one member per value, with its lowest code (R257). -/
def members (t : Table) : List Member :=
  t.zipIdx.foldl (init := []) fun l (x, c) =>
    match entryVal c x with
    | .fin s m e =>
      let v := sgn s (m * 2 ^ (e + 34).toNat)
      if l.any (fun y => y.v == v && y.neg == s) then l else l ++ [{ v, neg := s, code := c, sig := m }]
    | _ => l

/-- The order of the value list: −0 immediately below +0. -/
def Member.below (a b : Member) : Bool := decide (a.v < b.v) || (a.v == b.v && a.neg && !b.neg)

def maxMember (l : List Member) : Option Member :=
  l.foldl (fun b a => match b with | none => some a | some y => if y.below a then some a else some y) none
def minMember (l : List Member) : Option Member :=
  l.foldl (fun b a => match b with | none => some a | some y => if a.below y then some a else some y) none

/-- Trailing zero bits of a significand; zero counts as more than any. -/
def trailing (n fuel : Nat) : Nat :=
  match fuel with
  | 0 => 0
  | f + 1 => if n % 2 = 1 then 0 else 1 + trailing (n / 2) f

/-- The codes of a table whose entry is of a class. -/
def codesOf (t : Table) (p : Val → Bool) : List Nat := (t.zipIdx.filter fun (x, c) => p (entryVal c x)).map (·.2)

/-- The T8 code for a NaN of a sign (R260): the highest of that sign, or the highest of all; with none, the lowest +0
code, or the lowest code of least finite magnitude, with OVF. -/
def t8Nan (t : Table) (neg : Bool) : Nat × Sticky :=
  match (codesOf t fun v => v.isNan && v.neg? == neg).getLast? with
  | some c => (c, {})
  | none => match (codesOf t Val.isNan).getLast? with
    | some c => (c, {})
    | none => match (codesOf t fun v => v.isZero && !v.neg?).head? with
      | some c => (c, { ovf := true })
      | none =>
        match (members t).foldl (fun b a => match b with
            | none => some a
            | some y => if a.v.natAbs < y.v.natAbs ∨ (a.v.natAbs = y.v.natAbs ∧ a.code < y.code) then some a else some y)
            (none : Option Member) with
        | some y => (y.code, { ovf := true })
        | none => ((Config.noCode neg).toNat, { ovf := true })

/-- Overflow into a T8 table on one side (R259). -/
def t8Overflow (t : Table) (neg : Bool) (r : Rnd) : Nat × Sticky :=
  let l := members t
  let inf := (codesOf t fun v => v.isInf && v.neg? == neg).head?
  let hasNan := !(codesOf t Val.isNan).isEmpty
  match (if neg then minMember l else maxMember l) with
  | none =>
    match inf with
    | some c => (c, { ovf := true })
    | none => ((t8Nan t neg).1, { ovf := true })
  | some m =>
    if r.sat then (m.code, { sat := true })
    else match inf with
      | some c => if r.mode = 1 then (m.code, {}) else (c, {})
      | none =>
        if hasNan then (if r.mode = 1 then (m.code, {}) else ((t8Nan t neg).1, { nv := true }))
        else (m.code, { ovf := true })

/-- The extended values X+ and X− (R257), as members. -/
def extension (l : List Member) (up : Bool) : Option Member :=
  match (if up then maxMember l else minMember l) with
  | none => none
  | some m =>
    match (if up then maxMember (l.filter (·.below m)) else minMember (l.filter fun y => m.below y)) with
    | none => none
    | some p => if p.v = m.v then none else some { v := 2 * m.v - p.v, neg := m.neg, code := 0, sig := m.sig, ext := true }

/-- The nearer of two members on a tie (R258). -/
def tieT8 (lo hi : Member) : Member :=
  if hi.ext then (if hi.sig % 2 = 1 then hi else lo)
  else if lo.ext then (if lo.sig % 2 = 1 then lo else hi)
  else
    let tz (m : Member) : Nat := if m.sig = 0 then 99 else trailing m.sig 16
    if tz lo > tz hi then lo else if tz hi > tz lo then hi else if lo.code < hi.code then lo else hi

/-- Encodes a finite value into a T8 table (R258). -/
def t8Encode (t : Table) (r : Rnd) (neg : Bool) (m : Nat) (e : Int) : Nat × Sticky :=
  let l := members t
  let zero (s : Bool) : Option Member := l.find? fun y => y.v == 0 && y.neg == s
  let zeroCode : Option Nat := ((zero neg).orElse fun _ => zero (!neg)).map (·.code)
  if l.isEmpty then t8Overflow t neg r
  else match (if m = 0 then zeroCode else none) with
  | some c => (c, {})
  | none =>
    -- the value and the members at a common scale
    let sh := (-(e + 34)).toNat
    let V := sgn neg (m * 2 ^ (e + 34 + sh).toNat)
    let all := (l ++ (extension l true).toList ++ (extension l false).toList).map fun y => { y with v := y.v * 2 ^ sh }
    match maxMember (all.filter fun y => decide (y.v ≤ V)), minMember (all.filter fun y => decide (V ≤ y.v)) with
    | none, _ => t8Overflow t true r
    | _, none => t8Overflow t false r
    | some lo, some hi =>
      let pick : Member :=
        if lo.v = hi.v then lo
        else if r.mode = 0 then
          if V - lo.v < hi.v - V then lo else if hi.v - V < V - lo.v then hi else tieT8 lo hi
        else if r.mode = 1 then
          if lo.v.natAbs < hi.v.natAbs then lo else if hi.v.natAbs < lo.v.natAbs then hi
          else if neg then lo else hi
        else if (hi.v - lo.v) * 2 ^ 32 ≤ (V - lo.v) * 2 ^ 32 + r.d.toNat * (hi.v - lo.v) then hi else lo
      if pick.ext then t8Overflow t (match minMember l with | some y => decide (pick.v < y.v * 2 ^ sh) | none => neg) r
      else if pick.v = 0 then (zeroCode.getD pick.code, {})
      else (pick.code, {})

/-- An FP32 NaN converted to a format (R260). -/
def encodeNan (k : Core) (F : Fmt) (x : BitVec 32) : Nat × Sticky :=
  let s := x.msb.toNat
  match F with
  | .fp32 => (x.toNat, {})
  | .bf16 => (x.toNat / 2 ^ 16 ||| (if x.extractLsb' 16 7 = 0 then 2 ^ 6 else 0), {})
  | .fp16 => (s * 2 ^ 15 + 0x7C00 + (x.extractLsb' 13 10).toNat + (if x.extractLsb' 13 10 = 0 then 2 ^ 9 else 0), {})
  | .t8 t =>
    let c := (x.extractLsb' 5 8).toNat
    if x.getLsbD 4 ∧ (entryVal c (k.entry t c)).isNan then (c, {}) else t8Nan (k.table t) x.msb
  | .e8m0 => (255, {})
  | _ => (0, { ovf := true })

/-- The scale code of the power of two at or below a magnitude (R261): no instruction encodes into E8M0. -/
def e8m0Code (m : Nat) (e : Int) : Nat := if m = 0 then 0 else (max 0 (min 254 ((Nat.log2 m : Int) + e + 127))).toNat

/-- Encodes or converts a value into a format (R258–R260). -/
def encodeVal (k : Core) (F : Fmt) (r : Rnd) (v : Val) : Nat × Sticky :=
  match v with
  | .nan x => encodeNan k F x
  | .inf neg =>
    match F with
    | .t8 t =>
      match (codesOf (k.table t) fun v => v.isInf && v.neg? == neg).head? with
      | some c => (c, {})
      | none => t8Overflow (k.table t) neg r
    | .int8 => encodeInt 8 r neg (2 ^ 40) 0
    | .int32 => encodeInt 32 r neg (2 ^ 40) 0
    | F => match F.flt with
      | some f => if f.spec then (neg.toNat * 2 ^ f.sign + f.top + 1, {}) else f.overflow neg r
      | none => (0, {})
  | .fin neg m e =>
    match F with
    | .t8 t => t8Encode (k.table t) r neg m e
    | .int8 => encodeInt 8 r neg m e
    | .int32 => encodeInt 32 r neg m e
    | .e8m0 => (e8m0Code m e, {})
    | F => match F.flt with | some f => f.encode r neg m e | none => (0, {})

/-- An FP32 pattern's value, and a value rounded to FP32 to nearest even (R271). -/
def of32 (x : BitVec 32) : Val := (⟨23, 127, 0x7F7FFFFF, 31, true⟩ : Flt).decode .fp32 x.toNat
def to32 (v : Val) : BitVec 32 :=
  match v with
  | .nan x => x
  | .inf neg => if neg then 0xFF800000 else 0x7F800000
  | .fin neg m e => BitVec.ofNat 32 ((⟨23, 127, 0x7F7FFFFF, 31, true⟩ : Flt).encode {} neg m e).1

/-! ## Floating arithmetic (R265) -/

/-- A generated NaN: an invalid operation. -/
def genNan (x : BitVec 32) : Val × Sticky := (.nan x, { nv := true })

/-- A NaN operand, quieted. -/
def quiet (x : BitVec 32) : Val × Sticky := (.nan (x ||| 0x00400000), {})

/-- The exact sum. -/
def Val.add (a b : Val) : Val × Sticky :=
  match a, b with
  | .nan x, _ => quiet x
  | _, .nan y => quiet y
  | .inf s, .inf t => if s = t then (.inf s, {}) else genNan 0x7FC00003
  | .inf s, _ => (.inf s, {})
  | _, .inf t => (.inf t, {})
  | .fin s m e, .fin t n f =>
    let u := min e f
    (ofDyadic (sgn s (atExp m e u) + sgn t (atExp n f u)) u (s && t && m == 0 && n == 0), {})

/-- The value with its sign turned; a NaN's sign bit turns too. -/
def Val.negate : Val → Val
  | .fin s m e => .fin (!s) m e
  | .inf s => .inf (!s)
  | .nan x => .nan (x ^^^ 0x80000000)

/-- The exact product. -/
def Val.mul (a b : Val) : Val × Sticky :=
  match a, b with
  | .nan x, _ => quiet x
  | _, .nan y => quiet y
  | .inf s, v => if v.isZero then genNan 0x7FC00004 else (.inf (s != v.neg?), {})
  | v, .inf t => if v.isZero then genNan 0x7FC00004 else (.inf (v.neg? != t), {})
  | .fin s m e, .fin t n f => (.fin (s != t) (m * n) (e + f), {})

/-- a × b + c with one rounding to come; the leftmost NaN operand wins. -/
def Val.fma (a b c : Val) : Val × Sticky :=
  match a, b, c with
  | .nan x, _, _ => quiet x
  | _, .nan y, _ => quiet y
  | _, _, .nan z => quiet z
  | a, b, c =>
    match a.mul b with
    | (.nan x, f) => (.nan x, f)
    | (p, _) => p.add c

/-- fadd32 (R53, R265). -/
def fadd32 (a b : BitVec 32) : BitVec 32 × Sticky :=
  let (v, f) := (of32 a).add (of32 b)
  (to32 v, f)

/-! ## The Kweash generator (R262) -/

def kweashRound (c k s : BitVec 64) (rots : List Nat) : BitVec 64 :=
  match rots with
  | [] => c
  | n :: r =>
    let c := (c ^^^ k) * 0x8F3C5B27E1A49D6B
    let c := c ^^^ (c >>> 31)
    kweashRound (c.rotateLeft n) (k.rotateLeft 19 + s) s r

def kweash (tid : BitVec 64) (step row col : BitVec 32) : BitVec 32 :=
  let s : BitVec 64 := step ++ (step ^^^ 0x5A17C3E9)
  let c := kweashRound (row ++ col) tid s [17, 29, 43, 11, 37, 23]
  c.extractLsb' 32 32 ^^^ c.extractLsb' 0 32

/-! ## Wide accumulator cells (R266–R270) -/

/-- A NaN contributed. -/
def Cell.nanin (c : Cell) (x : BitVec 32) : Cell := { c with nan := true, nanv := if c.nanv.toNat < x.toNat then x else c.nanv }

def Cell.count (c : Cell) : Cell :=
  let n := min (c.cnt + 1) (2 ^ 24 - 1)
  { c with cnt := n, range := c.range || n == 2 ^ 24 - 1 }

/-- A finite contribution n × 2^e (R268). -/
def Cell.contribute (c : Cell) (anchor n e : Int) : Cell :=
  let k := floorShift n (e - anchor)
  (if 2 ^ 103 ≤ k.natAbs then { c with range := true } else { c with v := c.v + k }).count

/-- A contribution of one FP32 value (R270). -/
def Cell.add32 (c : Cell) (anchor : Int) (x : BitVec 32) : Cell :=
  match of32 x with
  | .nan y => (c.nanin y).count
  | .inf neg => (if neg then { c with ninf := true } else { c with pinf := true }).count
  | .fin neg m e => c.contribute anchor (sgn neg m) e

/-- The value that a readout converts (R269). -/
def Cell.value (c : Cell) (anchor : Int) : Val :=
  if c.nan then .nan c.nanv
  else if c.pinf ∧ c.ninf then .nan 0x7FC00003
  else if c.pinf then .inf false
  else if c.ninf then .inf true
  else if c.range then .nan 0x7FC00006
  else ofDyadic c.v anchor false

/-- A readout into a format (R269): NV where a NaN with a cause is read. -/
def Cell.readout (k : Core) (c : Cell) (anchor : Int) (F : Fmt) (r : Rnd) : Nat × Sticky :=
  let v := c.value anchor
  let (x, f) := encodeVal k F r v
  let nv := match v with | .nan y => y.extractLsb' 0 4 != 0 | _ => false
  (x, { f with nv := f.nv || nv })

/-- A cell in its 32 bytes (R267): anchor and cell; none where a reserved field is not zero. -/
def cellOf (b : List Byte) : Option (Int × Cell) :=
  let at_ (o n : Nat) : Nat := leNat ((b.drop o).take n)
  if at_ 17 1 / 4 ≠ 0 ∨ at_ 21 1 / 16 ≠ 0 ∨ at_ 26 6 ≠ 0 then none
  else
    let f := at_ 21 1
    some ((BitVec.ofNat 10 (at_ 16 2)).toInt,
      { v := (BitVec.ofNat 128 (at_ 0 16)).toInt, cnt := at_ 18 3, pinf := f % 2 == 1, ninf := f / 2 % 2 == 1,
        nan := f / 4 % 2 == 1, range := f / 8 % 2 == 1, nanv := BitVec.ofNat 32 (at_ 22 4) })

/-- The 32 bytes of a cell. -/
def cellBytes (anchor : Int) (c : Cell) : List Byte :=
  leBytes 16 (BitVec.ofInt 128 c.v).toNat ++ leBytes 2 (BitVec.ofInt 10 anchor).toNat ++ leBytes 3 c.cnt
    ++ leBytes 1 (c.pinf.toNat + 2 * c.ninf.toNat + 4 * c.nan.toNat + 8 * c.range.toNat)
    ++ leBytes 4 c.nanv.toNat ++ leBytes 6 0

/-- Tree sum over adjacent pairs, lower leaves left (R53); an absent leaf contributes nothing. -/
def treeSum {α : Type} (op : α → α → α) (l : List (Option α)) (k : Nat) : Option α :=
  match k with
  | 0 => (l.head?).getD none
  | k + 1 =>
    match treeSum op (l.take (2 ^ k)) k, treeSum op (l.drop (2 ^ k)) k with
    | some a, some b => some (op a b)
    | some a, none => some a
    | none, b => b

/-- One block of an output cell (R266): 32 element pairs and their scale codes. -/
def Cell.block (c : Cell) (anchor : Int) (a b : List Val) (sa sb : Nat) : Cell :=
  if sa = 255 ∨ sb = 255 then (c.nanin 0x7FC00002).count
  else
    let step (acc : Cell × List (Option Int)) (p : Val × Val) : Cell × List (Option Int) :=
      let (c, l) := acc
      match p with
      | (.fin s m e, .fin t n f) => (c, l ++ [some (sgn (s != t) (m * n) * 2 ^ (e + f + 68).toNat)])
      | (x, y) =>
        if x.isNan || y.isNan then (c.nanin 0x7FC00001, l ++ [none])
        else if x.isZero || y.isZero then (c.nanin 0x7FC00004, l ++ [none])
        else ((if x.neg? != y.neg? then { c with ninf := true } else { c with pinf := true }), l ++ [none])
    let (c, ps) := (a.zip b).foldl step (c, [])
    c.contribute anchor ((treeSum (· + ·) ps 5).getD 0) ((sa : Int) + sb - 254 - 68)

/-! ## Special functions (R271–R274) -/

/-- ET (R271). -/
def etTab : List Nat :=
  [1073741824, 1085434106, 1097253708, 1109202018, 1121280436, 1133490379, 1145833280, 1158310587]
    ++ [1170923762, 1183674286, 1196563654, 1209593378, 1222764986, 1236080024, 1249540052, 1263146652]
    ++ [1276901417, 1290805962, 1304861917, 1319070932, 1333434672, 1347954824, 1362633090, 1377471191]
    ++ [1392470869, 1407633882, 1422962010, 1438457051, 1454120821, 1469955159, 1485961921, 1502142985]
    ++ [1518500250, 1535035634, 1551751076, 1568648537, 1585730000, 1602997467, 1620452965, 1638098541]
    ++ [1655936265, 1673968228, 1692196547, 1710623359, 1729250827, 1748081133, 1767116489, 1786359126]
    ++ [1805811301, 1825475297, 1845353420, 1865448001, 1885761398, 1906295993, 1927054196, 1948038440]
    ++ [1969251188, 1990694927, 2012372174, 2034285470, 2056437387, 2078830522, 2101467502, 2124350982]

/-- LT (R271). -/
def ltTab : List Nat :=
  [0, 24017256, 47667823, 70962728, 93912511, 116527248, 138816582, 160789745]
    ++ [182455581, 203822568, 224898839, 245692198, 266210141, 286459867, 306448299, 326182095]
    ++ [345667660, 364911162, 383918542, 402695523, 421247625, 439580170, 457698295, 475606957]
    ++ [493310944, 510814882, 528123241, 545240343, 562170370, 578917365, 595485245, 611877800]
    ++ [628098702, 644151509, 660039669, 675766525, 691335320, 706749198, 722011213, 737124328]
    ++ [752091421, 766915285, 781598637, 796144114, 810554283, 824831638, 838978604, 852997541]
    ++ [866890747, 880660455, 894308843, 907838029, 921250079, 934547002, 947730758, 960803257]
    ++ [973766362, 986621888, 999371606, 1012017244, 1024560487, 1037002979, 1049346328, 1061592099]

/-- RT (R271). -/
def rtTab : List Nat :=
  [1073741824, 1057222719, 1041204193, 1025663832, 1010580540, 995934445, 981706811, 967879954]
    ++ [954437177, 941362695, 928641578, 916259690, 904203641, 892460737, 881018933, 869866794]
    ++ [858993459, 848388602, 838042399, 827945503, 818089009, 808464432, 799063683, 789879043]
    ++ [780903145, 772128952, 763549742, 755159085, 746950834, 738919105, 731058263, 723362913]
    ++ [715827883, 708448214, 701219150, 694136129, 687194767, 680390859, 673720360, 667179386]
    ++ [660764199, 654471207, 648296950, 642238100, 636291451, 630453915, 624722516, 619094385]
    ++ [613566757, 608136962, 602802428, 597560667, 592409282, 587345955, 582368447, 577474594]
    ++ [572662306, 567929560, 563274399, 558694933, 554189329, 549755814, 545392673, 541098242]

/-- RS (R271). -/
def rsTab : List Nat :=
  [2130836488, 2098304633, 2066751180, 2036132644, 2006408080, 1977538899, 1949488702, 1922223125]
    ++ [1895709703, 1869917734, 1844818167, 1820383490, 1796587627, 1773405851, 1750814694, 1728791868]
    ++ [1707316192, 1686367527, 1665926709, 1645975491, 1626496491, 1607473140, 1588889636, 1570730897]
    ++ [1552982525, 1535630765, 1518662469, 1502065065, 1485826524, 1469935331, 1454380460, 1439151345]
    ++ [1424237860, 1409630292, 1395319325, 1381296015, 1367551776, 1354078359, 1340867839, 1327912594]
    ++ [1315205296, 1302738895, 1290506605, 1278501893, 1266718465, 1255150260, 1243791434, 1232636354]
    ++ [1221679586, 1210915890, 1200340205, 1189947649, 1179733506, 1169693221, 1159822392, 1150116765]
    ++ [1140572228, 1131184802, 1121950641, 1112866020, 1103927337, 1095131103, 1086473940, 1077952576]

/-- RQ (R271). -/
def rqTab : List Nat :=
  [2130900515, 2098855072, 2068213208, 2038875364, 2010751598, 1983760420, 1957827796, 1932886296]
    ++ [1908874354, 1885735628, 1863418444, 1841875310, 1821062491, 1800939636, 1781469447, 1762617387]
    ++ [1744351429, 1726641819, 1709460876, 1692782810, 1676583559, 1660840642, 1645533028, 1630641020]
    ++ [1616146146, 1602031062, 1588279468, 1574876026, 1561806289, 1549056637, 1536614214, 1524466875]
    ++ [1506774204, 1484114654, 1462447584, 1441702596, 1421816090, 1402730445, 1384393311, 1366757007]
    ++ [1349778000, 1333416450, 1317635818, 1302402522, 1287685637, 1273456629, 1259689126, 1246358707]
    ++ [1233442724, 1220920139, 1208771378, 1196978204, 1185523604, 1174391680, 1163567563, 1153037323]
    ++ [1142787899, 1132807028, 1123083182, 1113605518, 1104363818, 1095348453, 1086550331, 1077960865]

def tab (l : List Nat) (i : Nat) : Nat := l.getD i 0

/-- e and M of a finite non-zero value: |x| = M × 2^(e − 23). -/
def normal24 (m : Nat) (e : Int) : Int × Nat :=
  let k := Nat.log2 m
  (k + e, if k ≤ 23 then m * 2 ^ (23 - k) else m / 2 ^ (k - 23))

/-- A natural number of units of 2^e, rounded to FP32. -/
def fp32Rne (n : Int) (e : Int) : BitVec 32 := to32 (ofDyadic n e false)

def vexp2 (x : BitVec 32) : BitVec 32 × Sticky :=
  match of32 x with
  | .nan _ => (x, {})
  | .inf neg => (if neg then 0 else 0x7F800000, {})
  | .fin neg m e =>
    if cmpFin neg m e false 128 0 != .lt then (0x7F800000, {})
    else if cmpFin neg m e true 151 0 != .gt then (0, {})
    else
      let X := rneInt neg m (e + 24)
      let n := X / 2 ^ 24
      let f := (X % 2 ^ 24).toNat
      let i := f / 2 ^ 18
      let r := f % 2 ^ 18
      let t1 := r * 744261118 / 2 ^ 24
      let t2 := t1 * t1 / 2 ^ 31
      let t3 := t2 * t1 / (3 * 2 ^ 30)
      let P := 2 ^ 30 + t1 + t2 + t3
      (fp32Rne (tab etTab i * P / 2 ^ 30 : Nat) (n - 30), {})

def vlog2 (x : BitVec 32) : BitVec 32 × Sticky :=
  match of32 x with
  | .nan _ => (x, {})
  | .inf neg => if neg then (0x7FC00005, { nv := true }) else (0x7F800000, {})
  | .fin neg m e =>
    if m = 0 then (0xFF800000, {})
    else if neg then (0x7FC00005, { nv := true })
    else
      let (e, M) := normal24 m e
      let i := (M - 2 ^ 23) / 2 ^ 17
      let u : Int := (M * tab rtTab i : Nat) / 2 ^ 23 - 2 ^ 30
      let u2 := u * u / 2 ^ 31
      let u3 := u2 * u / (3 * 2 ^ 29)
      let u4 := u2 * u2 / 2 ^ 30
      let l := u - u2 + u3 - u4
      let g := l * 1549082005 / 2 ^ 30
      (fp32Rne (e * 2 ^ 30 + tab ltTab i + g) (-30), {})

/-- Two Newton steps of VRCP. -/
def rcpStep (M y : Int) : Int := y * (2 ^ 32 - M * y / 2 ^ 23) / 2 ^ 31

def vrcp (x : BitVec 32) : BitVec 32 × Sticky :=
  match of32 x with
  | .nan _ => (x, {})
  | .inf neg => (to32 (.fin neg 0 0), {})
  | .fin neg m e =>
    if m = 0 then (to32 (.inf neg), {})
    else
      let (e, M) := normal24 m e
      let y := rcpStep M (rcpStep M (tab rsTab ((M - 2 ^ 23) / 2 ^ 17)))
      (to32 (.fin neg y.toNat (-31 - e)), {})

def rsqStep (W y : Int) : Int :=
  let q := y * y / 2 ^ 31
  let h := W * q / 2 ^ 23
  y * (3 * 2 ^ 31 - h) / 2 ^ 32

def vrsq (x : BitVec 32) : BitVec 32 × Sticky :=
  match of32 x with
  | .nan _ => (x, {})
  | .inf neg => if neg then (0x7FC00005, { nv := true }) else (0, {})
  | .fin neg m e =>
    if m = 0 then (to32 (.inf neg), {})
    else if neg then (0x7FC00005, { nv := true })
    else
      let (e, M) := normal24 m e
      let p := e % 2
      let W : Int := M * 2 ^ p.toNat
      let y := rsqStep W (rsqStep W (tab rqTab (p.toNat * 32 + (M - 2 ^ 23) / 2 ^ 18)))
      (fp32Rne y (-31 - (e - p) / 2), {})

/-! ## Block reduction and BSI-24 (R58–R61, R275) -/

/-- Pass one over a block (R58), without the policy bits: ecode, flags and NaN pattern. -/
def passOne (xs : List (BitVec 32)) : Nat × Nat × BitVec 32 :=
  xs.foldl (init := (0, 0, 0)) fun (e, f, n) x =>
    if x.extractLsb' 23 8 = 255 then
      if x.extractLsb' 0 23 ≠ 0 then (e, f ||| 1, if n.toNat < x.toNat then x else n)
      else (e, f ||| (if x.msb then 4 else 2), n)
    else (max e (x.extractLsb' 23 8).toNat, f, n)

/-- Ceiling of log2 (R60). -/
def clog2 (n : Nat) : Nat := if n ≤ 1 then 0 else Nat.log2 (n - 1) + 1

def clampInt (lo hi n : Int) : Int := max lo (min hi n)

/-- n[j] of R60 for an element. -/
def quantise (q : Nat) (E : Nat) (x : BitVec 32) : Int :=
  match of32 x with
  | .fin neg m e =>
    clampInt (-2 ^ (q - 1)) (2 ^ (q - 1) - 1) (rneInt neg m (e + ((q : Int) - 2 - ((max E 1 : Nat) - 127 : Int))))
  | _ => 0

/-- y[j] of R60 for a sum. -/
def dequantise (q : Nat) (E : Nat) (n : Int) : BitVec 32 :=
  if n = 0 then 0 else fp32Rne n ((max E 1 : Nat) - 127 + 2 - q : Int)

/-- The element of a block with a non-finite value (R61). -/
def nonFinite (flags : Nat) (N : BitVec 32) : BitVec 32 :=
  if flags / 64 % 2 = 1 then 0
  else if flags % 2 = 1 then N
  else if flags / 2 % 4 = 3 then 0x7FC00003
  else if flags / 2 % 4 = 1 then 0x7F800000
  else 0xFF800000

/-- The policy bits of R58: `skip` is COLL_NF.SKIP. -/
def policyBits (skip : Bool) : Nat := if skip then 64 else 128

/-- The 200 bytes of the BSI-24 block of 64 FP32 elements (R275), with R58's policy bits in FL. -/
def bsiEncode (skip : Bool) (xs : List (BitVec 32)) : List Byte :=
  let (E, F, N) := passOne xs
  let q := 24
  (xs.flatMap fun x => leBytes 3 (BitVec.ofInt 24 (if F % 8 = 0 then quantise q E x else 0)).toNat)
    ++ leBytes 1 E ++ leBytes 1 (F + policyBits skip) ++ leBytes 1 q ++ leBytes 1 0 ++ leBytes 4 N.toNat

/-- The 64 FP32 elements of a BSI-24 block; none where the block is not valid. -/
def bsiDecode (b : List Byte) : Option (List (BitVec 32)) :=
  let at_ (o n : Nat) : Nat := leNat ((b.drop o).take n)
  let E := at_ 192 1; let F := at_ 193 1; let q := at_ 194 1
  if q < 2 ∨ 24 < q ∨ at_ 195 1 ≠ 0 ∨ F / 8 % 8 ≠ 0 then none
  else some ((List.range 64).map fun j =>
    if F % 8 = 0 then dequantise q E (BitVec.ofNat 24 (at_ (3 * j) 3)).toInt
    else nonFinite (F % 64) (BitVec.ofNat 32 (at_ 196 4)))

/-- The elements of a block are a NaN that the conversion generates: it holds both infinities and no NaN (R61, R264). -/
def bsiMakesNan (b : List Byte) : Bool := leNat ((b.drop 193).take 1) % 8 == 6

/-! ## Format descriptors (R205) -/

/-- A descriptor that names a known format and sets no reserved bit. -/
structure Desc where
  fmt  : Fmt
  rnd  : Nat
  sat  : Bool
  lay  : Nat
  step : BitVec 32
deriving DecidableEq, Repr

def descOf (w : Word) : Option Desc :=
  match fmtOf (w.extractLsb' 0 8).toNat (w.getLsbD 8) with
  | none => none
  | some fmt =>
    let rnd := (w.extractLsb' 9 2).toNat
    if rnd = 3 ∨ w.extractLsb' 12 4 ≠ 0 ∨ w.extractLsb' 24 8 ≠ 0 then none
    else some { fmt, rnd, sat := w.getLsbD 11, lay := (w.extractLsb' 16 8).toNat, step := w.extractLsb' 32 32 }

/-- The rounding of a descriptor with a draw. -/
def Desc.round (x : Desc) (rnd : Nat) (d : BitVec 32) : Rnd := { mode := rnd, sat := x.sat, d }

/-- Element i of a packed array of w-bit elements (R253). -/
def eltAt (bs : List Byte) (w i : Nat) : Nat :=
  let lo := w * i / 8
  leNat ((bs.drop lo).take ((w * i + w + 7) / 8 - lo)) / 2 ^ (w * i % 8) % 2 ^ w

/-- Packs w-bit elements, the last byte padded with zero bits (R253). -/
def packBits (w : Nat) (l : List Nat) : Nat :=
  match l with
  | [] => 0
  | x :: r => x % 2 ^ w + 2 ^ w * packBits w r

def packElts (w : Nat) (l : List Nat) : List Byte := leBytes ((w * l.length + 7) / 8) (packBits w l)

end Sys2Proof.Machine
end

