-- ==== Sys2Proof/Machine/Tree.lean ====
section
/-! DEFINITION. The combining tree (spec/02_collectives.md R66–R72). The tree takes one round of a context at a time:
contributions to later rounds stand in TREE_IN (log entry 13).
Log entries: 13 (DEDUCED). -/

namespace Sys2Proof.Machine

/-! ## Words (R67, R68) -/

def treeOp (w : Word) : Nat := (w.extractLsb' 32 3).toNat
def treeType (w : Word) : Nat := (w.extractLsb' 35 2).toNat
def treeBcast (w : Word) : Bool := w.getLsbD 37
def treeSeqOf (w : Word) : BitVec 8 := w.extractLsb' 40 8
def treeValue (w : Word) : BitVec 32 := w.extractLsb' 0 32

/-- A reserved OP, TYPE or bit, or a bitwise operation on FP32 (R70). -/
def treeReserved (w : Word) : Bool :=
  treeOp w == 7 || treeType w == 3 || w.extractLsb' 38 2 != 0 || w.extractLsb' 48 16 != 0
    || (treeType w == 2 && decide (3 ≤ treeOp w) && decide (treeOp w ≤ 5))

/-- The larger or smaller of two FP32 values: a NaN wins, the left one first; −0.0 lies below +0.0 (R68). -/
def f32Pick (max : Bool) (a b : BitVec 32) : BitVec 32 :=
  match of32 a, of32 b with
  | .nan _, _ => a
  | _, .nan _ => b
  | x, y =>
    let less := match x.cmp y with | .lt => true | .gt => false | .eq => x.neg? && !y.neg?
    if less = max then b else a

/-- One node's operation (R68). -/
def treeCombine (op ty : Nat) (a b : BitVec 32) : BitVec 32 :=
  match op with
  | 0 => if ty = 2 then (fadd32 a b).1 else a + b
  | 1 => if ty = 2 then f32Pick true a b else if ty = 0 then (if a.slt b then b else a) else (if a.ult b then b else a)
  | 2 => if ty = 2 then f32Pick false a b else if ty = 0 then (if b.slt a then b else a) else (if b.ult a then b else a)
  | 3 => a &&& b
  | 4 => a ||| b
  | 5 => a ^^^ b
  | _ => a

/-- The value of the tree over leaves lo to lo + 2^k − 1, by members' words (R66). -/
def treeFold (op ty : Nat) (ws : List (Nat × Word)) (lo k : Nat) : Option (BitVec 32) :=
  match ws with
  | [] => none
  | [w] => some (treeValue w.2)
  | ws =>
    match k with
    | 0 => (ws.head?).map fun w => treeValue w.2
    | k + 1 =>
      let m := lo + 2 ^ k
      match treeFold op ty (ws.filter (·.1 < m)) lo k, treeFold op ty (ws.filter fun w => decide (m ≤ w.1)) m k with
      | some a, some b => some (treeCombine op ty a b)
      | some a, none => some a
      | none, b => b

/-- A result entry (R67). -/
def treeResult (v : BitVec 32) (seq : BitVec 8) (err : Bool) : Word :=
  BitVec.ofNat 64 (v.toNat + seq.toNat * 2 ^ 40 + err.toNat * 2 ^ 48)

/-! ## Rounds (R69) -/

/-- The open round of a context. -/
def State.round? (s : State) (c : Nat) : Option TreeRound := (s.ctx c).rounds.head?

/-- The context's members (R69). -/
def treeMembers (s : State) (c : Nat) : List Nat := (s.ctxCores c).filter fun L => (s.core L).treeJoin

/-- A contribution of core L can enter the tree now. -/
def canEnter (s : State) (c L : Nat) : Bool :=
  match s.round? c with
  | none => true
  | some r => r.members.contains L && !(r.words.any (·.1 == L))

/-- A contribution enters the oldest incomplete round, or opens the next one. -/
def enterTree (s : State) (c L : Nat) (w : Word) : State :=
  match s.round? c with
  | none =>
    let n := (s.ctx c).nextRound
    s.modCtx c fun x => { x with nextRound := n + 1, rounds := [{ seq := n, members := treeMembers s c, words := [(L, w)] }] }
  | some r => s.modCtx c fun x => { x with rounds := { r with words := spPut r.words L w } :: x.rounds.drop 1 }

/-- A core's store to TREE_IN (R67, R70, R71, R421). -/
def treePut (s : State) (L : Nat) (w : Word) : Chk State := do
  need (!treeReserved w) 0x0E9
  need (s.core L).treeJoin 0x0EF
  let c := s.ctxNum L
  if (s.core L).treeIn.isEmpty && canEnter s c L then return enterTree s c L w
  else if (s.core L).treeIn.length < 4 then return s.modCore L fun k => { k with treeIn := k.treeIn ++ [w] }
  else wait .treeIn

/-- A load from TREE_OUT: the entry it takes (R70, R71). -/
def treeTake (s : State) (L : Nat) : Option (State × TreeEntry) :=
  match (s.core L).treeOut with
  | [] => none
  | e :: r => some (s.modCore L fun k => { k with treeOut := r }, e)

/-- Number of a member's next contribution (R72); 0 for a core outside the tree (R118). -/
def treeNext (s : State) (L : Nat) : BitVec 8 :=
  let c := s.ctxNum L
  let x := s.ctx c
  let base := match s.round? c with
    | some r => if canEnter s c L then r.seq else x.nextRound
    | none => x.nextRound
  if (s.core L).treeJoin then base + BitVec.ofNat 8 (s.core L).treeIn.length else 0

/-- CORE_TSTAT.PEND and OWE (R72). -/
def treePend (s : State) (L : Nat) : Bool :=
  !(s.core L).treeIn.isEmpty || (match s.round? (s.ctxNum L) with | some r => r.words.any (·.1 == L) | none => false)
def treeOwe (s : State) (L : Nat) : Bool :=
  match s.round? (s.ctxNum L) with | some r => r.members.contains L && !(r.words.any (·.1 == L)) | none => false

/-- An entry for a core's TREE_OUT; a full one leaves it at the tree (R71). -/
def treeGive (s : State) (L : Nat) (e : TreeEntry) : State :=
  s.modCore L fun k =>
    if k.treeOut.length < 4 ∧ k.treeHeld.isEmpty then { k with treeOut := k.treeOut ++ [e] }
    else { k with treeHeld := k.treeHeld ++ [e] }

/-- The oldest round is complete: every member has contributed. -/
def roundDone (r : TreeRound) : Bool := r.members.all fun L => r.words.any (·.1 == L)

/-- The members' entries of a round's end (R67–R70). -/
def roundEntry (r : TreeRound) : TreeEntry × Bool :=
  match r.words with
  | [] => ({ word := treeResult 0 r.seq true, cause := 0x0EC }, true)
  | (_, w) :: rest =>
    if r.lost then ({ word := treeResult 0 r.seq true, cause := 0x0EC }, true)
    else if treeSeqOf w = r.seq ∧ rest.all (fun x => x.2.extractLsb' 32 16 == w.extractLsb' 32 16) then
      ({ word := treeResult ((treeFold (treeOp w) (treeType w) r.words 0 13).getD 0) r.seq false }, treeBcast w)
    else ({ word := treeResult 0 r.seq true, cause := 0x0EB }, true)

/-- The contributions that stand in TREE_IN enter the next round, in ascending leaf index. -/
def drainTree (s : State) (c : Nat) (ls : List Nat) : State :=
  match ls with
  | [] => s
  | L :: r =>
    match (s.core L).treeIn with
    | w :: ws =>
      if canEnter s c L then drainTree ((enterTree s c L w).modCore L fun k => { k with treeIn := ws }) c r
      else drainTree s c r
    | [] => drainTree s c r

/-- The end of the oldest round of a context. -/
def endRound (s : State) (c : Nat) (r : TreeRound) : State :=
  let (e, all) := roundEntry r
  let takers := (if all then r.members else r.members.take 1).filter fun L => !r.gone.contains L
  let s := takers.foldl (fun s L => treeGive s L e) (s.modCtx c fun x => { x with rounds := x.rounds.drop 1 })
  drainTree s c (s.ctxCores c)

end Sys2Proof.Machine
end

