-- ==== Sys2Proof/Machine/LoadStore.lean ====
section
/-! DEFINITION. Loads, stores, remote stores, FENCE, and the tree's control page (spec/16_isa_memory_sync.md R361–R366,
spec/02_collectives.md R67–R71).
Log entries: 7, 13 (DEDUCED). -/

namespace Sys2Proof.Machine

/-! ## Loads (R364) -/

/-- The value of a load from a location outside the control page, with acquire order or without. -/
def loadValue (s : State) (l : Loc) (va : VAddr) (size : Nat) (a : Bool) : Chk Nat := do
  readGo s l size a
  need (!s.poisoned l.key size) 0x120
  watchCheck s va true false
  return s.viewN s.L l.key size

/-- A load from TREE_OUT (R71). -/
def treeLoad (s : State) (d : GReg) (a : Bool) : Host.Outcome State Fault Refusal :=
  match readAny s a with
  | .error e => finish s (.error e)
  | .ok _ =>
    match treeTake s s.L with
    | none => finish s (wait .treeOut)
    | some (s', e) => if e.cause = 0 then .next (s'.result loadLat d e.word) else .next (takeTrap s' s'.cur e.cause 0 0 false false)

/-- A load of `size` bytes at `va` into `d`, its value extended by `ext`. -/
def load (s : State) (m : MMod) (d : GReg) (va : VAddr) (size : Nat) (ext : Nat → Word) : Host.Outcome State Fault Refusal :=
  let checked : Chk Loc := do
    aligned va size 0
    resolve s (s.party s.L) va .read
  match checked with
  | .error e => finish s (.error e)
  | .ok l =>
    match l.home with
    | .control off => if off = 0x108 ∧ size = 8 then treeLoad s d (acq m) else finish s (trap0 0x0EA)
    | _ => finish s ((loadValue s l va size (acq m)).map fun v => s.bind l va d (ext v) true)

/-- Sign and zero extension of a loaded value. -/
def sextLoad (bits : Nat) (v : Nat) : Word := (BitVec.ofNat bits v).signExtend 64
def zextLoad (v : Nat) : Word := BitVec.ofNat 64 v

def execLdd (o : OpMem) (s : State) : Host.Outcome State Fault Refusal := load s o.m o.d (o.ea 8 s) 8 zextLoad
def execLdw (o : OpMem) (s : State) : Host.Outcome State Fault Refusal := load s o.m o.d (o.ea 4 s) 4 (sextLoad 32)
def execLdwu (o : OpMem) (s : State) : Host.Outcome State Fault Refusal := load s o.m o.d (o.ea 4 s) 4 zextLoad
def execLdh (o : OpMem) (s : State) : Host.Outcome State Fault Refusal := load s o.m o.d (o.ea 2 s) 2 (sextLoad 16)
def execLdhu (o : OpMem) (s : State) : Host.Outcome State Fault Refusal := load s o.m o.d (o.ea 2 s) 2 zextLoad
def execLdb (o : OpMem) (s : State) : Host.Outcome State Fault Refusal := load s o.m o.d (o.ea 1 s) 1 (sextLoad 8)
def execLdbu (o : OpMem) (s : State) : Host.Outcome State Fault Refusal := load s o.m o.d (o.ea 1 s) 1 zextLoad

/-! ## Messages (R292, R365) -/

/-- Sends a message of the issuing fibre to another core of the module, and counts it as it leaves the port (R292). -/
def State.send (s : State) (dst : CoreId) (body : MsgBody) : State :=
  let m : Msg := { id := s.nextId, src := s.myId, dst, ctx := s.myCtx, fibre := s.fibre, pc := s.cur.pc,
                   cycle := s.now, body }
  { s.modHere fun c => { c with msgTx := c.msgTx + 1 } with nextId := s.nextId + 1, msgs := s.msgs ++ [m] }

/-- Sends a message to another module (R292). -/
def State.sendOut (s : State) (dst : CoreId) (body : MsgBody) : State :=
  let m : Msg := { id := s.nextId, src := s.myId, dst, ctx := s.myCtx, fibre := s.fibre, pc := s.cur.pc, cycle := s.now, body }
  { s.modHere fun c => { c with xmTx := c.xmTx + 1 } with nextId := s.nextId + 1, outMsgs := s.outMsgs ++ [m] }

/-! ## Stores (R364, R365) -/

/-- The trap of a store into a descriptor or slot-state array bound on the core (R195, R286). -/
def notBound (s : State) (L k n : Nat) : Chk Unit :=
  match boundAt s L k n with
  | some (off, h) => trapA 0x072 (BitVec.ofNat 64 off) (BitVec.ofNat 64 h)
  | none => .ok ()

/-- The effect of a store of bytes to a location outside the control page: at the home, or as a message. -/
def storeTo (s : State) (l : Loc) (va : VAddr) (bs : List Byte) : State :=
  match l.target with
  | some T => if l.isLocal s.L then s.homeWrite (some s.L) l.key bs else s.send (s.coreId T 0) (.store va l.key bs)
  | none => s.homeWrite (some s.L) l.key bs

/-- A store of the low `size` bytes of a value at `va`. -/
def store (s : State) (m : MMod) (va : VAddr) (size : Nat) (v : Word) : Host.Outcome State Fault Refusal :=
  finish s do
    aligned va size 1
    let l ← resolve s (s.party s.L) va .write
    match l.home with
    | .control off =>
      need (off = 0x100 ∧ size = 8) 0x0EA
      writeGo s noGran (rel m)
      return (← treePut s s.L v).advance
    | _ =>
      if l.isLocal s.L then notBound s s.L l.key size
      watchCheck s va false true
      storeGo s l (rel m)
      return (storeTo s l va (leBytes size v.toNat)).advance

def execStd (o : OpMem) (s : State) : Host.Outcome State Fault Refusal := store s o.m (o.ea 8 s) 8 (s.getG o.d)
def execStw (o : OpMem) (s : State) : Host.Outcome State Fault Refusal := store s o.m (o.ea 4 s) 4 (s.getG o.d)
def execSth (o : OpMem) (s : State) : Host.Outcome State Fault Refusal := store s o.m (o.ea 2 s) 2 (s.getG o.d)
def execStb (o : OpMem) (s : State) : Host.Outcome State Fault Refusal := store s o.m (o.ea 1 s) 1 (s.getG o.d)

/-- FENCE (R366): it completes at issue, and the port keeps the kinds that earlier accesses are still open for; at every
scope it keeps fabric order (log entry 7). -/
def execFence (_scope : Fin 5) (mask : BitVec 4) (s : State) : Host.Outcome State Fault Refusal :=
  .next (s.modHere fun c => { c with fence := c.fence ||| s.fences s.L mask }).advance

/-- TRPUT (R421). -/
def execTrput (o : OpM1) (s : State) : Host.Outcome State Fault Refusal :=
  finish s do
    writeGo s noGran (rel o.m)
    return (← treePut s s.L (s.getG o.r)).advance

/-- TRGET (R421). -/
def execTrget (o : OpM1) (s : State) : Host.Outcome State Fault Refusal :=
  treeLoad s o.r (acq o.m)

end Sys2Proof.Machine
end

