-- ==== Sys2Proof/Machine/Atomic.lean ====
section
/-! DEFINITION. Reservations and atomics (spec/16_isa_memory_sync.md R367–R370; spec/09_memory_model.md R241). A
reservation that no other one stands before is granted in its instruction's own step, and an AMO form then writes and
releases there; another queues, and the events of this file grant it (log entry 7).
Log entries: 7, 20 (DEDUCED). -/

namespace Sys2Proof.Machine

/-! ## What an atomic does with a granule -/

/-- op(old, y) of R369 on `bits`-bit words; none where AMOCAS finds another value than `x`, and for the forms that are
no AMO. -/
def amoNew (form : AtomicForm) (bits : Nat) (old y x : BitVec 64) : Option (BitVec 64) :=
  let o := old.setWidth bits
  let v := y.setWidth bits
  match form with
  | .add => some ((o + v).setWidth 64)
  | .and => some (old &&& y)
  | .or => some (old ||| y)
  | .xor => some (old ^^^ y)
  | .max => some (if o.slt v then y else old)
  | .min => some (if v.slt o then y else old)
  | .umax => some (if o.ult v then y else old)
  | .umin => some (if v.ult o then y else old)
  | .xchg => some y
  | .cas => if o = x.setWidth bits then some y else none
  | .fadd => some ((fadd32 (old.setWidth 32) (y.setWidth 32)).1.setWidth 64)
  | .lr | .acc => none

/-- NV of FAMOADD: infinity minus infinity (R370). -/
def famoNv (old y : Word) : Sticky :=
  match of32 (old.setWidth 32), of32 (y.setWidth 32) with
  | .inf a, .inf b => { nv := a != b }
  | _, _ => {}

/-- The bytes an atomic writes (none for a read alone), its result, and the sticky flags it sets. -/
def atomicResult (s : State) (o : AtomicOp) : Chk (List Byte × Word × Sticky) :=
  if s.poisoned o.key o.size then trap0 0x122
  else
    let bs := s.bytes o.key o.size
    let old := BitVec.ofNat 64 (leNat bs)
    match o.form with
    | .acc =>
      match cellOf bs with
      | none => trap0 0x0A0
      | some (anchor, c) => .ok (cellBytes anchor (c.add32 anchor (o.y.setWidth 32)), 0, {})
    | .fadd => .ok (leBytes 4 ((amoNew .fadd 32 old o.y 0).getD 0).toNat, old, famoNv old o.y)
    | f => .ok (((amoNew f (8 * o.size) old o.y o.x).map fun v => leBytes o.size v.toNat).getD [], old, {})

/-- Sets sticky flags of a fibre. -/
def stickFibre (s : State) (L f : Nat) (shadow : Bool) (a : Sticky) : State :=
  s.modCore L fun c =>
    if shadow then { c with shadowFl := c.shadowFl ||| a.bits }
    else if c.hasFib f then c.modFib f fun x => { x with flags := x.flags ||| a.bits } else c

/-- The holder's write and release (R241): its result with the state after it. -/
def atomicApply (s : State) (L f : Nat) (shadow : Bool) (o : AtomicOp) : Chk (State × Word) := do
  let (bs, old, st) ← atomicResult s o
  return (stickFibre (s.homeWrite (some L) o.key bs) L f shadow st, old)

/-- Granules of an atomic: four for a cell (R270). -/
def AtomicForm.granules : AtomicForm → Nat
  | .acc => 4
  | _ => 1

/-- Queues a reservation of the issuing fibre; the fibre goes on at the next chain when its access completes. -/
def queueAtomic (s : State) (l : Loc) (o : AtomicOp) : State :=
  let g : Grant := { gran := granule o.key, count := o.form.granules, core := s.L, fibre := s.fibre, granted := false,
                     away := s.movingAway o.key, op := some { o with shadow := s.onShadow } }
  let s := (s.advance.setReason 0x15A).park (.reservation g.gran) (!l.isLocal s.L && privateDest o.dst)
  { s with grants := s.grants ++ [g] }

/-- Runs an atomic now, or queues it. -/
def runAtomic (s : State) (l : Loc) (o : AtomicOp) : Chk State :=
  if s.mustQueue (granule o.key) o.form.granules then .ok (queueAtomic s l o)
  else do
    let (s', old) ← atomicApply s s.L s.fibre s.onShadow o
    match o.dst with
    | some d => return s'.bind l o.va d old
    | none => return s'.bindAway none 0 (va := o.va)

/-- The checks of R361 on an atomic's address, and its window rule. -/
def atomicLoc (s : State) (va : VAddr) (size : Nat) (window : Cause) : Chk Loc := do
  aligned va size 2
  let l ← resolve s (s.party s.L) va .atomic
  match l.home with
  | .control _ => trap0 window
  | _ => return l

/-- The checks that an atomic makes at issue: no reservation held (R367), then the poison of what it reads. -/
def atomicFree (s : State) (l : Loc) (size : Nat) : Chk Unit := do
  need s.me.rsv.isNone 0x0A4
  need (!s.poisoned l.key size) 0x122

/-- The port's order for an atomic, which reads and writes (R237): the core's earlier writes to its bytes are applied first (R232). -/
def atomicGo (s : State) (l : Loc) (size : Nat) (m : MMod) : Chk Unit := do
  readGo s l size (acq m)
  portGo s false (s.ownWaits s.L l.key size) noGran
  writeGo s (granule l.key) (rel m)

/-- An AMO form of `size` bytes (R369). -/
def amo (o : OpM3) (s : State) (form : AtomicForm) (size : Nat) : Host.Outcome State Fault Refusal :=
  finish s do
    let va := s.addrG o.s
    let l ← atomicLoc s va size 0x0AD
    atomicFree s l size
    watchCheck s va true true
    atomicGo s l size o.m
    runAtomic s l { form, key := l.key, size, va, y := s.getG o.t, x := s.getG o.d, dst := some o.d, acq := acq o.m, iss := s.cur }

def execAmoadd (o : OpM3) (s : State) : Host.Outcome State Fault Refusal := amo o s .add 8
def execAmoand (o : OpM3) (s : State) : Host.Outcome State Fault Refusal := amo o s .and 8
def execAmoor (o : OpM3) (s : State) : Host.Outcome State Fault Refusal := amo o s .or 8
def execAmoxor (o : OpM3) (s : State) : Host.Outcome State Fault Refusal := amo o s .xor 8
def execAmomax (o : OpM3) (s : State) : Host.Outcome State Fault Refusal := amo o s .max 8
def execAmomin (o : OpM3) (s : State) : Host.Outcome State Fault Refusal := amo o s .min 8
def execAmoumax (o : OpM3) (s : State) : Host.Outcome State Fault Refusal := amo o s .umax 8
def execAmoumin (o : OpM3) (s : State) : Host.Outcome State Fault Refusal := amo o s .umin 8
def execAmoxchg (o : OpM3) (s : State) : Host.Outcome State Fault Refusal := amo o s .xchg 8
def execAmocas (o : OpM3) (s : State) : Host.Outcome State Fault Refusal := amo o s .cas 8
def execAmoaddw (o : OpM3) (s : State) : Host.Outcome State Fault Refusal := amo o s .add 4
def execAmocasw (o : OpM3) (s : State) : Host.Outcome State Fault Refusal := amo o s .cas 4

/-- FAMOADD (R370): a word in mapped memory. -/
def execFamoadd (o : OpM3) (s : State) : Host.Outcome State Fault Refusal :=
  finish s do
    let va := s.addrG o.s
    let l ← atomicLoc s va 4 0x0A8
    match l.home with
    | .mapped _ =>
      atomicFree s l 4
      watchCheck s va true true
      atomicGo s l 4 o.m
      runAtomic s l { form := .fadd, key := l.key, size := 4, va, y := s.getG o.t, dst := some o.d, acq := acq o.m, iss := s.cur }
    | _ => trap0 0x0A8

/-! ## Wide accumulator cells (R267–R270) -/

/-- The location of a 32-byte cell: alignment, then translation. -/
def cellLoc (s : State) (va : VAddr) (k : Kind) : Chk Loc := do
  need (va.toNat % 32 = 0) 0x03E (va.setWidth 64)
  resolve s (s.party s.L) va k

/-- A cell lies in die store (R370). -/
def cellTarget (l : Loc) : Chk Unit :=
  match l.home with
  | .mapped _ => need (l.key < 8 * 0x10000000) 0x0A9
  | _ => trap0 0x0A9

def execAccadd (o : OpMst) (s : State) : Host.Outcome State Fault Refusal :=
  finish s do
    let va := s.addrG o.s
    let l ← cellLoc s va .atomic
    cellTarget l
    atomicFree s l 32
    watchRange s va 32 true true
    atomicGo s l 32 o.m
    runAtomic s l { form := .acc, key := l.key, size := 32, va, y := s.getG o.t, acq := acq o.m, iss := s.cur }

/-- ACCRD (R269, R270, R370); its own checks stand in the order of its description. -/
def execAccrd (o : OpM3) (s : State) : Host.Outcome State Fault Refusal :=
  finish s do
    let va := s.addrG o.s
    let w := s.getG o.t
    let l ← cellLoc s va .read
    need (w.extractLsb' 3 61 = 0) 0x0AA
    cellTarget l
    need (!s.poisoned l.key 32) 0x120
    watchRange s va 32 true false
    readGo s l 32 (acq o.m)
    match cellOf (s.view s.L l.key 32) with
    | none => trap0 0x0A0
    | some (anchor, c) =>
      let (x, st) := c.readout s.here anchor (if w.getLsbD 0 then .bf16 else .fp32)
        { mode := (w.extractLsb' 1 1).toNat, sat := w.getLsbD 2 }
      return (s.stick st).bind l va o.d (BitVec.ofNat 64 x)

/-! ## LR, SC and WRS (R367) -/

/-- LR reservations of the issuing core, held or queued. -/
def State.rsvCount (s : State) : Nat :=
  (s.here.fibres.filter fun e => e.2.rsv.isSome).length + s.grants.countP fun g => g.core == s.L && g.op.any (·.form == .lr)

/-- A fibre holds a reservation from its grant on (R241, R367). -/
def holdRsv (s : State) (L f : Nat) (r : Rsv) : State := s.modCore L fun c => c.modFib f fun x => { x with rsv := some r, last := some r, lost := false }

def lr (o : OpM2) (s : State) (size : Nat) : Host.Outcome State Fault Refusal :=
  finish s do
    let va := s.addrG o.s
    let l ← atomicLoc s va size 0x0AD
    need s.me.rsv.isNone 0x0A4
    need (s.rsvCount < 16) 0x0A5
    need (!s.poisoned l.key size) 0x122
    watchCheck s va true true
    readGo s l size (acq o.m)
    if s.mustQueue (granule l.key) 1 then
      return queueAtomic s l { form := .lr, key := l.key, size, va, dst := some o.d, acq := acq o.m, iss := s.cur }
    else
      let g : Grant := { gran := granule l.key, core := s.L, fibre := s.fibre, granted := true, since := (s.die (homeDie l.key)).cycle.toNat }
      let s' := holdRsv s s.L s.fibre { addr := va, key := l.key, word := size == 4 }
      return { s' with grants := s'.grants ++ [g] }.bind l va o.d (BitVec.ofNat 64 (s.viewN s.L l.key size))

def execLr (o : OpM2) (s : State) : Host.Outcome State Fault Refusal := lr o s 8
def execLrw (o : OpM2) (s : State) : Host.Outcome State Fault Refusal := lr o s 4

/-- The LR grant that a fibre holds. -/
def State.grantOf (s : State) (L f : Nat) : Option Grant :=
  s.grants.find? fun g => g.granted && g.core == L && g.fibre == f && g.op.isNone

/-- Releases the issuing fibre's reservation: the home lets the waiting writes through (R241). -/
def State.release (s : State) : State :=
  let s' := match s.grantOf s.L s.fibre with | some g => s.endGrant g | none => s
  s'.modMe fun f => { f with rsv := none }

def sc (o : OpM3) (s : State) (size : Nat) : Host.Outcome State Fault Refusal :=
  finish s do
    let va := s.addrG o.s
    let l ← atomicLoc s va size 0x0AD
    match s.me.rsv with
    | none =>
      need s.me.lost 0x0A7 (va.setWidth 64)
      return (s.modMe fun f => { f with lost := false }).result 1 o.d 1
    | some r =>
      need (r.addr = va ∧ r.word = (size == 4)) 0x0A7 (va.setWidth 64)
      watchCheck s va true true
      portGo s false (s.ownWaits s.L l.key size) noGran
      writeGo s (granule l.key) (rel o.m)
      return (s.homeWrite (some s.L) l.key (leBytes size (s.getG o.t).toNat)).release.result 1 o.d 0

def execSc (o : OpM3) (s : State) : Host.Outcome State Fault Refusal := sc o s 8
def execScw (o : OpM3) (s : State) : Host.Outcome State Fault Refusal := sc o s 4

/-- The size of a reservation. -/
def Rsv.size (r : Rsv) : Nat := if r.word then 4 else 8

/-- The watch of a fibre's wait: of WRS, or of WAITGE where `target`. -/
def Watch.armed (w : Watch) (L f : Nat) (shadow target : Bool) : Bool :=
  w.core == L && w.fibre == f && w.shadow == shadow && w.target.isSome == target

/-- WRS: a wait that has ended gives its value; a lost reservation is read plainly; another is released and its wait
armed as one step. -/
def execWrs (o : OpM1) (s : State) : Host.Outcome State Fault Refusal :=
  match s.watches.find? (·.armed s.L s.fibre s.onShadow false) with
  | some w =>
    match w.done with
    | some v => .next ({ s with watches := s.watches.erase w }.result 1 o.r v)
    | none => finish s (wait .written)
  | none =>
    match s.me.rsv with
    | none =>
      finish s do
        need s.me.lost 0x0A6
        match s.me.last with
        | none => trap0 0x0A6
        | some r =>
          let l ← resolve s (s.party s.L) r.addr .read
          let v ← loadValue s l r.addr r.size true
          return (s.modMe fun f => { f with lost := false }).bind l r.addr o.r (BitVec.ofNat 64 v)
    | some r =>
      let w : Watch := { core := s.L, fibre := s.fibre, shadow := s.onShadow, key := r.key, size := r.size }
      match readAny s true, watchCheck s r.addr true false with
      | .error e, _ | _, .error e => finish s (.error e)
      | .ok _, .ok _ => .next ({ s with watches := s.watches ++ [w] }.release.waitFor .written)

/-! ## The home's side (R241, R368) -/

/-- A reservation queued at its home that no earlier one stands before. -/
def nextGrant (pre : List Grant) (l : List Grant) (gran : Nat) : Option Grant :=
  match l with
  | [] => none
  | g :: r =>
    if g.away then nextGrant pre r gran
    else if !g.granted && g.gran == gran && !(pre.any fun h => (List.range g.count).any fun i => h.covers (g.gran + i)) then some g
    else nextGrant (g :: pre) r gran

/-- Replaces a grant in place. -/
def State.setGrant (s : State) (g h : Grant) : State :=
  { s with grants := s.grants.map fun x => if x = g then h else x }

/-- The result of an access bound for a waiting fibre. -/
def bindFibre (s : State) (L f : Nat) (shadow : Bool) (p : Pending) : State :=
  s.modCore L fun c =>
    if shadow then { c with shadowSt := .waiting .access, shadowPend := some p }
    else if c.hasFib f then c.modFib f fun x => { x with status := .waiting .access, pend := some p } else c

/-- The atomic of a grant was issued on the shadow plane. -/
def Grant.shadow (g : Grant) : Bool := g.op.any (·.shadow)

/-- The fibre of a queued atomic traps at its instruction. -/
def trapQueued (s : State) (g : Grant) (o : AtomicOp) (c : Cause) (addr aux : Word) : State :=
  let sh := g.shadow
  let s' := s.modCore g.core fun k =>
    if sh then { k with shadowPc := o.iss.pc } else k.modFib g.fibre fun x => { x with pc := o.iss.pc, icount := x.icount - 1 }
  if (s.core g.core).hasFib g.fibre then trapFibre s' g.fibre sh o.iss c addr aux false false else s

/-- RESERVATION_GRANT: an LR's read is bound, and its fibre holds the reservation (R367); it traps where the granule has been
poisoned meanwhile (R363). An atomic holds its grant until it releases it. -/
def execReservationGrant (s : State) : Host.Outcome State Fault Refusal :=
  .next (match s.ev with
    | .reservationGrant gran =>
      match (if s.arriving? (8 * gran) then none else nextGrant [] s.grants gran) with
      | none => s
      | some g =>
        let g' := { g with granted := true, since := (s.die (homeDie (8 * g.gran))).cycle.toNat }
        match g.op with
        | some o =>
          if o.form = .lr then
            if s.poisoned o.key o.size then trapQueued { s with grants := s.grants.erase g } g o 0x122 0 0
            else
              let s' := holdRsv (s.setGrant g { g' with op := none }) g.core g.fibre { addr := o.va, key := o.key, word := o.size == 4 }
              bindFibre s' g.core g.fibre g.shadow { dst := o.dst, value := BitVec.ofNat 64 (s.viewN g.core o.key o.size), pc := o.iss.pc, va := o.va }
          else s.setGrant g g'
        | none => s.setGrant g g'
    | _ => s)

/-- ATOMIC_RELEASE_WRITE: the holder's new value is applied as one write, and the grant ends. -/
def execAtomicReleaseWrite (s : State) : Host.Outcome State Fault Refusal :=
  .next (match s.ev with
    | .atomicReleaseWrite gran =>
      match s.grants.find? fun g => g.granted && g.gran == gran && g.op.isSome with
      | none => s
      | some g =>
        match g.op with
        | none => s
        | some o =>
          let sh := g.shadow
          match atomicApply s g.core g.fibre sh o with
          | .ok (s', old) => bindFibre (s'.endGrant g) g.core g.fibre sh { dst := o.dst, value := old, pc := o.iss.pc, va := o.va }
          | .error (.trap c a x _) => trapQueued (s.endGrant g) g o c a x
          | .error _ => s
    | _ => s)

/-- The grant has been held for 2^DIE_RSVTMO.LOG2 cycles of the home's die (R368). -/
def Grant.expired (s : State) (g : Grant) : Bool :=
  let d := s.die (homeDie (8 * g.gran))
  g.granted && g.op.isNone && decide (g.since + 2 ^ d.rsvTmo.toNat ≤ d.cycle.toNat)

/-- RESERVATION_TIMEOUT. -/
def execReservationTimeout (s : State) : Host.Outcome State Fault Refusal :=
  .next (match s.ev with
    | .reservationTimeout gran =>
      match s.grants.find? fun g => g.gran == gran && g.expired s with
      | some g => s.revoke g
      | none => s
    | _ => s)

/-- Completes an access: the saved register is written and the fibre is ready again (R182). A shared register takes
its value through its writeback (R186). -/
def completeAccess (s : State) (L f : Nat) (shadow : Bool) (p : Pending) : State :=
  let ready (c : Core) : Core :=
    if shadow then { c with shadowSt := .ready, shadowPend := none }
    else c.modFib f fun x => { x with status := .ready, since := s.cycleOf L, pend := none }
  match p.dst with
  | none => s.modCore L ready
  | some d =>
    if h : 8 ≤ d.val then
      s.modCore L fun c =>
        let w : Writeback := { due := s.cycleOf L, slot := (c.slotOf f).getD 0, fibre := f, shadow, reg := ⟨d.val - 8, by omega⟩, value := p.value }
        let c := ready c
        let due := s.cycleOf L + 1
        if shadow then { c with wb := c.wb ++ [w], shadowSt := .writeback, shadowDue := due }
        else { c with wb := c.wb ++ [w] }.modFib f fun x => { x with status := .writeback, due }
    else if shadow then s.modCore L fun c => { ready c with shadowA := c.shadowA.setIfInBounds d.val p.value }
    else keepSpilled s (s.modCore L fun c => (ready c).modFib f fun x => { x with a := x.a.setIfInBounds d.val p.value }) L f

/-- ACCESS_COMPLETE. -/
def execAccessComplete (s : State) : Host.Outcome State Fault Refusal :=
  .next (match s.ev with
    | .accessComplete L f =>
      let c := s.core L
      if f = 0 ∧ c.handler.isSome ∧ c.shadowSt = .waiting .access then
        match c.shadowPend with | some p => completeAccess s L 0 true p | none => s
      else if (c.fib f.toNat).status = .waiting .access then
        match (c.fib f.toNat).pend with | some p => completeAccess s L f.toNat false p | none => s
      else s
    | _ => s)

end Sys2Proof.Machine
end

