-- ==== Sys2Proof/Decode.lean ====
section
/-! DEFINITION. Decoding of prefix chains (spec/13_isa_formats.md R311–R325, spec/14_opcode_map.md R335–R343), total
on any words, and the encoder of a well-formed instruction (R317, R319, R321, R329).
Log entries: 14 (DEDUCED); 15 (DESIGN CHOICE). -/

namespace Sys2Proof

/-! ## Rejections -/

/-- Why a chain does not decode, by the name the spec gives its cause. `truncated` is the model's own: the words
given to the decoder end inside a chain. -/
inductive Reject where
  | majorUnassigned | pageUnassigned | minorUnassigned | registerClass | registerNumber | mustBeZero
  | formNotInRevision | undefinedWord | fifthPrefix | repeatedPrefix | thirdImm | immNotAccepted | regNotAccepted
  | pageNotAccepted | modNotAccepted | pageNumberInvalid | regPayloadReserved | scopeReserved | orderReserved
  | formatReserved | roundingReserved | hintMustBeZero | immOverflow | truncated
deriving DecidableEq, Repr

/-- The cause codes of group 0 that decoding raises (R280). -/
def Reject.cause : Reject → Cause
  | .majorUnassigned => 0x001 | .pageUnassigned => 0x002 | .minorUnassigned => 0x003
  | .registerClass => 0x004 | .registerNumber => 0x005 | .mustBeZero => 0x007
  | .formNotInRevision => 0x008 | .undefinedWord => 0x00B | .fifthPrefix => 0x010
  | .repeatedPrefix => 0x011 | .thirdImm => 0x012 | .immNotAccepted => 0x014
  | .regNotAccepted => 0x015 | .pageNotAccepted => 0x016 | .modNotAccepted => 0x017
  | .pageNumberInvalid => 0x018 | .regPayloadReserved => 0x019 | .scopeReserved => 0x01A
  | .orderReserved => 0x01B | .formatReserved => 0x01C | .roundingReserved => 0x01D
  | .hintMustBeZero => 0x01E | .immOverflow => 0x01F | .truncated => 0x000

/-! ## Words and prefixes -/

/-- The major field of a word (R311). -/
def major (w : Half) : BitVec 5 := w.extractLsb' 11 5

/-- The payload of a prefix (R311). -/
def payload (w : Half) : BitVec 11 := w.extractLsb' 0 11

/-- The prefixes read so far: their number and their payloads, the more significant IMM first. -/
structure Pfx where
  n    : Nat := 0
  imms : List (BitVec 11) := []
  reg  : Option (BitVec 11) := none
  page : Option (BitVec 11) := none
  mod  : Option (BitVec 11) := none
deriving DecidableEq, Repr

/-- The payload slot of a REG, PAGE or MOD prefix, filled once (R313). -/
def fillOnce (old : Option (BitVec 11)) (p : BitVec 11) : Except Reject (Option (BitVec 11)) :=
  match old with
  | none => .ok (some p)
  | some _ => .error .repeatedPrefix

/-- What reading a prefix word does (R313); `none` for a base word. -/
def Pfx.add (p : Pfx) (w : Half) : Option (Except Reject Pfx) :=
  if (major w).toNat < 0x1C then none
  else if p.n = 4 then some (.error .fifthPrefix)
  else if major w = 0x1C then
    some (if p.imms.length = 2 then .error .thirdImm
      else .ok { p with n := p.n + 1, imms := p.imms ++ [payload w] })
  else if major w = 0x1D then
    some ((fillOnce p.reg (payload w)).map fun r => { p with n := p.n + 1, reg := r })
  else if major w = 0x1E then
    some ((fillOnce p.page (payload w)).map fun r => { p with n := p.n + 1, page := r })
  else
    some ((fillOnce p.mod (payload w)).map fun r => { p with n := p.n + 1, mod := r })

/-! ## Operand fields -/

/-- The operand fields of a chain: base fields with their high bits, and RT (R319). -/
structure Fields where
  rd  : BitVec 4
  dhi : BitVec 2
  rs  : BitVec 4
  shi : BitVec 2
  rt  : Option (BitVec 6)
deriving DecidableEq, Repr

/-- A widened number as a register of class G (R318, R319). -/
def gNum (n : Nat) : Except Reject GReg :=
  if h : n < 40 then .ok ⟨n, h⟩ else .error (if n < 56 then .registerClass else .registerNumber)

/-- A widened number as a handle (R318, R319). -/
def hNum (n : Nat) : Except Reject HReg :=
  if n < 40 then .error .registerClass
  else if h : n - 40 < 16 then .ok ⟨n - 40, h⟩ else .error .registerNumber

/-- A G position. -/
def gPos (hi : BitVec 2) (f : BitVec 4) : Except Reject GReg := gNum (hi.toNat * 16 + f.toNat)

/-- An H position; its HI bits must be 0 (R319). -/
def hPos (hi : BitVec 2) (f : BitVec 4) : Except Reject HReg :=
  if hi ≠ 0 then .error .registerClass else .ok f.toFin

/-- A position of class F, C, K, B or MB, or an accumulator number (R318, R319, R404). -/
def qPos (hi : BitVec 2) (f : BitVec 4) : Except Reject QReg :=
  if hi ≠ 0 then .error .registerClass
  else if h : f.toNat < 4 then .ok ⟨f.toNat, h⟩ else .error .registerNumber

/-- A field that the form declares zero (R318, R360, R404). -/
def zPos (hi : BitVec 2) (f : BitVec 4) : Except Reject Unit :=
  if hi = 0 ∧ f = 0 then .ok () else .error .mustBeZero

/-- An RT position of class G, when T is 1. -/
def gThird : Option (BitVec 6) → Except Reject (Option GReg)
  | none => .ok none
  | some n => (gNum n.toNat).map some

/-- An RT position of class H, when T is 1. -/
def hThird : Option (BitVec 6) → Except Reject (Option HReg)
  | none => .ok none
  | some n => (hNum n.toNat).map some

/-- A required RT of class G. -/
def gThird! : Option (BitVec 6) → Except Reject GReg
  | none => .error .regPayloadReserved
  | some n => gNum n.toNat

/-- A required RT of class H. -/
def hThird! : Option (BitVec 6) → Except Reject HReg
  | none => .error .regPayloadReserved
  | some n => hNum n.toNat

/-- The hints of a MOD payload. -/
def hintsOf (m : BitVec 11) : Hints := { h0 := m.getLsbD 8, h1 := m.getLsbD 9 }

/-- The arithmetic view of a MOD payload (R321). -/
def aModOf (m : BitVec 11) : AMod :=
  { fsel := (m.extractLsb' 0 2).toFin, rnd := (m.extractLsb' 2 2).toFin, hints := hintsOf m }

/-- The memory view of a MOD payload whose SCOPE is not reserved (R321). -/
def mModOf (m : BitVec 11) : MMod :=
  { scope := Fin.ofNat 5 (m.extractLsb' 0 3).toNat, order := (m.extractLsb' 3 2).toFin, hints := hintsOf m }

/-- A base immediate widened by IMM payloads and sign-extended to the field's full width (R317). -/
def widen {w : Nat} (out : Nat) (imms : List (BitVec 11)) (b : BitVec w) : BitVec out :=
  match imms with
  | [] => b.signExtend out
  | [p] => (p ++ b).signExtend out
  | p :: q :: _ => (p ++ q ++ b).signExtend out

/-! ## Forms -/

/-- The view of MOD that a form uses (R321, R323): the arithmetic view says whether the form uses descriptors and
whether it rounds, the memory view which orders it accepts. -/
inductive View where
  | none
  | arith (fmt rnd : Bool)
  | mem (acq rel : Bool)
deriving DecidableEq, Repr

/-- What a form does with RT (R319, R320). -/
inductive Third where
  | never | optional | required
deriving DecidableEq, Repr

/-- The scalar view: hints only (R347). -/
def View.hints : View := .arith false false

/-- A form of the opcode map: its operand shape and the instruction it builds. -/
inductive Form where
  | rr (zd : Bool) (k : OpRR → Instr)          -- zd: RD must be zero with T = 1 (R352)
  | rr3 (k : OpRR3 → Instr)
  | rf (k : OpRF → Instr)
  | d (k : OpD → Instr)
  | ret
  | ri (zd : Bool) (k : OpRI → Instr)
  | li
  | lea
  | loop
  | bc
  | jl (k : BitVec 33 → Instr)
  | sys (i : Instr)
  | rm (acq rel : Bool) (k : OpMem → Instr)
  | m2 (acq rel : Bool) (k : OpM2 → Instr)
  | m3 (acq rel : Bool) (k : OpM3 → Instr)
  | mst (k : OpMst → Instr)
  | m1d (acq rel : Bool) (k : OpM1 → Instr)    -- register in RD, RS zero
  | m1s (k : OpM1 → Instr)                     -- register in RS, RD zero
  | mqd (k : OpMQ → Instr)                     -- B or MB in RD, G in RS
  | mqs (acq rel : Bool) (k : OpMQ → Instr)    -- G in RD, B or MB in RS
  | mq1 (k : OpMQ1 → Instr)
  | ds (k : OpDS → Instr)
  | s1 (k : GReg → Instr)                      -- TASKPUSH: RD zero
  | d1 (k : GReg → Instr)                      -- TMRD: RS zero
  | dst (k : OpDST → Instr)
  | zz (i : Instr)                             -- FEXIT: RD and RS zero
  | v2 (rnd : Bool) (k : OpV2 → Instr)
  | v3 (rnd : Bool) (k : OpV3 → Instr)
  | v1 (rnd : Bool) (k : OpV1 → Instr)
  | vf (k : OpVF → Instr)
  | vg (k : OpVG → Instr)
  | vb
  | mma (k : OpMma → Instr)
  | mmrd
  | qg (k : OpQG → Instr)
  | mmrc
  | hg (k : OpHG → Instr)
  | gh (k : OpHG → Instr)                      -- RSTAT: result in RD, handle in RS
  | runbind
  | advt
  | bk (k : GReg → Instr)
  | bkz (i : Instr)

/-- The most IMM prefixes a form accepts (R317, R335). -/
def Form.imax : Form → Nat
  | .ri .. | .li | .lea | .loop | .bc | .jl _ | .rm .. => 2
  | _ => 0

/-- Whether a form accepts a REG prefix (R335). -/
def Form.reg : Form → Bool
  | .bc | .jl _ | .sys _ | .bk _ | .bkz _ => false
  | _ => true

/-- The MOD view of a form. -/
def Form.view : Form → View
  | .rr .. | .rr3 _ | .rf _ | .d _ | .ret | .ri .. | .li | .lea => .hints
  | .loop | .bc | .jl _ | .sys _ | .ds _ | .s1 _ | .d1 _ | .dst _ | .zz _ | .bk _ | .bkz _ => .none
  | .rm a r _ | .m2 a r _ | .m3 a r _ | .m1d a r _ | .mqs a r _ => .mem a r
  | .mst _ => .mem true true
  | .m1s _ | .mqd _ => .mem false false
  | .mq1 _ => .mem false true
  | .v2 r _ | .v3 r _ | .v1 r _ => .arith true r
  | .vf _ | .vg _ | .vb | .mma _ => .arith true false
  | .mmrd => .arith true true
  | .qg _ | .mmrc | .hg _ | .gh _ | .runbind | .advt => .hints

/-- What a form does with RT. -/
def Form.third : Form → Third
  | .rr .. | .rf _ | .ri .. | .lea | .rm .. | .v2 .. | .vf _ | .advt => .optional
  | .rr3 _ | .m3 .. | .mst _ | .dst _ | .v3 .. | .vg _ | .mma _ => .required
  | _ => .never

/-- Whether a form has a field at [6:3] that SHI widens (R319, R345). -/
def Form.hasS : Form → Bool
  | .rf _ | .d _ | .ret | .ri .. | .li | .loop | .vf _ => false
  | _ => true

/-- A row of the opcode map: the forms of one major of one page. -/
inductive Row where
  | one (f : Form)
  | fn3 (fs : List Form)
  | fn7 (lo hi : List Form)
  | sys

/-- The forms of page 0 (R338). -/
def row0 (m : Nat) : Option Row :=
  match m with
  | 0x00 => some .sys
  | 0x01 => some (.fn3 [.rr false .add, .rr false .sub, .rr false .and, .rr false .or, .rr false .xor, .rr false .shl,
      .rr false .shr, .rr false .sar])
  | 0x02 => some (.fn3 [.rr false .addc, .rr false .subc, .rr false .mul, .rr false .mulh, .rr false .mulhu,
      .rr false .div, .rr false .divu, .rr false .rem])
  | 0x03 => some (.fn3 [.rr false .remu, .rr false .min, .rr false .max, .rr false .minu, .rr false .maxu,
      .rr false .rol, .rr false .ror, .rr false .andn])
  | 0x04 => some (.fn3 [.rr true .cmp, .rr true .tst, .rr false .bfx, .rr false .bfxu, .rr3 .bfi, .rr false .selz,
      .rr false .seln, .rr false .selc])
  | 0x05 => some (.fn7 [.rf .mov, .rf .neg, .rf .not, .rf .clz, .rf .ctz, .rf .popc, .rf .brev, .rf .bswap, .rf .sextb,
      .rf .sexth, .rf .sextw, .rf .zextb, .rf .zexth, .rf .zextw] [.d .jr, .d .callr, .ret, .d .movpc])
  | 0x06 => some (.one (.ri false .addi))
  | 0x07 => some (.one .li)
  | 0x08 => some (.one (.ri true .cmpi))
  | 0x09 => some (.one (.ri false .andi))
  | 0x0A => some (.one (.rm true false .ldd))
  | 0x0B => some (.one (.rm true false .ldw))
  | 0x0C => some (.one (.rm true false .ldwu))
  | 0x0D => some (.one (.rm false true .std))
  | 0x0E => some (.one (.rm false true .stw))
  | 0x0F => some (.one .lea)
  | 0x10 => some (.fn3 [.m2 true false .lr, .m3 true true .sc, .m3 true true .amoadd, .m3 true true .amoand,
      .m3 true true .amoor, .m3 true true .amoxor, .m3 true true .amomax, .m3 true true .amomin])
  | 0x11 => some (.fn3 [.m3 true true .amoumax, .m3 true true .amoumin, .m3 true true .amoxchg, .m3 true true .amocas,
      .m3 true true .famoadd, .mst .accadd, .m3 true false .accrd, .m2 false true .siginc])
  | 0x12 => some (.fn3 [.m2 true false .waitge, .m1d true false .wrs, .m3 false true .append, .m2 true false .recv,
      .m2 true false .tagwait, .m2 false false .tagtest, .mqd .mbput, .mqs false false .mbtake])
  | 0x13 => some (.fn3 [.mqd .barinit, .mq1 .bararv, .mqs true false .barwait, .m2 false false .lock, .m1s .unlock])
  | 0x16 => some (.fn3 [.ds .srr, .ds .srw, .s1 .taskpush, .ds .taskpop, .ds .sleep, .ds .tmset, .d1 .tmrd, .ds .hcall])
  | 0x17 => some (.fn3 [.dst .fspawn, .zz .fexit])
  | 0x18 => some (.one .bc)
  | 0x19 => some (.one (.jl .j))
  | 0x1A => some (.one (.jl .call))
  | 0x1B => some (.one .loop)
  | _ => none

/-- The forms of page 1 (R342). -/
def row1 (m : Nat) : Option Row :=
  match m with
  | 0x01 => some (.fn3 [.v2 true .vadd, .v2 true .vsub, .v2 true .vmul, .v3 true .vfma, .v2 false .vmin, .v2 false .vmax,
      .v1 false .vabs, .v1 false .vneg])
  | 0x02 => some (.fn3 [.v2 false .vcmpeq, .v2 false .vcmplt, .v2 false .vcmple, .v3 false .vsel, .v2 false .viadd,
      .v2 false .visub, .v2 false .vimul, .v2 false .vishl])
  | 0x03 => some (.fn3 [.v2 false .vand, .v2 false .vor, .v2 false .vxor, .v2 false .vishr, .v2 false .visar,
      .v2 false .vimin, .v2 false .vimax, .v1 false .viabs])
  | 0x04 => some (.fn3 [.v1 true .vcvt, .v1 true .vquant, .v1 true .vdequant, .v1 true .vcvti, .v1 true .vcvtf])
  | 0x05 => some (.fn3 [.v1 false .vrsum, .v1 false .vrmax, .v1 false .vrmin, .v2 false .vscan, .v2 false .vperm,
      .vg .vgather, .vg .vscatter, .vb])
  | 0x06 => some (.fn7 [.vf .vexp2, .vf .vlog2, .vf .vrcp, .vf .vrsq] [])
  | _ => none

/-- The forms of page 2 (R342, R404). -/
def row2 (m : Nat) : Option Row :=
  match m with
  | 0x01 => some (.fn3 [.mma .mma, .mma .mmas, .mmrd, .qg .mmclr, .mmrc, .qg .skset])
  | 0x02 => some (.fn3 [.m2 true true .cpy, .m2 true true .cpyt, .m2 true true .cpyg, .m2 true true .cpym,
      .m2 true true .shld, .m2 true true .stash, .m2 true true .restore])
  | 0x03 => some (.fn3 [.m2 false true .cstart, .m1s .trput, .m1d false false .trget])
  | 0x04 => some (.fn3 [.hg .rbind, .runbind, .hg .awaitf, .hg .awaite, .hg .advh, .advt, .gh .rstat])
  | 0x05 => some (.fn7 [.bk .bkinfo, .bk .bkstep, .bkz .bkgo, .bkz .bkpause] [])
  | _ => none

/-- The forms of page 3 (R343). -/
def row3 (m : Nat) : Option Row :=
  match m with
  | 0x06 => some (.one (.ri false .ori))
  | 0x07 => some (.one (.ri false .xori))
  | 0x0A => some (.one (.rm true false .ldb))
  | 0x0B => some (.one (.rm true false .ldbu))
  | 0x0C => some (.one (.rm true false .ldh))
  | 0x0D => some (.one (.rm false true .stb))
  | 0x0E => some (.one (.rm false true .sth))
  | 0x0F => some (.one (.rm true false .ldhu))
  | 0x10 => some (.fn3 [.m2 true false .lrw, .m3 true true .scw, .m3 true true .amoaddw, .m3 true true .amocasw])
  | _ => none

/-- The form of a SYS word (R339). -/
def sysForm (f : BitVec 11) : Option Form :=
  if f = 1 then some (.sys .nop)
  else if f = 2 then some (.sys .yield)
  else if f = 3 then some (.sys .taskdone)
  else if f = 4 then some (.sys .tret)
  else if f = 5 then some (.sys .pmret)
  else if f = 6 then some (.sys .halt)
  else if f = 7 then some (.sys .brk)
  else if f.toNat < 16 then some (.sys (.swt (f.extractLsb' 0 3).toFin))
  else if 0x100 ≤ f.toNat ∧ f.toNat < 0x150 then
    some (.sys (.fence (Fin.ofNat 5 (f.extractLsb' 4 3).toNat) (f.extractLsb' 0 4)))
  else none

/-- The form of a row that a base word selects (R335). -/
def Row.form (r : Row) (w : Half) : Option Form :=
  match r with
  | .one f => some f
  | .fn3 fs => fs[(w.extractLsb' 0 3).toNat]?
  | .fn7 lo hi =>
    let f := (w.extractLsb' 4 7).toNat
    if f < 0x40 then lo[f]? else hi[f - 0x40]?
  | .sys => sysForm (w.extractLsb' 0 11)

/-- The rows of a page. -/
def pageRow (page : Nat) (m : Nat) : Option Row :=
  match page with
  | 0 => row0 m
  | 1 => row1 m
  | 2 => row2 m
  | _ => row3 m

/-- The lookup of R335. -/
def lookup (page : Nat) (w : Half) : Except Reject Form :=
  if 4 ≤ page ∧ page ≤ 6 then .error .pageUnassigned
  else if page = 7 then .error .formNotInRevision
  else match pageRow page (major w).toNat with
    | none => .error .majorUnassigned
    | some r => match r.form w with
      | none => .error .minorUnassigned
      | some f => .ok f

/-- The page that the chain selects (R313, R336). -/
def selectPage (p : Pfx) (w : Half) : Except Reject Nat :=
  match p.page with
  | none => .ok 0
  | some x =>
    if x.extractLsb' 3 8 ≠ 0 ∨ x.extractLsb' 0 3 = 0 then .error .pageNumberInvalid
    else if 0x18 ≤ (major w).toNat then .error .pageNotAccepted
    else .ok (x.extractLsb' 0 3).toNat

/-- The check of the number of IMM prefixes (R313). -/
def checkImm (f : Form) (p : Pfx) : Except Reject Unit :=
  if p.imms.length > f.imax then .error (if f.imax = 0 then .immNotAccepted else .immOverflow) else .ok ()

/-- The check of the REG prefix and its payload (R313, R319, R345, R360): the payload is 0 without the prefix. -/
def checkReg (f : Form) (p : Pfx) : Except Reject (BitVec 11) :=
  if p.reg.isSome ∧ f.reg = false then .error .regNotAccepted
  else
    let x := p.reg.getD 0
    let t := x.getLsbD 10
    if t = false ∧ x.extractLsb' 4 6 ≠ 0 then .error .regPayloadReserved
    else if t = true ∧ f.third = .never then .error .regPayloadReserved
    else if t = false ∧ f.third = .required then .error .regPayloadReserved
    else if f.hasS = false ∧ x.extractLsb' 0 2 ≠ 0 then .error .regPayloadReserved
    else .ok x

/-- Whether a memory-view form accepts an ORDER (R362). -/
def orderOk (acq rel : Bool) (o : BitVec 2) : Bool := (acq || !o.getLsbD 0) && (rel || !o.getLsbD 1)

/-- The check of the MOD prefix and its payload (R313, R323). The result is the payload that stands for the fields
of R322: SCOPE 4 in the memory view when there is no prefix. -/
def checkMod (f : Form) (p : Pfx) : Except Reject (BitVec 11) :=
  match p.mod, f.view with
  | some _, .none => .error .modNotAccepted
  | none, .mem _ _ => .ok 4
  | none, _ => .ok 0
  | some x, .mem a r =>
    if 5 ≤ (x.extractLsb' 0 3).toNat ∨ x.extractLsb' 5 3 ≠ 0 then .error .scopeReserved
    else if orderOk a r (x.extractLsb' 3 2) = false then .error .orderReserved
    else if x.getLsbD 10 then .error .hintMustBeZero
    else .ok x
  | some x, .arith fmt rnd =>
    if (fmt = false ∧ x.extractLsb' 0 2 ≠ 0) ∨ x.extractLsb' 4 4 ≠ 0 then .error .formatReserved
    else if rnd = false ∧ x.extractLsb' 2 2 ≠ 0 then .error .roundingReserved
    else if x.getLsbD 10 then .error .hintMustBeZero
    else .ok x

/-- The operand fields of an RR, RI or RM word with a REG payload. -/
def fieldsOf (w : Half) (reg : BitVec 11) : Fields :=
  { rd := w.extractLsb' 7 4, dhi := reg.extractLsb' 2 2, rs := w.extractLsb' 3 4, shi := reg.extractLsb' 0 2
    rt := if reg.getLsbD 10 then some (reg.extractLsb' 4 6) else none }

/-- The operand fields of an RF word. -/
def fieldsRf (w : Half) (reg : BitVec 11) : Fields :=
  { fieldsOf w reg with rd := w.extractLsb' 0 4 }

/-- RD of a compare: with T = 1 it must be zero (R351, R352). -/
def cmpPos (zd : Bool) (x : Fields) : Except Reject GReg :=
  if zd && x.rt.isSome then (zPos x.dhi x.rd).map fun _ => 0 else gPos x.dhi x.rd

/-- The operand checks of R318, and the instruction that a form's fields give. `m` is the MOD payload in force. -/
def Form.build (f : Form) (w : Half) (imms : List (BitVec 11)) (reg m : BitVec 11) : Except Reject Instr :=
  let x := fieldsOf w reg
  let y := fieldsRf w reg
  match f with
  | .rr zd k => do
    let d ← cmpPos zd x; let s ← gPos x.shi x.rs; let t ← gThird x.rt
    return k { d, s, t, hints := hintsOf m }
  | .rr3 k => do
    let d ← gPos x.dhi x.rd; let s ← gPos x.shi x.rs; let t ← gThird! x.rt
    return k { d, s, t, hints := hintsOf m }
  | .rf k => do
    let d ← gPos y.dhi y.rd; let t ← gThird y.rt
    return k { d, t, hints := hintsOf m }
  | .d k => do
    let d ← gPos y.dhi y.rd
    return k { d, hints := hintsOf m }
  | .ret => do
    let _ ← zPos y.dhi y.rd
    return .ret (hintsOf m)
  | .ri zd k => do
    let d ← cmpPos zd x; let t ← gThird x.rt
    return k { d, imm := widen 29 imms (w.extractLsb' 0 7), t, hints := hintsOf m }
  | .li => do
    let d ← gPos x.dhi x.rd
    return .li { d, imm := widen 29 imms (w.extractLsb' 0 7), hints := hintsOf m }
  | .lea => do
    let d ← gPos x.dhi x.rd; let b ← gPos x.shi x.rs; let t ← gThird x.rt
    return .lea { d, b, disp := widen 25 imms (w.extractLsb' 0 3), t, hints := hintsOf m }
  | .loop => do
    let d ← gPos x.dhi x.rd
    return .loop { d, imm := widen 29 imms (w.extractLsb' 0 7) }
  | .bc => .ok (.bcc { cc := (w.extractLsb' 8 3).toFin, off := widen 30 imms (w.extractLsb' 0 8) })
  | .jl k => .ok (k (widen 33 imms (w.extractLsb' 0 11)))
  | .sys i => .ok i
  | .rm _ _ k => do
    let d ← gPos x.dhi x.rd; let b ← gPos x.shi x.rs; let t ← gThird x.rt
    return k { d, b, disp := widen 25 imms (w.extractLsb' 0 3), t, m := mModOf m }
  | .m2 _ _ k => do
    let d ← gPos x.dhi x.rd; let s ← gPos x.shi x.rs
    return k { d, s, m := mModOf m }
  | .m3 _ _ k => do
    let d ← gPos x.dhi x.rd; let s ← gPos x.shi x.rs; let t ← gThird! x.rt
    return k { d, s, t, m := mModOf m }
  | .mst k => do
    let _ ← zPos x.dhi x.rd; let s ← gPos x.shi x.rs; let t ← gThird! x.rt
    return k { s, t, m := mModOf m }
  | .m1d _ _ k => do
    let r ← gPos x.dhi x.rd; let _ ← zPos x.shi x.rs
    return k { r, m := mModOf m }
  | .m1s k => do
    let _ ← zPos x.dhi x.rd; let r ← gPos x.shi x.rs
    return k { r, m := mModOf m }
  | .mqd k => do
    let q ← qPos x.dhi x.rd; let r ← gPos x.shi x.rs
    return k { q, r, m := mModOf m }
  | .mqs _ _ k => do
    let r ← gPos x.dhi x.rd; let q ← qPos x.shi x.rs
    return k { q, r, m := mModOf m }
  | .mq1 k => do
    let q ← qPos x.dhi x.rd; let _ ← zPos x.shi x.rs
    return k { q, m := mModOf m }
  | .ds k => do
    let d ← gPos x.dhi x.rd; let s ← gPos x.shi x.rs
    return k { d, s }
  | .s1 k => do
    let _ ← zPos x.dhi x.rd; let s ← gPos x.shi x.rs
    return k s
  | .d1 k => do
    let d ← gPos x.dhi x.rd; let _ ← zPos x.shi x.rs
    return k d
  | .dst k => do
    let d ← gPos x.dhi x.rd; let s ← gPos x.shi x.rs; let t ← gThird! x.rt
    return k { d, s, t }
  | .zz i => do
    let _ ← zPos x.dhi x.rd; let _ ← zPos x.shi x.rs
    return i
  | .v2 _ k => do
    let d ← hPos x.dhi x.rd; let s ← hPos x.shi x.rs; let t ← hThird x.rt
    return k { d, s, t, m := aModOf m }
  | .v3 _ k => do
    let d ← hPos x.dhi x.rd; let s ← hPos x.shi x.rs; let t ← hThird! x.rt
    return k { d, s, t, m := aModOf m }
  | .v1 _ k => do
    let d ← hPos x.dhi x.rd; let s ← hPos x.shi x.rs
    return k { d, s, m := aModOf m }
  | .vf k => do
    let d ← hPos y.dhi y.rd; let t ← hThird y.rt
    return k { d, t, m := aModOf m }
  | .vg k => do
    let d ← hPos x.dhi x.rd; let s ← gPos x.shi x.rs; let t ← hThird! x.rt
    return k { d, s, t, m := aModOf m }
  | .vb => do
    let d ← hPos x.dhi x.rd; let s ← gPos x.shi x.rs
    return .vbcast { d, s, m := aModOf m }
  | .mma k => do
    let _ ← hPos x.dhi x.rd; let ha ← hPos x.shi x.rs; let hb ← hThird! x.rt
    return k { q := (x.rd.extractLsb' 0 2).toFin, keepA := x.rd.getLsbD 2, keepB := x.rd.getLsbD 3, ha, hb,
               m := aModOf m }
  | .mmrd => do
    let d ← hPos x.dhi x.rd; let q ← qPos x.shi x.rs
    return .mmrd { d, q, m := aModOf m }
  | .qg k => do
    let q ← qPos x.dhi x.rd; let s ← gPos x.shi x.rs
    return k { q, s, m := aModOf m }
  | .mmrc => do
    let d ← gPos x.dhi x.rd; let s ← gPos x.shi x.rs
    return .mmrc { d, s, m := aModOf m }
  | .hg k => do
    let h ← hPos x.dhi x.rd; let s ← gPos x.shi x.rs
    return k { h, s, m := aModOf m }
  | .gh k => do
    let s ← gPos x.dhi x.rd; let h ← hPos x.shi x.rs
    return k { h, s, m := aModOf m }
  | .runbind => do
    let h ← hPos x.dhi x.rd; let _ ← zPos x.shi x.rs
    return .runbind { h, m := aModOf m }
  | .advt =>
    match x.rt with
    | none => do
      let h ← hPos x.dhi x.rd; let s ← gPos x.shi x.rs
      return .advt { h, s, m := aModOf m }
    | some n => do
      let _ ← zPos x.dhi x.rd; let s ← gPos x.shi x.rs; let t ← gNum n.toNat
      return .advtRemote { s, t, m := aModOf m }
  | .bk k => do
    let d ← gPos y.dhi y.rd
    return k d
  | .bkz i => do
    let _ ← zPos y.dhi y.rd
    return i

/-- Decoding of a base word after its prefixes, in the order of R313. -/
def decodeBase (p : Pfx) (w : Half) : Except Reject Instr := do
  if w = 0 then throw .undefinedWord
  let page ← selectPage p w
  let f ← lookup page w
  checkImm f p
  let reg ← checkReg f p
  let m ← checkMod f p
  f.build w p.imms reg m

/-- A chain that does not decode: why, the word at which decoding stopped, and the prefixes before it (R313). -/
structure Rejection where
  why  : Reject
  word : Half
  npfx : Nat
deriving DecidableEq, Repr

/-- Decodes one chain from a list of words, after the prefixes already read: the instruction and the rest. -/
def decodeFrom (p : Pfx) : List Half → Except Rejection (Instr × List Half)
  | [] => .error ⟨.truncated, 0, p.n⟩
  | w :: ws =>
    match p.add w with
    | some (.ok p') => decodeFrom p' ws
    | some (.error e) => .error ⟨e, w, p.n⟩
    | none =>
      match decodeBase p w with
      | .ok i => .ok (i, ws)
      | .error e => .error ⟨e, w, p.n⟩

/-- Decodes one chain from a list of words. -/
def decode (ws : List Half) : Except Rejection (Instr × List Half) := decodeFrom {} ws

/-- Bytes as little-endian words (R311); an odd last byte is no word. -/
def wordsOf : List Byte → List Half
  | lo :: hi :: bs => (hi ++ lo) :: wordsOf bs
  | _ => []

/-- Words as little-endian bytes. -/
def bytesOf : List Half → List Byte
  | [] => []
  | w :: ws => w.extractLsb' 0 8 :: w.extractLsb' 8 8 :: bytesOf ws

/-- Decodes one chain from bytes in memory order. -/
def decodeBytes (bs : List Byte) : Except Rejection (Instr × List Half) := decode (wordsOf bs)

/-! ## The encoder -/

/-- The PAGE prefix of a form's page (R344). -/
def pageWords (page : BitVec 3) : List Half := if page = 0 then [] else [0x1E#5 ++ (0#8 ++ page)]

/-- The REG prefix, when a register needs a widened number or there is a third operand (R329). -/
def regWords (reg : BitVec 11) : List Half := if reg = 0 then [] else [0x1D#5 ++ reg]

/-- The MOD prefix of the arithmetic view. -/
def aModWords (m : BitVec 11) : List Half := if m = 0 then [] else [0x1F#5 ++ m]

/-- The MOD prefix of the memory view. -/
def mModWords (m : BitVec 11) : List Half := if m = 4 then [] else [0x1F#5 ++ m]

/-- The fewest IMM prefixes that hold a value whose base field has `w` bits (R329). -/
def immWords {n : Nat} (w : Nat) (v : BitVec n) : List Half :=
  if (v.setWidth w).signExtend n = v then []
  else if (v.setWidth (w + 11)).signExtend n = v then [0x1C#5 ++ v.extractLsb' w 11]
  else [0x1C#5 ++ v.extractLsb' (w + 11) 11, 0x1C#5 ++ v.extractLsb' w 11]

/-- The base field of a G register. -/
def gLow (r : GReg) : BitVec 4 := BitVec.ofNat 4 r.val

/-- The HI bits of a G register (R319). -/
def gHi (r : GReg) : BitVec 2 := BitVec.ofNat 2 (r.val / 16)

/-- The T and RT fields of a REG payload. -/
def rtG : Option GReg → BitVec 7
  | none => 0
  | some r => 1#1 ++ BitVec.ofNat 6 r.val

/-- The T and RT fields for a handle. -/
def rtH : Option HReg → BitVec 7
  | none => 0
  | some r => 1#1 ++ BitVec.ofNat 6 (r.val + 40)

/-- A REG payload from its parts (R319). -/
def regP (t : BitVec 7) (dhi shi : BitVec 2) : BitVec 11 := t ++ dhi ++ shi

/-- The HINT field with H2 clear. -/
def hintBits (h : Hints) : BitVec 3 := 0#1 ++ BitVec.ofBool h.h1 ++ BitVec.ofBool h.h0

/-- The MOD payload of an arithmetic view (R321). -/
def aModP (m : AMod) : BitVec 11 := hintBits m.hints ++ 0#4 ++ BitVec.ofNat 2 m.rnd.val ++ BitVec.ofNat 2 m.fsel.val

/-- The MOD payload of a memory view (R321). -/
def mModP (m : MMod) : BitVec 11 := hintBits m.hints ++ 0#3 ++ BitVec.ofNat 2 m.order.val ++ BitVec.ofNat 3 m.scope.val

/-- The MOD payload of hints alone. -/
def hintP (h : Hints) : BitVec 11 := aModP { hints := h }

/-- An RR base word (R317). -/
def wRR (m : BitVec 5) (fn : BitVec 3) (d s : BitVec 4) : Half := m ++ d ++ s ++ fn

/-- An RF base word. -/
def wRF (m : BitVec 5) (fn : BitVec 7) (d : BitVec 4) : Half := m ++ fn ++ d

/-- A low field of an immediate and a base word of RI. -/
def wRI (m : BitVec 5) (d : BitVec 4) (imm : BitVec 29) : Half := m ++ d ++ imm.extractLsb' 0 7

/-- A base word of RM. -/
def wRM (m : BitVec 5) (d b : BitVec 4) (disp : BitVec 25) : Half := m ++ d ++ b ++ disp.extractLsb' 0 3

def encRR (m : BitVec 5) (fn : BitVec 3) (o : OpRR) : List Half :=
  regWords (regP (rtG o.t) (gHi o.d) (gHi o.s)) ++ aModWords (hintP o.hints) ++ [wRR m fn (gLow o.d) (gLow o.s)]

def encRR3 (m : BitVec 5) (fn : BitVec 3) (o : OpRR3) : List Half :=
  regWords (regP (rtG (some o.t)) (gHi o.d) (gHi o.s)) ++ aModWords (hintP o.hints) ++ [wRR m fn (gLow o.d) (gLow o.s)]

def encRF (fn : BitVec 7) (o : OpRF) : List Half :=
  regWords (regP (rtG o.t) (gHi o.d) 0) ++ aModWords (hintP o.hints) ++ [wRF 0x05 fn (gLow o.d)]

def encD (fn : BitVec 7) (o : OpD) : List Half :=
  regWords (regP 0 (gHi o.d) 0) ++ aModWords (hintP o.hints) ++ [wRF 0x05 fn (gLow o.d)]

def encRI (page : BitVec 3) (m : BitVec 5) (o : OpRI) : List Half :=
  pageWords page ++ regWords (regP (rtG o.t) (gHi o.d) 0) ++ immWords 7 o.imm ++ aModWords (hintP o.hints)
    ++ [wRI m (gLow o.d) o.imm]

def encLI (o : OpLI) : List Half :=
  regWords (regP 0 (gHi o.d) 0) ++ immWords 7 o.imm ++ aModWords (hintP o.hints) ++ [wRI 0x07 (gLow o.d) o.imm]

def encLea (o : OpLea) : List Half :=
  regWords (regP (rtG o.t) (gHi o.d) (gHi o.b)) ++ immWords 3 o.disp ++ aModWords (hintP o.hints)
    ++ [wRM 0x0F (gLow o.d) (gLow o.b) o.disp]

def encLoop (o : OpLoop) : List Half :=
  regWords (regP 0 (gHi o.d) 0) ++ immWords 7 o.imm ++ [wRI 0x1B (gLow o.d) o.imm]

def encBC (o : OpBC) : List Half :=
  immWords 8 o.off ++ [0x18#5 ++ BitVec.ofNat 3 o.cc.val ++ o.off.extractLsb' 0 8]

def encJL (m : BitVec 5) (off : BitVec 33) : List Half := immWords 11 off ++ [m ++ off.extractLsb' 0 11]

def encMem (page : BitVec 3) (m : BitVec 5) (o : OpMem) : List Half :=
  pageWords page ++ regWords (regP (rtG o.t) (gHi o.d) (gHi o.b)) ++ immWords 3 o.disp ++ mModWords (mModP o.m)
    ++ [wRM m (gLow o.d) (gLow o.b) o.disp]

def encM2 (page : BitVec 3) (m : BitVec 5) (fn : BitVec 3) (o : OpM2) : List Half :=
  pageWords page ++ regWords (regP 0 (gHi o.d) (gHi o.s)) ++ mModWords (mModP o.m) ++ [wRR m fn (gLow o.d) (gLow o.s)]

def encM3 (page : BitVec 3) (m : BitVec 5) (fn : BitVec 3) (o : OpM3) : List Half :=
  pageWords page ++ regWords (regP (rtG (some o.t)) (gHi o.d) (gHi o.s)) ++ mModWords (mModP o.m)
    ++ [wRR m fn (gLow o.d) (gLow o.s)]

def encMst (o : OpMst) : List Half :=
  regWords (regP (rtG (some o.t)) 0 (gHi o.s)) ++ mModWords (mModP o.m) ++ [wRR 0x11 5 0 (gLow o.s)]

def encM1d (page : BitVec 3) (m : BitVec 5) (fn : BitVec 3) (o : OpM1) : List Half :=
  pageWords page ++ regWords (regP 0 (gHi o.r) 0) ++ mModWords (mModP o.m) ++ [wRR m fn (gLow o.r) 0]

def encM1s (page : BitVec 3) (m : BitVec 5) (fn : BitVec 3) (o : OpM1) : List Half :=
  pageWords page ++ regWords (regP 0 0 (gHi o.r)) ++ mModWords (mModP o.m) ++ [wRR m fn 0 (gLow o.r)]

def encMQd (m : BitVec 5) (fn : BitVec 3) (o : OpMQ) : List Half :=
  regWords (regP 0 0 (gHi o.r)) ++ mModWords (mModP o.m) ++ [wRR m fn (BitVec.ofNat 4 o.q.val) (gLow o.r)]

def encMQs (m : BitVec 5) (fn : BitVec 3) (o : OpMQ) : List Half :=
  regWords (regP 0 (gHi o.r) 0) ++ mModWords (mModP o.m) ++ [wRR m fn (gLow o.r) (BitVec.ofNat 4 o.q.val)]

def encMQ1 (m : BitVec 5) (fn : BitVec 3) (o : OpMQ1) : List Half :=
  mModWords (mModP o.m) ++ [wRR m fn (BitVec.ofNat 4 o.q.val) 0]

def encDS (m : BitVec 5) (fn : BitVec 3) (o : OpDS) : List Half :=
  regWords (regP 0 (gHi o.d) (gHi o.s)) ++ [wRR m fn (gLow o.d) (gLow o.s)]

def encV2 (m : BitVec 5) (fn : BitVec 3) (o : OpV2) : List Half :=
  pageWords 1 ++ regWords (regP (rtH o.t) 0 0) ++ aModWords (aModP o.m)
    ++ [wRR m fn (BitVec.ofNat 4 o.d.val) (BitVec.ofNat 4 o.s.val)]

def encV3 (m : BitVec 5) (fn : BitVec 3) (o : OpV3) : List Half :=
  pageWords 1 ++ regWords (regP (rtH (some o.t)) 0 0) ++ aModWords (aModP o.m)
    ++ [wRR m fn (BitVec.ofNat 4 o.d.val) (BitVec.ofNat 4 o.s.val)]

def encV1 (m : BitVec 5) (fn : BitVec 3) (o : OpV1) : List Half :=
  pageWords 1 ++ aModWords (aModP o.m) ++ [wRR m fn (BitVec.ofNat 4 o.d.val) (BitVec.ofNat 4 o.s.val)]

def encVF (fn : BitVec 7) (o : OpVF) : List Half :=
  pageWords 1 ++ regWords (regP (rtH o.t) 0 0) ++ aModWords (aModP o.m) ++ [wRF 0x06 fn (BitVec.ofNat 4 o.d.val)]

def encVG (fn : BitVec 3) (o : OpVG) : List Half :=
  pageWords 1 ++ regWords (regP (rtH (some o.t)) 0 (gHi o.s)) ++ aModWords (aModP o.m)
    ++ [wRR 0x05 fn (BitVec.ofNat 4 o.d.val) (gLow o.s)]

def encVB (o : OpVB) : List Half :=
  pageWords 1 ++ regWords (regP 0 0 (gHi o.s)) ++ aModWords (aModP o.m) ++ [wRR 0x05 7 (BitVec.ofNat 4 o.d.val) (gLow o.s)]

/-- The ACC field of MMA and MMAS (R404). -/
def accField (o : OpMma) : BitVec 4 := BitVec.ofBool o.keepB ++ BitVec.ofBool o.keepA ++ BitVec.ofNat 2 o.q.val

def encMma (fn : BitVec 3) (o : OpMma) : List Half :=
  pageWords 2 ++ regWords (regP (rtH (some o.hb)) 0 0) ++ aModWords (aModP o.m)
    ++ [wRR 0x01 fn (accField o) (BitVec.ofNat 4 o.ha.val)]

def encMmrd (o : OpMmrd) : List Half :=
  pageWords 2 ++ aModWords (aModP o.m) ++ [wRR 0x01 2 (BitVec.ofNat 4 o.d.val) (BitVec.ofNat 4 o.q.val)]

def encQG (fn : BitVec 3) (o : OpQG) : List Half :=
  pageWords 2 ++ regWords (regP 0 0 (gHi o.s)) ++ aModWords (aModP o.m)
    ++ [wRR 0x01 fn (BitVec.ofNat 4 o.q.val) (gLow o.s)]

def encGG (fn : BitVec 3) (o : OpGG) : List Half :=
  pageWords 2 ++ regWords (regP 0 (gHi o.d) (gHi o.s)) ++ aModWords (aModP o.m)
    ++ [wRR 0x01 fn (gLow o.d) (gLow o.s)]

def encHG (fn : BitVec 3) (o : OpHG) : List Half :=
  pageWords 2 ++ regWords (regP 0 0 (gHi o.s)) ++ aModWords (aModP o.m)
    ++ [wRR 0x04 fn (BitVec.ofNat 4 o.h.val) (gLow o.s)]

def encGH (fn : BitVec 3) (o : OpHG) : List Half :=
  pageWords 2 ++ regWords (regP 0 (gHi o.s) 0) ++ aModWords (aModP o.m)
    ++ [wRR 0x04 fn (gLow o.s) (BitVec.ofNat 4 o.h.val)]

def encH (fn : BitVec 3) (o : OpH) : List Half :=
  pageWords 2 ++ aModWords (aModP o.m) ++ [wRR 0x04 fn (BitVec.ofNat 4 o.h.val) 0]

def encAdvtR (o : OpAdvtR) : List Half :=
  pageWords 2 ++ regWords (regP (rtG (some o.t)) 0 (gHi o.s)) ++ aModWords (aModP o.m) ++ [wRR 0x04 5 0 (gLow o.s)]

def encSys (f : BitVec 11) : List Half := [0#5 ++ f]

def encBk (fn : BitVec 7) (d : BitVec 4) : List Half := pageWords 2 ++ [wRF 0x05 fn d]

/-- The words of a well-formed instruction in the assembler's order of prefixes (R329). An event has none. BKINFO
and BKSTEP take no REG prefix, so a destination past s7 has no encoding. -/
def encode : Instr → List Half
  | .nop => encSys 1 | .yield => encSys 2 | .taskdone => encSys 3 | .tret => encSys 4 | .pmret => encSys 5
  | .halt => encSys 6 | .brk => encSys 7
  | .swt n => encSys (1#8 ++ BitVec.ofNat 3 n.val)
  | .fence s k => encSys (2#4 ++ BitVec.ofNat 3 s.val ++ k)
  | .add o => encRR 1 0 o | .sub o => encRR 1 1 o | .and o => encRR 1 2 o | .or o => encRR 1 3 o
  | .xor o => encRR 1 4 o | .shl o => encRR 1 5 o | .shr o => encRR 1 6 o | .sar o => encRR 1 7 o
  | .addc o => encRR 2 0 o | .subc o => encRR 2 1 o | .mul o => encRR 2 2 o | .mulh o => encRR 2 3 o
  | .mulhu o => encRR 2 4 o | .div o => encRR 2 5 o | .divu o => encRR 2 6 o | .rem o => encRR 2 7 o
  | .remu o => encRR 3 0 o | .min o => encRR 3 1 o | .max o => encRR 3 2 o | .minu o => encRR 3 3 o
  | .maxu o => encRR 3 4 o | .rol o => encRR 3 5 o | .ror o => encRR 3 6 o | .andn o => encRR 3 7 o
  | .cmp o => encRR 4 0 o | .tst o => encRR 4 1 o | .bfx o => encRR 4 2 o | .bfxu o => encRR 4 3 o
  | .bfi o => encRR3 4 4 o | .selz o => encRR 4 5 o | .seln o => encRR 4 6 o | .selc o => encRR 4 7 o
  | .mov o => encRF 0 o | .neg o => encRF 1 o | .not o => encRF 2 o | .clz o => encRF 3 o | .ctz o => encRF 4 o
  | .popc o => encRF 5 o | .brev o => encRF 6 o | .bswap o => encRF 7 o | .sextb o => encRF 8 o
  | .sexth o => encRF 9 o | .sextw o => encRF 10 o | .zextb o => encRF 11 o | .zexth o => encRF 12 o
  | .zextw o => encRF 13 o
  | .jr o => encD 0x40 o | .callr o => encD 0x41 o | .ret h => aModWords (hintP h) ++ [wRF 0x05 0x42 0]
  | .movpc o => encD 0x43 o
  | .addi o => encRI 0 0x06 o | .li o => encLI o | .cmpi o => encRI 0 0x08 o | .andi o => encRI 0 0x09 o
  | .ori o => encRI 3 0x06 o | .xori o => encRI 3 0x07 o
  | .lea o => encLea o | .bcc o => encBC o | .j off => encJL 0x19 off | .call off => encJL 0x1A off
  | .loop o => encLoop o
  | .ldd o => encMem 0 0x0A o | .ldw o => encMem 0 0x0B o | .ldwu o => encMem 0 0x0C o | .std o => encMem 0 0x0D o
  | .stw o => encMem 0 0x0E o | .ldb o => encMem 3 0x0A o | .ldbu o => encMem 3 0x0B o | .ldh o => encMem 3 0x0C o
  | .ldhu o => encMem 3 0x0F o | .stb o => encMem 3 0x0D o | .sth o => encMem 3 0x0E o
  | .lr o => encM2 0 0x10 0 o | .sc o => encM3 0 0x10 1 o | .amoadd o => encM3 0 0x10 2 o
  | .amoand o => encM3 0 0x10 3 o | .amoor o => encM3 0 0x10 4 o | .amoxor o => encM3 0 0x10 5 o
  | .amomax o => encM3 0 0x10 6 o | .amomin o => encM3 0 0x10 7 o
  | .amoumax o => encM3 0 0x11 0 o | .amoumin o => encM3 0 0x11 1 o | .amoxchg o => encM3 0 0x11 2 o
  | .amocas o => encM3 0 0x11 3 o | .famoadd o => encM3 0 0x11 4 o | .accadd o => encMst o
  | .accrd o => encM3 0 0x11 6 o | .siginc o => encM2 0 0x11 7 o
  | .waitge o => encM2 0 0x12 0 o | .wrs o => encM1d 0 0x12 1 o | .append o => encM3 0 0x12 2 o
  | .recv o => encM2 0 0x12 3 o | .tagwait o => encM2 0 0x12 4 o | .tagtest o => encM2 0 0x12 5 o
  | .mbput o => encMQd 0x12 6 o | .mbtake o => encMQs 0x12 7 o
  | .barinit o => encMQd 0x13 0 o | .bararv o => encMQ1 0x13 1 o | .barwait o => encMQs 0x13 2 o
  | .lock o => encM2 0 0x13 3 o | .unlock o => encM1s 0 0x13 4 o
  | .lrw o => encM2 3 0x10 0 o | .scw o => encM3 3 0x10 1 o | .amoaddw o => encM3 3 0x10 2 o
  | .amocasw o => encM3 3 0x10 3 o
  | .srr o => encDS 0x16 0 o | .srw o => encDS 0x16 1 o
  | .taskpush s => regWords (regP 0 0 (gHi s)) ++ [wRR 0x16 2 0 (gLow s)]
  | .taskpop o => encDS 0x16 3 o | .sleep o => encDS 0x16 4 o | .tmset o => encDS 0x16 5 o
  | .tmrd d => regWords (regP 0 (gHi d) 0) ++ [wRR 0x16 6 (gLow d) 0]
  | .hcall o => encDS 0x16 7 o
  | .fspawn o => regWords (regP (rtG (some o.t)) (gHi o.d) (gHi o.s)) ++ [wRR 0x17 0 (gLow o.d) (gLow o.s)]
  | .fexit => [wRR 0x17 1 0 0]
  | .vadd o => encV2 1 0 o | .vsub o => encV2 1 1 o | .vmul o => encV2 1 2 o | .vfma o => encV3 1 3 o
  | .vmin o => encV2 1 4 o | .vmax o => encV2 1 5 o | .vabs o => encV1 1 6 o | .vneg o => encV1 1 7 o
  | .vcmpeq o => encV2 2 0 o | .vcmplt o => encV2 2 1 o | .vcmple o => encV2 2 2 o | .vsel o => encV3 2 3 o
  | .viadd o => encV2 2 4 o | .visub o => encV2 2 5 o | .vimul o => encV2 2 6 o | .vishl o => encV2 2 7 o
  | .vand o => encV2 3 0 o | .vor o => encV2 3 1 o | .vxor o => encV2 3 2 o | .vishr o => encV2 3 3 o
  | .visar o => encV2 3 4 o | .vimin o => encV2 3 5 o | .vimax o => encV2 3 6 o | .viabs o => encV1 3 7 o
  | .vcvt o => encV1 4 0 o | .vquant o => encV1 4 1 o | .vdequant o => encV1 4 2 o | .vcvti o => encV1 4 3 o
  | .vcvtf o => encV1 4 4 o
  | .vrsum o => encV1 5 0 o | .vrmax o => encV1 5 1 o | .vrmin o => encV1 5 2 o | .vscan o => encV2 5 3 o
  | .vperm o => encV2 5 4 o | .vgather o => encVG 5 o | .vscatter o => encVG 6 o | .vbcast o => encVB o
  | .vexp2 o => encVF 0 o | .vlog2 o => encVF 1 o | .vrcp o => encVF 2 o | .vrsq o => encVF 3 o
  | .mma o => encMma 0 o | .mmas o => encMma 1 o | .mmrd o => encMmrd o | .mmclr o => encQG 3 o
  | .mmrc o => encGG 4 o | .skset o => encQG 5 o
  | .cpy o => encM2 2 2 0 o | .cpyt o => encM2 2 2 1 o | .cpyg o => encM2 2 2 2 o | .cpym o => encM2 2 2 3 o
  | .shld o => encM2 2 2 4 o | .stash o => encM2 2 2 5 o | .restore o => encM2 2 2 6 o
  | .cstart o => encM2 2 3 0 o | .trput o => encM1s 2 3 1 o | .trget o => encM1d 2 3 2 o
  | .rbind o => encHG 0 o | .runbind o => encH 1 o | .awaitf o => encHG 2 o | .awaite o => encHG 3 o
  | .advh o => encHG 4 o | .advt o => encHG 5 o | .advtRemote o => encAdvtR o | .rstat o => encGH 6 o
  | .bkinfo d => encBk 0 (gLow d) | .bkstep d => encBk 1 (gLow d) | .bkgo => encBk 2 0 | .bkpause => encBk 3 0
  | _ => []

/-! ## The table's words -/

/-- The words of an opcode-table number, in memory order: the table writes a chain's words from the most significant
down, so a number whose upper half is a prefix is read upper half first; another is read lower half first. -/
def tableWords (nbits w : Nat) : List Half :=
  let lo : Half := BitVec.ofNat 16 w
  let hi : Half := BitVec.ofNat 16 (w / 2 ^ 16)
  if nbits ≤ 16 then [lo]
  else if 0x1C ≤ (major hi).toNat then [hi, lo]
  else [lo, hi]

/-- The instruction that an opcode-table number decodes to, with words of zeros above it. -/
def decodeTableWord (nbits w : Nat) : Option Instr :=
  match decode (tableWords nbits w ++ [0, 0, 0, 0]) with
  | .ok (i, _) => some i
  | .error _ => none

end Sys2Proof
end

