-- ==== Sys2Proof/Machine/Sync.lean ====
section
/-! DEFINITION. Waits on counters, messages, the inbox, tags, mailboxes, barriers and cache locks
(spec/16_isa_memory_sync.md R371–R382; spec/07_core_and_fibres.md R190–R192).
Log entries: 14, 30, 31, 33, 45 (DEDUCED). -/

namespace Sys2Proof.Machine

/-! ## WAITGE (R242, R243, R371) -/

/-- The watch that a WAITGE leaves at its counter's home (R242). -/
def waitgeWatch (s : State) (va : VAddr) (key : Nat) (t : BitVec 32) : Watch :=
  { core := s.L, fibre := s.fibre, shadow := s.onShadow, key, size := 4, target := some t, va }

/-- WAITGE: it completes on the value at issue; otherwise the home tests each value written. A fibre that keeps its slot takes
the value bound at the write that ended the wait; one that left it binds afresh (R242). -/
def execWaitge (o : OpM2) (s : State) : Host.Outcome State Fault Refusal :=
  finish s do
    let va := s.addrG o.s
    let t := (s.getG o.d).setWidth 32
    aligned va 4 0
    let l ← resolve s (s.party s.L) va .read
    match l.home with
    | .control _ => trap0 0x0AD
    | _ =>
      let v := BitVec.ofNat 32 (← loadValue s l va 4 true)
      let mine (w : Watch) : Bool := w.armed s.L s.fibre s.onShadow true
      let s' := { s with watches := s.watches.filter (!mine ·) }
      match (s.watches.find? fun w => mine w && w.key == l.key && w.target == some t && !s.worker).bind (·.done) with
      | some v => return s'.bind l va o.d v
      | none =>
        if reached v t then return s'.bind l va o.d (v.setWidth 64)
        else return { s' with watches := s'.watches ++ [waitgeWatch s va l.key t] }.waitFor (.counter l.key t)

/-! ## Messages to a core (R372–R375) -/

/-- The checks of R372 at issue. -/
def msgTarget (s : State) (id : CoreId) : Chk Unit := do
  need (namesCore s id) 0x0B0
  match s.localCore id with
  | some T => need (inCtx s (some s.myCtx) (clusterOf T)) 0x0B1
  | none => return ()

/-- Puts a message of the issuing fibre on its way inside the module, uncounted. -/
def State.queueMsg (s : State) (id : CoreId) (body : MsgBody) : State :=
  let m : Msg := { id := s.nextId, src := s.myId, dst := id, ctx := s.myCtx, fibre := s.fibre, pc := s.cur.pc, cycle := s.now, body }
  { s with nextId := s.nextId + 1, msgs := s.msgs ++ [m] }

/-- Sends a message to the core an identifier names; one to the issuing core itself is not counted (R292). -/
def State.sendTo (s : State) (id : CoreId) (body : MsgBody) : State :=
  match s.localCore id with
  | some T =>
    if T = s.L then s.queueMsg id body
    else s.send id body
  | none => s.sendOut id body

def execSiginc (o : OpM2) (s : State) : Host.Outcome State Fault Refusal :=
  finish s do
    let t := s.getG o.s
    let id := t.extractLsb' 0 32
    msgTarget s id
    let off := t.extractLsb' 32 18
    need (t.extractLsb' 50 14 = 0 ∧ off.toNat % 4 = 0) 0x0B3
    writeGo s noGran true
    return (s.sendTo id (.siginc off ((s.getG o.d).setWidth 32))).advance

/-- The values of `n` registers from r. -/
def State.getRegs (s : State) (r n : Nat) : List Word :=
  (List.range n).map fun i => if h : r + i < 40 then s.getG ⟨r + i, h⟩ else 0

/-- Writes registers from r, in order. -/
def State.setRegs (s : State) (lat r : Nat) (ws : List Word) : State :=
  match ws with
  | [] => s
  | w :: rest => (if h : r < 40 then s.setG lat ⟨r, h⟩ w else s).setRegs lat (r + 1) rest

/-- A group of n registers from r stays among a0–a7 or s0–s31 (R375). -/
def regGroup (r n : Nat) : Bool := if r ≤ 7 then decide (r + n ≤ 8) else decide (r + n ≤ 40)

/-- The issuing fibre waits for the status of a request, which a later message brings. -/
def State.awaitStatus (s : State) (d : GReg) : State :=
  ((s.setPend { dst := some d, pc := s.cur.pc }).advance.setReason 0x15A).park .status (privateDest (some d))

def execAppend (o : OpM3) (s : State) : Host.Outcome State Fault Refusal :=
  finish s do
    let t := s.getG o.s
    let n := (t.extractLsb' 32 4).toNat
    need (t.extractLsb' 36 28 = 0 ∧ 1 ≤ n ∧ n ≤ 8 ∧ regGroup o.t.val n) 0x0B4
    let id := t.extractLsb' 0 32
    msgTarget s id
    writeGo s noGran true
    return (s.sendTo id (.append (s.getRegs o.t.val n))).awaitStatus o.d

/-! ## Waits served in order (R190, R376, R386) -/

/-- Paused instructions of a core's engines that name one of the descriptors (R386). -/
def pausedOn (l : List EngineOp) (descs : List Nat) : Bool := l.any fun o => o.descs.any descs.contains

/-- An engine instruction of the core, in flight or paused, names a descriptor. -/
def Core.opNames (c : Core) (d : Nat) : Bool := pausedOn (c.vec.toList ++ c.mat.toList ++ c.vecPaused ++ c.matPaused) [d]

/-- Two waits stand in one line. -/
def Wait.sameLine (w v : Wait) : Bool :=
  match w, v with
  | .engine m _, .engine n _ => m == n
  | _, _ => w == v

/-- A plane of a core as it waits in a line: its fibre, whether it is the shadow plane, its status, when its wait began, and the wait
that has just ended. -/
structure Waiter where
  fibre  : Nat
  shadow : Bool
  status : Status
  since  : Nat
  wake   : Option Wait
deriving DecidableEq, Repr

/-- The planes of a core: its fibres, and a handler that runs (R300). -/
def Core.planes (c : Core) : List Waiter :=
  c.fibres.map (fun (f, x) => { fibre := f, shadow := false, status := x.status, since := x.since, wake := x.wake })
    ++ (if c.handler.isSome then [{ fibre := 0, shadow := true, status := c.shadowSt, since := c.shadowSince, wake := c.shadowWake }] else [])

/-- A plane waits in a wait's line. What waits for an engine but names a ring of a paused instruction lets others go before (R386). -/
def Core.inLine (c : Core) (w : Wait) (p : Waiter) : Bool :=
  match p.status with
  | .waiting v => w.sameLine v && (match v with | .engine _ ds => !pausedOn (c.vecPaused ++ c.matPaused) ds | _ => true)
  | _ => false

/-- A wait's end has made a plane ready, and its instruction has not been executed again. -/
def Core.called (c : Core) (w : Wait) (p : Waiter) : Bool :=
  p.wake.any w.sameLine && (match w with | .engine .. => p.status == .ready && (p.shadow || (c.slotOf p.fibre).isSome) | _ => true)

/-- Planes of a core other than `f`'s that a wait's end has just made ready. -/
def Core.woken (c : Core) (f : Nat) (shadow : Bool) (w : Wait) : Nat :=
  (c.planes.filter fun p => !(p.fibre == f && p.shadow == shadow) && c.called w p).length

/-- Planes of a core that wait. -/
def Core.waiters (c : Core) (w : Wait) : Nat := (c.planes.filter (c.inLine w)).length

/-- The issuing plane is served now: `free` items are free, and earlier waits come first. -/
def State.served (s : State) (w : Wait) (free : Nat) : Bool :=
  if s.wake.any w.sameLine then decide (1 ≤ free)
  else decide (s.here.waiters w = 0) && decide (s.here.woken s.fibre s.onShadow w < free)

/-! ## The inbox (R374, R376) -/

def Core.inEn (c : Core) : Bool := c.inbox.getLsbD 0
def Core.inCount (c : Core) : Nat := (c.inTail - c.inHead).toNat

/-- The address by which a core names an offset of its own TCM (R210): RECV's load of an entry has no other (log entry 33). -/
def localVa (off : Nat) : VAddr := BitVec.ofNat 56 (0xFF * 2 ^ 48 + off)

/-- Key of the entry with a free-running number. -/
def inEntry (c : Core) (L : Nat) (i : BitVec 32) : Nat := tcmKey L (c.inBase + 128 * (i.toNat % 2 ^ c.inLog2))

def execRecv (o : OpM2) (s : State) : Host.Outcome State Fault Refusal :=
  finish s do
    let c := s.here
    need c.inEn 0x0B6
    need (o.d.val = 0 ∨ (8 ≤ o.d.val ∧ o.d.val ≤ 32)) 0x0B9
    need (!(decide (o.d.val ≤ o.s.val) && decide (o.s.val ≤ o.d.val + 7))) 0x00A
    let k := inEntry c s.L c.inHead
    readGo s ⟨k, .tcm s.L⟩ 128 true
    if !s.served .inbox c.inCount then wait .inbox
    watchRange s (localVa (k - tcmKey s.L 0)) 69 true false
    let ws := (List.range 8).map fun i => BitVec.ofNat 64 (s.viewN s.L (k + 8 * i) 8)
    let from_ : Word := BitVec.ofNat 64 (s.viewN s.L (k + 64) 4 + s.viewN s.L (k + 68) 1 * 2 ^ 32)
    let s' := (s.setRegs loadLat o.d.val ws).setG loadLat o.s from_
    return (s'.modHere fun c => { c with inHead := c.inHead + 1 }).advance

/-! ## Tags (R377, R378) -/

/-- The status of a tag. -/
def Core.tagStatus (c : Core) (i : Nat) : BitVec 11 := spGet c.tagst i 0

/-- A failed tag whose cause traps a tag wait: not of the poison group. -/
def tagTraps (x : BitVec 11) : Bool := x.getLsbD 9 && (x.extractLsb' 4 5 != 18)

/-- The named tags that failed or wrote poison. -/
def Core.tagMask (c : Core) (m : Word) : Word :=
  BitVec.ofNat 64 ((List.range 64).foldl (init := 0) fun a i =>
    if m.getLsbD i && ((c.tagStatus i).getLsbD 9 || (c.tagStatus i).getLsbD 10) then a + 2 ^ i else a)

def execTagwait (o : OpM2) (s : State) : Host.Outcome State Fault Refusal :=
  finish s do
    let m := s.getG o.s
    let c := s.here
    if c.tags &&& m != m then wait (.tags m)
    readAny s true
    match (List.range 64).find? fun i => m.getLsbD i && tagTraps (c.tagStatus i) with
    | some i => .error (.trap ((c.tagStatus i).setWidth 9) (spGet c.tagAddr i 0) (BitVec.ofNat 64 i) true)
    | none => return s.result 1 o.d (c.tagMask m)

def execTagtest (o : OpM2) (s : State) : Host.Outcome State Fault Refusal :=
  .next (s.result 1 o.d (s.here.tags &&& s.getG o.s))

/-- Clears a tag at the issue of its operation (R377). -/
def State.clearTag (s : State) (L : Nat) (i : Fin 64) : State :=
  s.modCore L fun c => { c with tags := c.tags &&& ~~~(1#64 <<< i.val) }

/-- Writes a tag's status, and the detail address of a failure (R286), then sets the tag (R377); the task that owns it no longer waits
for it (R431). -/
def State.setTag (s : State) (L : Nat) (i : Fin 64) (cause : Cause) (fail pois : Bool) (addr : Word := 0) : State :=
  s.modCore L fun c =>
    { c with tags := c.tags ||| (1#64 <<< i.val)
             tagst := spPut c.tagst i.val (BitVec.ofBool pois ++ BitVec.ofBool fail ++ cause)
             tagAddr := spPut c.tagAddr i.val addr
             tasks := c.tasks.map fun t => { t with tags := t.tags.filter (· ≠ i) } }

/-! ## Mailboxes (R190, R379) -/

/-- The first register of eight: a0 or s0–s24. -/
def mailRegs (r : GReg) : Bool := r.val == 0 || (decide (8 ≤ r.val) && decide (r.val ≤ 32))

/-- The words of eight registers. -/
def State.eightRegs (s : State) (r : Nat) : Vector Word 8 := Vector.ofFn fun i => (s.getRegs r 8).getD i.val 0

def execMbput (o : OpMQ) (s : State) : Host.Outcome State Fault Refusal :=
  finish s do
    need (mailRegs o.r) 0x0BB
    need (s.slot ≠ 7) 0x0BA
    let full := (s.here.mb.get o.q).full
    if !s.served (.mailboxEmpty o.q) (if full then 0 else 1) then wait (.mailboxEmpty o.q)
    let m : Mailbox := { words := s.eightRegs o.r.val, full := true, fibre := s.fibre, task := s.me.task }
    return (s.modHere fun c => { c with mb := c.mb.set o.q m }).advance

/-- Every mailbox is empty (R192). -/
def Core.mailEmpty (c : Core) : Bool := c.mb.toList.all (!·.full)

/-- MBTAKE; a courier that waits with every mailbox empty starts again at a new CORE_COURIER (R192). -/
def execMbtake (o : OpMQ) (s : State) : Host.Outcome State Fault Refusal :=
  finish s do
    need (mailRegs o.r) 0x0BB
    need (s.slot = 7) 0x0BA
    let m := s.here.mb.get o.q
    if !m.full then
      if s.here.courierNext.isSome && s.here.mailEmpty then return restartCourier s s.L else wait (.mailboxFull o.q)
    let s' := s.modHere fun c => { c with mb := c.mb.set o.q { m with full := false }, courierTask := m.task, courierDead := false }
    return (s'.setRegs 1 o.r.val m.words.toList).advance

/-! ## Barriers (R380, R381) -/

def Barrier.row0 (b : Barrier) : Nat := (b.desc.extractLsb' 0 4).toNat
def Barrier.col0 (b : Barrier) : Nat := (b.desc.extractLsb' 4 6).toNat
def Barrier.rows (b : Barrier) : Nat := (b.desc.extractLsb' 10 5).toNat
def Barrier.cols (b : Barrier) : Nat := (b.desc.extractLsb' 15 6).toNat

/-- A place of the die is a member. -/
def Barrier.has (b : Barrier) (r c : Nat) : Bool :=
  decide (b.row0 ≤ r) && decide (r < b.row0 + b.rows) && decide (b.col0 ≤ c) && decide (c < b.col0 + b.cols)

/-- CORE_BAR (R380). -/
def Barrier.word (b : Barrier) : Word := (b.cg ++ b.ag ++ 0#11 ++ b.desc : BitVec 64)

/-- Clusters of the die that a rectangle touches, as offsets within the die. -/
def Barrier.clusters (b : Barrier) (d : Nat) : List Nat :=
  (List.range b.rows).flatMap fun i => (List.range b.cols).map fun j => clusterOf (leaf d (b.row0 + i) (b.col0 + j))

def execBarinit (o : OpMQ) (s : State) : Host.Outcome State Fault Refusal :=
  finish s do
    let d := s.getG o.r
    let n : Barrier := { desc := d.setWidth 21 }
    need (n.rows ≠ 0 ∧ n.cols ≠ 0) 0x0C1
    need (d.extractLsb' 21 43 = 0 ∧ n.row0 + n.rows ≤ 16 ∧ n.col0 + n.cols ≤ 48) 0x0C8
    need (n.has (rowOf s.L) (colOf s.L)) 0x0C2
    need ((n.clusters (dieOf s.L)).all (inCtx s (some s.myCtx))) 0x0C7
    let b := s.here.bar.get o.q
    need (b.ag = b.cg) 0x0C6
    let b' : Barrier := { b with desc := n.desc, ag := 0, cg := 0, bad := false }
    return (s.modHere fun c => { c with bar := c.bar.set o.q b' }).advance

def execBararv (o : OpMQ1) (s : State) : Host.Outcome State Fault Refusal :=
  finish s do
    let b := s.here.bar.get o.q
    need (b.rows ≠ 0) 0x0C0
    need (b.ag = b.cg) 0x0CA
    writeGo s noGran true
    let b' : Barrier := { b with ag := b.ag + 1, sent := false }
    return (s.modHere fun c => { c with bar := c.bar.set o.q b' }).advance

def execBarwait (o : OpMQ) (s : State) : Host.Outcome State Fault Refusal :=
  finish s do
    let b := s.here.bar.get o.q
    need (b.rows ≠ 0) 0x0C0
    if b.cg ≠ b.ag then wait (.barrier o.q)
    readAny s true
    need (!b.bad) 0x0C3
    return s.result 1 o.r (b.cg.setWidth 64)

/-- A member can send its arrival: it has arrived, and the arrivals that come through it are there. -/
def Barrier.ready (b : Barrier) (r c : Nat) : Bool :=
  b.ag != b.cg && !b.sent && (!b.has r (c + 1) || b.east.isSome) && (c != b.col0 || !b.has (r + 1) c || b.south.isSome)

/-- The generation completes at a member; the release goes on to the neighbours whose arrivals it took up. -/
def barComplete (s : State) (L : Nat) (q : QReg) (mark : Bool) : State :=
  let b := (s.core L).bar.get q
  let done : Barrier := { b with cg := b.ag, bad := mark, rel := none, tookE := false, tookS := false }
  let give (s : State) (T : Nat) : State :=
    s.modCore T fun k => { k with bar := k.bar.set q { k.bar.get q with rel := some mark } }
  let s := s.modCore L fun k => { k with bar := k.bar.set q done }
  let s := if b.tookE then give s (L + 1) else s
  if b.tookS then give s (L + 48) else s

/-- BARRIER_ARRIVAL_HOP: a member's arrival goes to its west or north neighbour, or completes the generation at the
corner. -/
def execBarrierArrivalHop (s : State) : Host.Outcome State Fault Refusal :=
  .next (match s.ev with
    | .barrierArrivalHop L q =>
      let b := (s.core L).bar.get q
      let r := rowOf L
      let c := colOf L
      if !b.ready r c then s
      else
        let differs (a : Option (BitVec 21 × Bool)) : Bool := match a with | some (d, m) => d != b.desc || m | none => false
        let mark := differs b.east || differs b.south
        let b' : Barrier := { b with sent := true, mark, east := none, south := none, tookE := b.east.isSome, tookS := b.south.isSome }
        let s := s.modCore L fun k => { k with bar := k.bar.set q b' }
        if c ≠ b.col0 then
          s.modCore (L - 1) fun k => { k with bar := k.bar.set q { k.bar.get q with east := some (b.desc, mark) } }
        else if r ≠ b.row0 then
          s.modCore (L - 48) fun k => { k with bar := k.bar.set q { k.bar.get q with south := some (b.desc, mark) } }
        else barComplete s L q mark
    | _ => s)

/-- BARRIER_RELEASE_HOP. -/
def execBarrierReleaseHop (s : State) : Host.Outcome State Fault Refusal :=
  .next (match s.ev with
    | .barrierReleaseHop L q =>
      match ((s.core L).bar.get q).rel with
      | some m => barComplete s L q m
      | none => s
    | _ => s)

/-! ## Cache locks (R213, R215, R227, R382) -/

/-- Ways of a core's cache portion. -/
def Core.ways (c : Core) : Nat := 8 - c.direct

/-- CORE_VGRP.SIZE (R215). -/
def Core.poolSize (c : Core) : Nat := (c.vgrp.extractLsb' 0 3).toNat

/-- Rows and columns of a pool's block. -/
def poolRows (size : Nat) : Nat := if size < 2 then 1 else if size < 4 then 2 else 4
def poolCols (size : Nat) : Nat := if size = 0 then 1 else if size < 3 then 2 else 4

/-- Member i of the block that holds core L, row-major. -/
def poolMember (L size i : Nat) : Nat :=
  let r0 := rowOf L / poolRows size * poolRows size
  let c0 := colOf L / poolCols size * poolCols size
  leaf (dieOf L) (r0 + i / poolCols size) (c0 + i % poolCols size)

/-- CORE_VGRP.MEMB. -/
def poolIndex (L size : Nat) : Nat := rowOf L % poolRows size * poolCols size + colOf L % poolCols size

/-- CORE_VGRP.ACT: every core of the block has the same SIZE and DIRECT. -/
def poolActive (s : State) (L : Nat) : Bool :=
  let c := s.core L
  c.poolSize != 0 && (List.range (2 ^ c.poolSize)).all fun i =>
    let m := s.core (poolMember L c.poolSize i)
    m.poolSize == c.poolSize && m.direct == c.direct

/-- The core whose cache portion takes a lock of core L on a line. -/
def lockCore (s : State) (L pa : Nat) : Nat :=
  let size := (s.core L).poolSize
  if poolActive s L then poolMember L size (pa / 2 ^ 15 % 2 ^ size) else L

/-- LOCK's outcome for a line of a cached page: the status, and the core that takes the lock. -/
def lockOutcome (s : State) (L pa : Nat) : Nat × Option Nat :=
  let m := lockCore s L pa
  let c := s.core m
  let line := pa / 64
  if c.ways < 2 then (2, none)
  else if c.locks.contains line then (0, none)
  else if c.ways - 1 ≤ (c.locks.filter fun x => x % 512 == line % 512).length then (1, none)
  else (0, some m)

def execLock (o : OpM2) (s : State) : Host.Outcome State Fault Refusal :=
  finish s do
    let va := s.addrG o.s
    if 0xFD ≤ va.toNat / 2 ^ 48 then return s.result 1 o.d 3
    let l ← resolve s (s.party s.L) va .read
    match l.home with
    | .mapped false =>
      let (st, m) := lockOutcome s s.L l.key
      match m with
      | some m =>
        let s' := s.modCore m fun c => { c with locks := insNat c.locks (l.key / 64) }
        return s'.bind l va o.d (BitVec.ofNat 64 st)
      | none => return s.result 1 o.d (BitVec.ofNat 64 st)
    | _ => return s.result 1 o.d 3

def execUnlock (o : OpM1) (s : State) : Host.Outcome State Fault Refusal :=
  finish s do
    let va := s.addrG o.r
    if 0xFD ≤ va.toNat / 2 ^ 48 then return s.advance
    let l ← resolve s (s.party s.L) va .read
    return (s.modCore (lockCore s s.L l.key) fun c => { c with locks := c.locks.filter (· ≠ l.key / 64) }).advance

end Sys2Proof.Machine
end

