-- ==== Sys2Proof/Machine/SysRegs.lean ====
section
/-! DEFINITION. Register values (spec/19_isa_system.md R437 and the maps of the owning chapters) and writes of the CORE_
registers (R438, R439). A register is named by its block, its number REG and its index IDX; an access acts on the bits
of a mask, for the halves of R77.
Log entries: 29 (DEDUCED). -/

namespace Sys2Proof.Machine

/-! ## Fields -/

/-- A word from fields: value and lowest bit. -/
def fields (l : List (Nat × Nat)) : Word := BitVec.ofNat 64 (l.foldl (fun n x => n + x.1 * 2 ^ x.2) 0)

/-- A register after a write of the bits of a mask to its RW bits. -/
def merge (old v mask rw : Word) : Word := (old &&& ~~~(mask &&& rw)) ||| (v &&& mask &&& rw)

/-- A bit that a write sets: it is within the mask and 1. -/
def writes1 (v mask : Word) (i : Nat) : Bool := mask.getLsbD i && v.getLsbD i

/-- Bits hi to lo. -/
def bitMask (hi lo : Nat) : Word := BitVec.ofNat 64 (2 ^ (hi + 1) - 2 ^ lo)

/-! ## Numbers (R437) -/

/-- Array lengths of a block's registers by REG; 0 for a scalar. -/
def regLens : Nat → List Nat
  | 0 => [0, 0, 0, 0, 0, 0, 0, 0, 0, 0, 0, 0, 0, 0, 0, 0, 256, 256, 8, 9, 0, 0, 0, 0, 0, 0, 0, 32, 10, 0, 16, 16,
          0, 0, 0, 0, 64, 4, 4, 4, 0, 0, 0, 0, 4, 4, 9]
  | 1 => [128, 0, 8, 4, 0, 0, 0, 0, 0, 0, 0]
  | 2 => [0, 0, 0, 0, 0, 0, 0, 0, 0]
  | 3 => [16, 0, 40, 0, 0, 0, 0]
  | 4 => [0, 4, 64, 64, 16, 16, 16, 0, 0, 0, 0, 0, 0, 0, 0, 0, 0, 0, 0, 0, 0, 0, 0, 0, 0, 0, 0]
  | 5 => [0, 0, 0, 0, 0, 0, 4, 8]
  | 6 => [0, 0, 0]
  | 7 => [0, 0, 0]
  | 8 => [0, 0, 64, 64, 0, 0, 8, 0, 0]
  | _ => []

/-- An index within a register's range; a MOD_BUDGET index whose activity part is 7 is outside it. -/
def idxOk (blk reg idx : Nat) : Bool :=
  match (regLens blk)[reg]? with
  | none => false
  | some 0 => idx == 0
  | some n => decide (idx < n) && !(blk == 3 && reg == 2 && idx % 8 == 7)

/-! ## CORE_ values -/

/-- The head of the pending-trap queue. -/
def Core.trapHead (c : Core) : Option (Nat × TrapInfo) :=
  match c.trapQ with
  | [] => none
  | f :: _ => (c.fib f).trap.map fun t => (f, t)

/-- CORE_UPEND (R188). -/
def Core.upend (c : Core) : Word :=
  fields [((!c.trapQ.isEmpty).toNat, 0), (c.upTimer.toNat, 1), ((c.inHead != c.inTail).toNat, 2), (c.upSoft.toNat, 3)]

/-- CORE_TREC[i]: bytes of the head's trap record. -/
def trecWord (s : State) (L i : Nat) : Word :=
  match (s.core L).trapHead with
  | none => 0
  | some (f, t) =>
    BitVec.ofNat 64 (leNat (((trapEntry s L f t ((s.core L).fib f).task).bytes.drop (8 * i)).take 8))

/-- CORE_TREG[i]. -/
def Core.tregWord (c : Core) (i : Nat) : Word :=
  match c.trapQ with
  | [] => 0
  | f :: _ => ((c.treg.getD i none)).getD (if i = 8 then (c.fib f).flags else (c.fib f).a.getD i 0)

/-- Two codes of a table hold the same zero, finite value or infinity (R256). -/
def tableDup (t : Table) : Bool :=
  let ok (x : BitVec 19) : Bool := !(x.extractLsb' 10 8 == 255 && x.extractLsb' 0 10 != 0)
  let rec go : Table → Bool
    | [] => false
    | x :: r => (ok x && r.contains x) || go r
  go t

/-- CORE_DTSTAT (R256). -/
def Core.dtstat (c : Core) : Word :=
  fields [(c.dtBusy0.toNat, 0), (c.dtBusy1.toNat, 1), ((tableDup (c.table false)).toNat, 2),
    ((tableDup (c.table true)).toNat, 3), (c.dtErr.toNat, 4), (c.dtEidx.toNat, 5), (c.dtEtab.toNat, 13)]

/-- CORE_TMDL as a remainder (R435). -/
def timerLeft (s : State) (L : Nat) : Word :=
  let d := (s.core L).tmDeadline
  if d = 0 then 0 else d - BitVec.ofNat 64 (s.cycleOf L)

/-- A fibre that issues, for CORE_SELF: slot and fibre number. -/
structure Who where
  slot  : Nat := 0
  fibre : Nat := 0

/-- The value of a CORE_ register. -/
def coreReg (s : State) (L : Nat) (w : Who) (reg idx : Nat) : Word :=
  let c := s.core L
  match reg with
  | 0 => c.split
  | 1 => fields [(c.poolSize, 0), ((poolActive s L).toNat, 3), (poolIndex L c.poolSize, 4)]
  | 2 => c.bal
  | 3 => fields [((c.dq 0).length, 0), ((c.dq 1).length, 16), ((c.dq 2).length, 32), ((c.dq 3).length, 48)]
  | 4 => fields [((pinnedBytes (tcmPins s L) + 1023) / 1024, 0),
      (min 255 (c.tasks.filter fun t => !t.pins.isEmpty).length, 16)]
  | 5 => fields [(c.treeJoin.toNat, 0)]
  | 6 => fields [(c.treeIn.length, 0), (c.treeOut.length, 3), ((treePend s L).toNat, 6), ((treeOwe s L).toNat, 7),
      ((treeNext s L).toNat, 8)]
  | 7 => c.preempt
  | 8 => fields [(c.rqUse, 0), (c.fibres.length, 16),
      (((c.mb.toList.zipIdx.map fun (m, i) => m.full.toNat * 2 ^ i)).foldl (· + ·) 0, 32)]
  | 9 => c.upend
  | 10 => c.uctl
  | 11 => c.uvec
  | 12 => c.uepc
  | 13 => c.uefl
  | 14 => c.courierNext.getD c.courier
  | 15 => c.dtstat
  | 16 => (c.entry false idx).setWidth 64
  | 17 => (c.entry true idx).setWidth 64
  | 18 => trecWord s L idx
  | 19 => c.tregWord idx
  | 21 => fields [(c.trapQ.length, 0)]
  | 22 => c.msgTx
  | 23 => c.msgRx
  | 24 => c.xmTx
  | 25 => c.xmRx
  | 26 => c.gsCyc
  | 27 => spGet c.sc idx 0
  | 28 => spGet c.rdyh idx 0
  | 29 => fields [(c.pfRun.toNat, 0)]
  | 30 => c.pmpc.getD idx 0
  | 31 => c.pmhnd.getD idx 0
  | 32 => c.pmsrc
  | 33 => c.inbox
  | 34 => fields [(c.inHead.toNat, 0), (c.inTail.toNat, 32)]
  | 35 => c.tags
  | 36 => (c.tagStatus idx).setWidth 64
  | 37 => (c.bar.getD idx {}).word
  | 38 =>
    let a := c.acc.getD idx {}
    fields [(a.owner, 0), (a.own.toNat, 12), (a.pois.toNat, 13), ((BitVec.ofInt 10 a.anchor).toNat, 14)]
  | 39 =>
    let k := c.skip.getD idx {}
    fields [(k.off, 0), (k.len, 18), (k.pos, 34)]
  | 40 => c.mmcap
  | 41 => fields [(c.tmIntvl.toNat, 0), (c.tmOvr.toNat, 48), (c.tmPer.toNat, 63)]
  | 42 => c.tmDeadline
  | 43 => fields [((s.coreId L w.slot).toNat, 0), (w.fibre, 32)]
  | 44 => (c.fib w.fibre).f.getD idx 0
  | 45 => (c.fib w.fibre).c.getD idx 0
  | 46 =>
    match c.handler with
    | some f => if idx = 8 then (c.fib f).flags else (c.fib f).a.getD idx 0
    | none => 0
  | _ => 0

/-! ## The other blocks -/

/-- CLU_L2P[i]: physical index and MOVED (R120). -/
def Cluster.l2pOf (k : Cluster) (i : Nat) : BitVec 9 := spGet k.l2p i (BitVec.ofNat 9 (i / 16 * 17 + i % 16))

def cluReg (s : State) (k reg idx : Nat) : Word :=
  let x := s.cluster k
  match reg with
  | 0 => (x.l2pOf idx).setWidth 64
  | 1 => BitVec.ofNat 64 x.spares.length
  | 2 => x.bp.getD idx 0
  | 3 => x.wp.getD idx 0
  | 4 => fields [(x.dbgGang.toNat, 2), (x.dbgOwn.toNat, 3)]
  | 5 => fields [(x.halted.toNat, 0), (x.halting.toNat, 1), (x.reason.toNat, 2), (x.src.toNat, 32)]
  | 6 => x.trcfg
  | 7 => x.trbase
  | 8 => x.trpos
  | 9 => x.rptask
  | 10 => x.rpcnt
  | _ => 0

def dieReg (s : State) (d reg : Nat) : Word :=
  let x := s.die d
  match reg with
  | 0 => fields [(x.spMib, 0), (x.stack.toNat, 8), (x.fused.toNat, 9)]
  | 1 => x.cycle
  | 2 => x.wdog.setWidth 64
  | 3 => x.evPos.setWidth 64
  | 4 => x.evCfg.setWidth 64
  | 5 => x.rsvTmo.setWidth 64
  | 6 => x.migVa
  | 7 => x.migDpa
  | 8 => fields [(x.mig.isSome.toNat, 1), (x.migDone.toNat, 2), (x.migErr.toNat, 3)]
  | _ => 0

/-- Reset shares by activity (R34). -/
def resetShare (act : Nat) : Nat := [1536, 1536, 256, 128, 64, 256, 320].getD act 0

/-- MOD_BUDGET.SHARE in force. -/
def State.share (s : State) (i : Nat) : Nat := (spGet s.budget i (BitVec.ofNat 13 (resetShare (i % 8)))).toNat

/-- MOD_BUDGET.SHARE as written last (R36). -/
def State.shareSet (s : State) (i : Nat) : Nat :=
  match s.budgetNext.find? (·.1 == i) with
  | some (_, x) => x.toNat
  | none => s.share i

/-- MOD_PWR.THROT: the die throttles, or throttled in the last 4,096 cycles (R42). -/
def Die.throt (x : Die) : Bool :=
  x.throttled || (match x.throtAt with | some t => decide (x.cycle.toNat < t + 4096) | none => false)

/-- MOD_PWR.AMPS: the die's present current (R42): 0 at a reset, what reached the limit while the die throttles, and else a value
below the limit that nothing else fixes (log entry 6). -/
def Die.present (x : Die) (d : Nat) : Nat :=
  if x.throttled then x.amps.toNat else if x.cycle.toNat = x.resetAt then 0 else (Config.railAmps (8 * x.cycle.toNat + d)).val

/-- MOD_LSTAT.MARGIN: the lowest of the margins last measured (R33). -/
def Port.margin (p : Port) : Nat := (p.margins.map (·.2.toNat)).min?.getD 0

def Port.word (p : Port) : Word :=
  fields [(p.up.toNat, 0), (p.degr.toNat, 1), (p.swap.toNat, 2), (p.margin, 8), (p.retry.toNat, 16)]

def modReg (s : State) (reg idx : Nat) : Word :=
  match reg with
  | 0 => (s.port idx).word
  | 1 => s.lmthr.setWidth 64
  | 2 => BitVec.ofNat 64 (s.shareSet idx)
  | 3 => s.bErr.setWidth 64
  | 4 => fields [(s.reset?.isSome.toNat, 2)]
  | 5 =>
    let d := s.die s.pwrDie.toNat
    fields [(d.present s.pwrDie.toNat, 0), (s.pwrDie.toNat, 12), (d.throt.toNat, 15)]
  | 6 => s.part
  | _ => 0

/-- CTX_SQCFG (R84). -/
def SubQ.cfg (q : SubQ) : Word :=
  fields [(q.en.toNat, 0), (q.halt.toNat, 1), (q.cq.toNat, 3), (q.log2.toNat, 7), (q.err.toNat, 11), (q.seq.toNat, 16),
    (q.head.toNat, 32)]

/-- CTX_CQCFG and CTX_FQCFG (R85, R102). -/
def CompQ.cfg (q : CompQ) : Word :=
  fields [(q.en.toNat, 0), (q.log2.toNat, 1), (q.vec.toNat, 5), (q.mask.toNat, 16), (q.err.toNat, 17)]

/-- CTX_MEMUSE, rounded up (R224). -/
def Ctx.memUse (x : Ctx) : Word :=
  fields [((x.useDs + 2 ^ 20 - 1) / 2 ^ 20, 0), ((x.useHbm + 2 ^ 26 - 1) / 2 ^ 26, 16), ((x.useLp + 2 ^ 30 - 1) / 2 ^ 30, 32)]

def ctxReg (s : State) (c reg idx : Nat) : Word :=
  let x := s.ctx c
  match reg with
  | 0 => fields [((x.en && !x.disabling).toNat, 0), (x.err.toNat, 1)]
  | 1 => x.rect.getD idx 0
  | 2 => (spGet x.sqs idx {}).base
  | 3 => (spGet x.sqs idx {}).cfg
  | 4 => (spGet x.cqs idx {}).base
  | 5 => (spGet x.cqs idx {}).cfg
  | 6 => (spGet x.cqs idx {}).head.setWidth 64
  | 7 => x.fq.base
  | 8 => x.fq.cfg
  | 9 => x.fq.head.setWidth 64
  | 10 => x.retry.setWidth 64
  | 11 => x.dumpBase
  | 12 => x.dumpLen
  | 13 => x.ckList
  | 14 => fields [(x.ckPhase.toNat, 0), (x.ckFail.toNat, 2)]
  | 15 => x.pinq
  | 16 => x.dqBase
  | 17 => x.fscfg
  | 18 => x.ptPool
  | 19 => x.memq
  | 20 => x.memUse
  | 21 => fields [(x.deleg.toNat, 0), (1, 23)]
  | 22 => fields [(x.fcmdErr.toNat, 46)]
  | 24 => fields [(x.stopped.toNat, 0), (x.stopping.toNat, 1), (x.reason.toNat, 2)]
  | 25 => fields [(x.hcfg.toNat, 0)]
  | 26 => x.fqLost.setWidth 64
  | _ => 0

/-- BOOK_STAT.STATE (R164). -/
def BookState.code : BookState → Nat
  | .empty => 0 | .ready => 1 | .run => 2 | .held => 3 | .done => 4 | .fault => 5

def bookReg (s : State) (d reg idx : Nat) : Word :=
  let b := (s.die d).book
  match reg with
  | 0 => fields [(b.state.code, 0), (b.flight.length, 3), (b.cause.toNat, 7), (b.fent.toNat, 16), (b.ctx.toNat, 26),
      (b.ckhold.toNat, 32)]
  | 1 => fields [(b.pos, 0), (b.entries.length, 16)]
  | 2 => b.step.setWidth 64
  | 3 => b.stash
  | 4 => b.codec
  | 6 => b.idle.getD idx 0
  | 7 =>
    match b.rings[idx]? with
    | some r => fields [((b.cred.getD idx 0).toNat, 0), (r.down.toNat, 9)]
    | none => 0
  | _ => 0

/-- Collectives in flight on the module (R73). -/
def State.collsActive (s : State) : Nat := s.ctxs.foldl (fun n e => n + (e.2.colls.filter fun k => k.parts.any (!·.done)).length) 0

def collReg (s : State) (reg : Nat) : Word :=
  match reg with
  | 0 => s.nfCfg.setWidth 64
  | 1 => s.nfCnt.setWidth 64
  | 2 => fields [(s.collsActive, 0), (s.collSteps.toNat, 8), (s.collPois.toNat, 16), (s.collAbort.toNat, 17)]
  | _ => 0

def dumpReg (s : State) (reg : Nat) : Word :=
  let x := s.dump
  match reg with
  | 0 => fields [(x.tcm.toNat, 0)]
  | 1 => fields [(x.busy.toNat, 0), (x.done.toNat, 1), (x.trunc.toNat, 2), (x.ctx.toNat, 3)]
  | 2 => fields (x.queue.map fun e => (1, e.1))
  | _ => 0

/-- DEV_ISAREV (R325). -/
def isaRev : Word := 0x11101

def devReg (s : State) (reg idx : Nat) : Word :=
  match reg with
  | 0 => isaRev
  | 1 => s.cxlWin
  | 2 => (spGet s.pwWins idx {}).win
  | 3 => (spGet s.pwWins idx {}).va
  | 4 => s.pwDrop.setWidth 64
  | 5 => s.mgmt.boot
  | 6 => s.mgmt.attn.getD idx 0
  | 7 => s.mgmt.attAddr
  | 8 => fields [(s.mgmt.attDone.toNat, 1)]
  | _ => 0

/-! ## Reads (R15, R439) -/

/-- The instances that a party's register numbers reach. -/
structure Inst where
  core : Nat := 0
  die  : Nat := 0
  clu  : Nat := 0
  ctx  : Nat := 0
  who  : Who := {}

/-- A register's value. -/
def regVal (s : State) (i : Inst) (blk reg idx : Nat) : Word :=
  match blk with
  | 0 => coreReg s i.core i.who reg idx
  | 1 => cluReg s i.clu reg idx
  | 2 => dieReg s i.die reg
  | 3 => modReg s reg idx
  | 4 => ctxReg s i.ctx reg idx
  | 5 => bookReg s i.die reg idx
  | 6 => collReg s reg
  | 7 => dumpReg s reg
  | 8 => devReg s reg idx
  | _ => 0

/-- The RC fields of a register cleared, within a mask (R15). -/
def regClear (s : State) (i : Inst) (blk reg idx : Nat) (mask : Word) : State :=
  let cut (w : Nat) (v : Word) (lo : Nat) : BitVec w := ((v &&& ~~~mask) >>> lo).setWidth w
  if blk = 0 ∧ reg = 41 then
    s.modCore i.core fun c => { c with tmOvr := cut 8 (fields [(c.tmOvr.toNat, 48)]) 48 }
  else if blk = 3 ∧ reg = 0 then s.setPort idx { s.port idx with retry := cut 16 (fields [((s.port idx).retry.toNat, 16)]) 16 }
  else if blk = 6 ∧ reg = 1 then { s with nfCnt := cut 32 (s.nfCnt.setWidth 64) 0 }
  else if blk = 4 ∧ reg = 26 then s.modCtx i.ctx fun x => { x with fqLost := cut 32 (x.fqLost.setWidth 64) 0 }
  else if blk = 8 ∧ reg = 4 then { s with pwDrop := cut 32 (s.pwDrop.setWidth 64) 0 }
  else s

/-! ## Writes of CORE_ registers -/

/-- CORE_SPLIT (R213, R214, R374). The bytes between the old and the new boundary lose their contents and read as zero;
the stall is timing. -/
def writeSplit (s : State) (L : Nat) (v mask : Word) : State :=
  let c := s.core L
  let d := ((merge c.split v mask 0xF).extractLsb' 0 4).toNat
  let bound := c.fibres.any fun e => e.2.h.toList.any (·.isSome)
  if 8 < d ∨ !(tcmPins s L).isEmpty ∨ bound ∨ !c.locks.isEmpty then
    s.setCore L { c with split := c.split ||| 0x10 }
  else
    let lo := min d c.direct * 0x8000
    let hi := max d c.direct * 0x8000
    let ringEnd := c.inBase + 128 * 2 ^ c.inLog2
    let inbox := if d * 0x8000 < ringEnd then c.inbox &&& ~~~1#64 else c.inbox
    let k := tcmKey L lo
    let s := s.setCore L { c with split := BitVec.ofNat 64 d, inbox }
    { s with mem := memClear s.mem k (hi - lo)
             poison := s.poison.filter fun l => !(decide (k ≤ l * 64) && decide (l * 64 < tcmKey L hi)) }

/-- An engine instruction in flight or paused uses a table (R256). -/
def tableUsed (c : Core) (t : Bool) : Bool :=
  let u (o : EngineOp) : Bool := if t then o.tab1 else o.tab0
  c.vec.any u || c.mat.any u || c.vecPaused.any u || c.matPaused.any u

/-- Sets BUSYt. -/
def Core.setBusy (c : Core) (t b : Bool) : Core := if t then { c with dtBusy1 := b } else { c with dtBusy0 := b }

/-- A decode-table write that waits for nothing (R255, R256). -/
def writeDtab (c : Core) (t : Bool) (idx : Nat) (v mask : Word) : Core :=
  let x : BitVec 19 := (merge ((c.entry t idx).setWidth 64) v mask 0x7FFFF).setWidth 19
  if (v &&& mask &&& 0xFFF80000) ≠ 0 ∨ !entryOk x then
    { c with dtErr := true, dtEidx := BitVec.ofNat 8 idx, dtEtab := t }
  else
    let put (m : Sparse (BitVec 19)) : Sparse (BitVec 19) := if x = resetEntry t idx then spDel m idx else spPut m idx x
    (if t then { c with dtab1 := put c.dtab1 } else { c with dtab0 := put c.dtab0 }).setBusy t true

/-- Reloads a table with its reset contents. -/
def Core.reloadTable (c : Core) (t : Bool) : Core :=
  (if t then { c with dtab1 := [] } else { c with dtab0 := [] }).setBusy t true

/-- CORE_DTSTAT: ERR, RST0 and RST1. -/
def writeDtstat (c : Core) (v mask : Word) : Core :=
  let c := if writes1 v mask 4 then { c with dtErr := false } else c
  let c := if writes1 v mask 14 then c.reloadTable false else c
  if writes1 v mask 15 then c.reloadTable true else c

/-- The table that a write of a CORE_ register concerns. -/
def tablesOf (reg : Nat) (v mask : Word) : List Bool :=
  if reg = 16 then [false] else if reg = 17 then [true]
  else if reg = 15 then (if writes1 v mask 14 then [false] else []) ++ (if writes1 v mask 15 then [true] else [])
  else []

/-- CORE_COURIER (R192): the value waits until the courier waits at a take with every mailbox empty. -/
def writeCourier (s : State) (L : Nat) (v mask : Word) : State :=
  let c := s.core L
  let e := merge (c.courierNext.getD c.courier) v mask (bitMask 55 1)
  let s := s.setCore L { c with courierNext := some e }
  let atTake := c.courierCmd.isNone && match (c.fib 1).status with | .waiting (.mailboxFull _) => true | _ => false
  if atTake && c.mailEmpty then restartCourier s L else s

/-- CORE_INBOX (R374). -/
def writeInbox (c : Core) (v mask : Word) : Core :=
  if c.inEn then { c with inbox := merge c.inbox v mask 1 }
  else
    let w := merge c.inbox v mask (bitMask 17 7 ||| bitMask 5 2 ||| 1)
    let n : Core := { c with inbox := w }
    if w.getLsbD 0 then
      if 11 < n.inLog2 ∨ c.directBytes < n.inBase + 128 * 2 ^ n.inLog2 then { c with inbox := (w &&& ~~~1#64) ||| 2 }
      else { c with inbox := w &&& ~~~2#64, inHead := 0, inTail := 0 }
    else n

/-- CORE_UPEND: TIMER and SOFT. -/
def writeUpend (c : Core) (v mask : Word) : Core :=
  { c with upTimer := c.upTimer && !writes1 v mask 1
           upSoft := if mask.getLsbD 3 then v.getLsbD 3 else c.upSoft }

/-- A core that is a member with a round incomplete may not change CORE_TREE (R70). -/
def treeBusy (s : State) (L : Nat) : Bool := treePend s L || treeOwe s L

/-- The effect of a write to a CORE_ register; `fibre` is the writing fibre, if one writes. -/
def writeCore (s : State) (L : Nat) (fibre : Option Nat) (reg idx : Nat) (v mask : Word) : State :=
  let set (f : Core → Core) : State := s.modCore L f
  match reg with
  | 0 => writeSplit s L v mask
  | 1 =>
    set fun c => let w := merge c.vgrp v mask 7; { c with vgrp := if 4 < w.toNat then c.vgrp else w }
  | 2 =>
    set fun c =>
      let w := merge c.bal v mask 0x7FF
      let a := (w.extractLsb' 8 3).toNat
      { c with bal := if 1 ≤ a ∧ a ≤ 4 then w else merge c.bal v mask 0xFF }
  | 5 => set fun c => if mask.getLsbD 0 then { c with treeJoin := v.getLsbD 0 } else c
  | 7 => set fun c => { c with preempt := merge c.preempt v mask 0x1FF }
  | 9 => set fun c => writeUpend c v mask
  | 10 => set fun c => { c with uctl := merge c.uctl v mask 0x1F }
  | 11 => set fun c => { c with uvec := merge c.uvec v mask (bitMask 55 1) }
  | 12 => set fun c => { c with uepc := merge c.uepc v mask (bitMask 59 1) }
  | 13 => set fun c => { c with uefl := merge c.uefl v mask flagsMask }
  | 14 => writeCourier s L v mask
  | 15 => set fun c => writeDtstat c v mask
  | 16 => set fun c => writeDtab c false idx v mask
  | 17 => set fun c => writeDtab c true idx v mask
  | 19 =>
    set fun c =>
      if c.trapQ.isEmpty then c
      else
        let all := if idx = 8 then flagsMask else BitVec.allOnes 64
        { c with treg := c.treg.setIfInBounds idx (some (merge (c.tregWord idx) v mask all)) }
  | 20 =>
    if mask &&& 3 = 0 then s
    else match (s.core L).trapQ with
      | [] => s
      | f :: _ => resolveTrap s L f ((v &&& mask).extractLsb' 0 2).toNat true
  | 29 =>
    set fun c => { c with pfRun := if mask.getLsbD 0 then v.getLsbD 0 else c.pfRun, pfClr := c.pfClr || writes1 v mask 1 }
  | 30 => set fun c => { c with pmpc := c.pmpc.setIfInBounds idx (merge (c.pmpc.getD idx 0) v mask (bitMask 55 0)) }
  | 31 => set fun c => { c with pmhnd := c.pmhnd.setIfInBounds idx (merge (c.pmhnd.getD idx 0) v mask (bitMask 55 1)) }
  | 33 => set fun c => writeInbox c v mask
  | 40 =>
    set fun c =>
      let w := merge c.mmcap v mask (bitMask 35 0 ||| bitMask 63 48)
      { c with mmcap := match fibre with
          | some f => merge w (BitVec.ofNat 64 (f * 2 ^ 36)) (BitVec.allOnes 64) (bitMask 47 36)
          | none => w }
  | 44 =>
    match fibre with
    | some f => set fun c => c.modFib f fun x => { x with f := x.f.setIfInBounds idx (merge (x.f.getD idx 0) v mask (BitVec.allOnes 64)) }
    | none => s
  | 45 =>
    match fibre with
    | some f => set fun c => c.modFib f fun x => { x with c := x.c.setIfInBounds idx (merge (x.c.getD idx 0) v mask (BitVec.allOnes 64)) }
    | none => s
  | _ => s

end Sys2Proof.Machine
end

