-- ==== Sys2Proof/Machine/System.lean ====
section
/-! DEFINITION. System, task and trap instructions (spec/19_isa_system.md R427–R442). The issuing-fibre check stands
before a form's own checks (R428).
Log entries: 29 (DEDUCED); 12 (DEDUCED and DESIGN CHOICE). -/

namespace Sys2Proof.Machine

/-- The urgent fibre issues, on either plane. -/
def State.urgent (s : State) : Bool := s.slot == 0

/-- The urgent fibre issues on its main plane. -/
def State.urgentMain (s : State) : Bool := s.slot == 0 && !s.onShadow

def execNop (s : State) : Host.Outcome State Fault Refusal := .next s.advance

/-! ## Fibre control (R432–R434) -/

/-- YIELD: a fibre that became ready in this cycle, outside its slot. -/
def execYield (s : State) : Host.Outcome State Fault Refusal :=
  finish s do
    need s.worker 0x152
    let s' := s.advance.setStatus .ready
    return s'.modHere fun c => (c.freeSlot s.fibre).modFib s.fibre fun f => { f with quantum := 0 }

/-- SLEEP until a cycle of the die. -/
def execSleep (o : OpDS) (s : State) : Host.Outcome State Fault Refusal :=
  finish s do
    let t := (s.getG o.s).toNat
    need (t ≤ s.now + 2 ^ 40) 0x151
    if s.now < t then wait (.cycle t)
    return s.result 1 o.d (BitVec.ofNat 64 s.now)

def execHalt (s : State) : Host.Outcome State Fault Refusal :=
  finish s do
    need s.urgentMain 0x028
    return s.advance.modHere fun c => { c with uctl := c.uctl ||| 1, idle := true }

/-- The fibre that FSPAWN makes. -/
def spawned (s : State) (e a0 : Word) : Fibre :=
  { pc := e.extractLsb' 0 56, a := #v[a0, 0, 0, 0, 0, 0, 0, 0], prio := e.extractLsb' 56 2, since := s.now }

def execFspawn (o : OpDST) (s : State) : Host.Outcome State Fault Refusal :=
  finish s do
    let e := s.getG o.s
    need (e.extractLsb' 58 6 = 0) 0x007
    need (e.getLsbD 0 = false) 0x03C ((e.extractLsb' 0 56).setWidth 64)
    need (s.here.fibres.length < fibreLimit s s.L) 0x10B ((s.me.task.getD 0).setWidth 64)
    match takeEntry s s.L s.slot with
    | none => wait .entry
    | some s1 =>
      let f := s1.here.newFibre 2 4096
      let s2 := s1.modHere fun c => c.setFib f (spawned s e (s.getG o.t))
      return s2.result 1 o.d (BitVec.ofNat 64 f)

def execFexit (s : State) : Host.Outcome State Fault Refusal :=
  finish s do
    need s.worker 0x02A
    need s.me.task.isNone 0x02A 0 1
    need s.me.rsv.isNone 0x10F
    return endFib s s.L s.fibre

/-! ## Tasks (R429–R431) -/

/-- TASKPUSH: a task fibre's push is held until it retires (R141); another takes effect at issue, as a release (R429). -/
def execTaskpush (r : GReg) (s : State) : Host.Outcome State Fault Refusal :=
  finish s do
    let va := s.addrG r
    readAny s false
    let ps ← recPieces s s.myCtx va .atomic
    ps.forM fun (l, m) => forwardGo s l m
    let t ← checkRec s s.myCtx (s.party s.L) va false (some s.L)
    watchRange s va 128 true false
    match s.me.task.bind s.here.task? with
    | some task =>
      need (task.pushes.length < 32) 0x105 (va.setWidth 64)
      return (s.modHere fun c => c.setTask { task with pushes := task.pushes ++ [va] }).bindAway none 0 (va := va)
    | none =>
      writeGo s noGran true
      if recHeld s s.myCtx va then wait (.port false false noGran)
      return (← placeRec s s.myCtx s.L va t).bindAway none 0 (va := va)

/-- The entry that TASKPOP takes: the first in the owner's order of effective priority `lo` or above. -/
def popChoice (c : Core) (lo : Nat) : Option (Nat × Nat × DqEntry) := (c.order false).find? fun x => decide (lo ≤ x.2.2.eff)

/-- TASKPOP; a spill read that meets a translation fault parks the urgent fibre until a MAP repairs the mapping: that of a spilled
entry taken, or of a refill. The store of STATE, byte 63 of the record, meets watchpoints (R303). -/
def execTaskpop (o : OpDS) (s : State) : Host.Outcome State Fault Refusal :=
  finish s do
    need s.urgent 0x028
    match popChoice s.here ((s.getG o.s).extractLsb' 0 2).toNat with
    | none => return s.result 1 o.d 0
    | some (p, i, e) =>
      if s.here.hw p ≤ i then
        let _ ← readSpill s s.L p ((s.here.dq p).length - 1 - i) 1
      let s1 ← refillDq (s.modHere fun c => (c.removeEntry p e.recAddr).ageAll) s.L p
      watchCheck s (e.recAddr + 63) false true
      if recHeld s s.myCtx e.recAddr then wait (.port false false noGran)
      return (setRecState (spillAll s1 s.L) s.myCtx e.recAddr 0).result 1 o.d (e.recAddr.setWidth 64)

/-- Requests of the task lie in a mailbox, or a copy, STASH or RESTORE of it has not set its tag (R431). -/
def taskPending (c : Core) (t : Task) : Bool :=
  c.mb.toList.any (fun m => m.full && m.task == some t.recAddr) || !t.tags.isEmpty

/-- The cluster's replay stop is armed for a task record's present attempt, at an instruction count (R309). -/
def replayArmed (s : State) (L : Nat) (r : VAddr) (n : Nat) : Bool :=
  let x := s.cluster (clusterOf L)
  x.rptask.getLsbD 0 && (x.rptask.extractLsb' 6 50).setWidth 56 <<< 6 == r && n == (x.rpcnt.extractLsb' 0 48).toNat
    && (match recRead s (s.ctxNum L) r .read with | .ok t => t.restart == (x.rpcnt.extractLsb' 48 4).toNat | .error _ => false)

/-- The replay stop is over. -/
def disarmReplay (s : State) (L : Nat) : State := s.modCluster (clusterOf L) fun x => { x with rptask := x.rptask &&& ~~~1#64 }

/-- TASKDONE is the counted instruction of an armed replay stop: the cluster halts after it (R309). -/
def doneHalts (s s' : State) (r : VAddr) : State :=
  if replayArmed s s.L r (s.me.icount + 1) then
    if h : clusterOf s.L < 48 then (disarmReplay s' s.L).raise (.clusterHalt ⟨clusterOf s.L, h⟩ 0x146 s.myId) else s'
  else s'

/-- TASKDONE (R431). -/
def execTaskdone (s : State) : Host.Outcome State Fault Refusal :=
  finish s do
    match s.me.task.bind s.here.task? with
    | none => trap0 0x029
    | some t =>
      if t.retiring.isNone then
        need s.me.rsv.isNone 0x10F (t.recAddr.setWidth 64)
        if taskPending s.here t then wait .retire
        if t.holds.any (holdPoisoned s) then return restartTask (s.coreEvent s.L 7 (detail2 t.recAddr.toNat 0x107)) s.L t.recAddr
      let att := match readRec s s.myCtx t.recAddr with | .ok r => r.restart | .error _ => 0
      match ← retire s s.myCtx s.L t with
      | (s', false) => return s'.waitFor .retire
      | (s', true) =>
        let s' := endFib s' s.L s.fibre
        return doneHalts s (s'.trace s.L s.slot 7 s.cur.pc ((s.me.icount + 1) % 2 ^ 48 + att * 2 ^ 48)) t.recAddr

/-! ## Timer (R435) -/

def execTmset (o : OpDS) (s : State) : Host.Outcome State Fault Refusal :=
  finish s do
    need s.urgent 0x02C
    let x := s.getG o.s
    let n := x.extractLsb' 0 48
    need (x.extractLsb' 48 15 = 0 ∧ !(x.msb && decide (n.toNat < 64))) 0x150
    let left := timerLeft s s.L
    let s' := s.modHere fun c =>
      if n = 0 then { c with tmDeadline := 0, tmIntvl := 0, tmPer := false }
      else { c with tmIntvl := n, tmPer := x.msb, tmDeadline := BitVec.ofNat 64 (s.now + n.toNat) }
    return s'.result 1 o.d left

def execTmrd (d : GReg) (s : State) : Host.Outcome State Fault Refusal :=
  .next (s.result 1 d ((BitVec.ofBool s.here.tmPer ++ 0#63 : BitVec 64) ||| timerLeft s s.L))

/-- TIMER_EXPIRY: the deadline has been reached. -/
def execTimerExpiry (s : State) : Host.Outcome State Fault Refusal :=
  .next (match s.ev with
    | .timerExpiry L =>
      let c := s.core L
      if c.tmDeadline ≠ 0 ∧ c.tmDeadline.toNat ≤ s.cycleOf L then
        s.setCore L { c with
          tmOvr := if c.upTimer ∧ c.tmOvr ≠ 255 then c.tmOvr + 1 else c.tmOvr
          upTimer := true
          tmDeadline := if c.tmPer then c.tmDeadline + c.tmIntvl.setWidth 64 else 0
          tmIntvl := if c.tmPer then c.tmIntvl else 0 }
      else s
    | _ => s)

/-! ## System registers (R437–R439) -/

/-- The parts of a system-register number. -/
def srBlk (n : Word) : Nat := (n.extractLsb' 16 4).toNat
def srReg (n : Word) : Nat := (n.extractLsb' 0 8).toNat
def srIdx (n : Word) : Nat := (n.extractLsb' 8 8).toNat

/-- The instances of the issuing fibre's own. -/
def State.myInst (s : State) : Inst :=
  { core := s.L, die := dieOf s.L, clu := clusterOf s.L, ctx := s.myCtx, who := { slot := s.slot, fibre := s.fibre } }

/-- The checks of R438 that reads and writes share. -/
def srCheck (n : Word) : Chk Unit := do
  need (n.extractLsb' 20 44 = 0 ∧ srReg n < (regLens (srBlk n)).length) 0x020
  need (idxOk (srBlk n) (srReg n) (srIdx n)) 0x025
  need (!(srBlk n == 8 && decide (6 ≤ srReg n))) 0x02E
  need (!(srBlk n == 1 && (srReg n == 2 || srReg n == 3))) 0x021

/-- CORE_TREC, CORE_TREG and CORE_TACT. -/
def isTrapReg (n : Word) : Bool := srBlk n == 0 && decide (18 ≤ srReg n) && decide (srReg n ≤ 20)

def execSrr (o : OpDS) (s : State) : Host.Outcome State Fault Refusal :=
  finish s do
    let n := s.getG o.s
    srCheck n
    need (!isTrapReg n || s.urgent) 0x022
    need (!(srBlk n == 0 && srReg n == 46) || s.onShadow) 0x027
    let v := regVal s s.myInst (srBlk n) (srReg n) (srIdx n)
    let s' := regClear s s.myInst (srBlk n) (srReg n) (srIdx n) (BitVec.allOnes 64)
    if srBlk n < 2 then return s'.result 1 o.d v else return s'.bindAway (some o.d) v

/-- CORE_ registers that only slot 0 writes. -/
def urgentReg (n : Word) : Bool := decide (srReg n ≤ 43) && srReg n != 9 && srReg n != 40

def execSrw (o : OpDS) (s : State) : Host.Outcome State Fault Refusal :=
  finish s do
    let n := s.getG o.s
    let v := s.getG o.d
    let reg := srReg n
    srCheck n
    need (srBlk n = 0) 0x021
    need (!urgentReg n || s.urgent) 0x022
    need (!((reg == 30 || reg == 31) && (s.cluster (clusterOf s.L)).dbgOwn)) 0x02D
    need (!((reg == 44 || reg == 45) && s.me.task.isSome)) 0x026
    need (!(reg == 5 && treeBusy s s.L)) 0x0ED
    match (tablesOf reg v (BitVec.allOnes 64)).find? (tableUsed s.here) with
    | some t => wait (.table t true)
    | none => return (writeCore s s.L (some s.fibre) reg (srIdx n) v (BitVec.allOnes 64)).advance

/-! ## Breakpoints, traps and returns (R440–R442) -/

def execBrk (s : State) : Host.Outcome State Fault Refusal := finish s (trap0 0x140)

def execSwt (n : Fin 8) (s : State) : Host.Outcome State Fault Refusal := finish s (trap0 (causeN (0x148 + n.val)))

def execTret (s : State) : Host.Outcome State Fault Refusal :=
  finish s do
    need s.urgentMain 0x00D
    return trapReturn s

def execPmret (s : State) : Host.Outcome State Fault Refusal :=
  finish s do
    need s.onShadow 0x00C
    return endHandler s s.L

/-- HCALL: the fibre parks with a record for the host, whatever CTX_DELEG says; the record's write is a release of the fibre's
earlier accesses. -/
def execHcall (o : OpDS) (s : State) : Host.Outcome State Fault Refusal :=
  finish s do
    let x := s.ctx s.myCtx
    need x.hcfg 0x02B
    writeGo s noGran true
    let t : TrapInfo :=
      { cause := 0, addr := s.getG o.s, aux := s.getG o.d, pc := s.cur.pc, slot := BitVec.ofNat 3 s.slot, word := s.cur.word,
        npfx := s.cur.npfx, len := s.cur.len, cycle := s.now, issued := s.cur.time, hcall := true
        delivery := if x.stopped || x.stopping then .held else .host }
    return deliver (parkTrap s s.L s.fibre s.onShadow t) s.L s.fibre t

end Sys2Proof.Machine
end

