-- ==== Sys2Proof/Machine/Vector.lean ====
section
/-! DEFINITION. Vector instructions (spec/17_isa_vector.md R383–R403). A vector instruction that issues computes all it
will do and enters the core's vector engine; ENGINE_INSTRUCTION_COMPLETE carries it out (R386).
Log entries: 14, 20, 21 (DEDUCED). -/

namespace Sys2Proof.Machine

/-! ## Elements -/

/-- The n lowest w-bit elements of a bit string. -/
def unpack (w n v : Nat) : List Nat :=
  match n with
  | 0 => []
  | n + 1 => v % 2 ^ w :: unpack w n (v / 2 ^ w)

/-- Elements of a slot of `b` bytes (R384): n = SSZ × 512 / w, or 64 for each BSI24 block. -/
def Fmt.count (F : Fmt) (b : Nat) : Nat := if F = .bsi24 then b / 200 * 64 else b * 8 / F.bits

def Fmt.isFloat : Fmt → Bool
  | .fp32 | .bf16 | .fp16 => true
  | _ => false
def Fmt.isInt : Fmt → Bool
  | .int8 | .int32 => true
  | _ => false
def Fmt.isNarrow : Fmt → Bool
  | .t8 _ | .e2m3 | .e3m2 | .e2m1 => true
  | _ => false

/-- The FMT code of R251. -/
def Fmt.code : Fmt → Nat
  | .fp32 => 0 | .bf16 => 1 | .fp16 => 2 | .t8 _ => 3 | .e2m3 => 4 | .e3m2 => 5 | .e2m1 => 6 | .e8m0 => 7 | .int8 => 8
  | .int32 => 9 | .bsi24 => 10

/-- A format decodes through table t. -/
def Fmt.uses (F : Fmt) (t : Bool) : Bool := F == .t8 t

/-! ## Operands -/

/-- Where the result goes (R385). -/
inductive VOut where
  | inPlace | produced | none
deriving DecidableEq, Repr

/-- The operands of a form: RD, its other handles in the order RS, RT, the sources in operand order, each with whether
the second descriptor describes it, and the result with whether the second descriptor describes it. -/
structure VForm where
  d    : HReg
  rest : List HReg
  srcs : List (HReg × Bool)
  out  : VOut
  out2 : Bool := false
  two  : Bool := false
deriving DecidableEq, Repr

/-- What a form's computation sees: the descriptors, the sources' elements, and the coordinates of element 0 (R389). -/
structure VIn where
  core : Core
  d1   : Desc
  d2   : Desc
  ns   : List Nat
  xs   : List (List Nat)
  tid  : Word
  row  : BitVec 32
  col  : Nat
  /-- Room in the destination's part (R385). -/
  room : Nat

/-- What a form's computation gives: the result's bytes, sticky flags, and stores beside the result. -/
structure VRes where
  bytes : List Byte := []
  st    : Sticky := {}
  puts  : List Put := []
  sends : List (Nat × VAddr × Nat × List Byte) := []
  away  : Bool := false

/-- A source's elements. -/
def VIn.x (v : VIn) (i : Nat) : List Nat := v.xs.getD i []
def VIn.n (v : VIn) : Nat := v.ns.getD 0 0

/-- The effective rounding of element i of a form whose result the descriptor describes (R389). -/
def VIn.rnd (v : VIn) (m : AMod) (d : Desc) (i : Nat) : Rnd :=
  let mode := if m.rnd.val = 0 then d.rnd else m.rnd.val - 1
  d.round mode (if mode = 2 then kweash v.tid d.step v.row (BitVec.ofNat 32 (v.col + i)) else 0)

/-- Sticky flags of a list of results. -/
def codesAnd (l : List (Nat × Sticky)) : List Nat × Sticky := (l.map (·.1), (l.map (·.2)).foldl Sticky.or {})

/-- A result of w-bit codes. -/
def VRes.ofCodes (w : Nat) (l : List (Nat × Sticky)) : VRes :=
  let (cs, st) := codesAnd l
  { bytes := packElts w cs, st }

/-! ## Reading slots -/

/-- The bytes of pieces as core L's port reads them. -/
def viewPieces (s : State) (L : Nat) (ps : List (Loc × Nat)) : List Byte := ps.flatMap fun (l, m) => s.view L l.key m

/-- The HEAD slot of a ring under a layout code: its pieces. -/
def headPieces (s : State) (r : Ring) (k : Kind) : Chk (List (Loc × Nat)) := slotPieces s r 0 (ringHead s r) k

/-- The HEAD slot is poisoned: its POIS bit, or a poisoned line (R388). -/
def headPoisoned (s : State) (r : Ring) (ps : List (Loc × Nat)) : Bool :=
  slotPois s r (ringHead s r) || piecesPoisoned s ps

/-- A descriptor of the fibre's f registers; ADDR and AUX are 0. -/
def fdesc (w : Word) : Chk Desc := match descOf w with | some d => .ok d | none => trap0 0x090

/-- Watchpoints on a range of addresses (R303). -/
def watchSpan (s : State) (va : VAddr) (n bit : Nat) : Option (BitVec 53) :=
  if s.broken then none
  else ((s.cluster (clusterOf s.L)).wp.toList.find? fun w =>
    let g := (w.extractLsb' 3 53).toNat * 8
    w.getLsbD bit && decide (g < va.toNat + n) && decide (va.toNat < g + 8)).map (·.extractLsb' 3 53)

/-- Ends an engine instruction whose accesses meet a watchpoint. -/
def watchSpans (s : State) (l : List (VAddr × Nat × Bool)) : Chk Unit :=
  match l with
  | [] => .ok ()
  | (va, n, st) :: r =>
    match watchSpan s va n (if st then 57 else 56) with
    | some g => .error (.watch g st)
    | none => watchSpans s r

/-! ## The common procedure (R386, R387) -/

/-- Producer n's place in a ring: its cursor slot, and the bytes it has credited there (R197). -/
def prodPlace (s : State) (r : Ring) (n : Nat) : Nat × Nat :=
  let i := ringHead s r + cursor s r n
  (i, slotCnt s r i n)

/-- The traps of a ring cause (R286). -/
def ringTrap {α : Type} (c : Cause) (r : Ring) (h : HReg) : Chk α := trapA c (BitVec.ofNat 64 r.off) (BitVec.ofNat 64 h.val)

/-- The running plane's a6 and a7. -/
def State.a6 (s : State) : Word := s.getA 6
def State.a7 (s : State) : Word := s.getA 7

/-- Which descriptor states the layout of each position of a form, in the order RD, RS, RT: the sources stand in that order, after RD
where RD is produced. -/
def VForm.described (F : VForm) : List Bool := (if F.out = .produced then [F.out2] else []) ++ F.srcs.map (·.2)

/-- Every stated layout code of a form's operands, in the order RD, RS, RT (R387 step 5). -/
def layChecks (s : State) (F : VForm) (d1 d2 : Desc) (rs : List (HReg × Ring)) : Chk Unit :=
  (rs.zip F.described).forM fun ((h, r), second) => statedLayout s r (if second then d2.lay else d1.lay) h.val

/-- The written position's descriptor is named by another position (R383). -/
def overlapped (F : VForm) (rs : List (HReg × Ring)) : Bool :=
  match F.out, rs with
  | .none, _ => false
  | _, (_, r) :: rest => rest.any fun x => x.2 == r
  | _, [] => false

/-- Stores of an engine into other cores and clusters, as messages of the instruction's fibre (R365). -/
def sendStores (s : State) (l : List (Nat × VAddr × Nat × List Byte)) : State :=
  match l with
  | [] => s
  | (T, va, k, bs) :: r => sendStores (s.send (s.coreId T 0) (.store va k bs)) r

/-- An engine instruction enters its engine: it is numbered, its writes take their place in the core's port, and its messages leave
(R232, R386). -/
def State.enter (s : State) (L : Nat) (matrix : Bool) (o : EngineOp) : State :=
  let o := { o with id := s.nextId }
  let s := { s with nextId := s.nextId + 1 }.openOp L o
  sendStores (s.modCore L fun c => if matrix then { c with mat := some o } else { c with vec := some o }) o.sends

/-- The issuing fibre starts an engine instruction: it stays in its slot, not ready, or leaves it (R386, R400). -/
def State.runEngine (s : State) (matrix : Bool) (o : EngineOp) (away : Bool) : State := (s.enter s.L matrix o).park .running away

/-- Distinct descriptors of a list. -/
def uniq (l : List Nat) : List Nat := l.foldl (fun a x => if a.contains x then a else a ++ [x]) []

/-- The engines accept no instruction of a fibre without a task while a checkpoint waits for its boundary (R130). -/
def State.heldForCut (s : State) (f : Nat) : Bool := (s.ctx s.myCtx).cutting && (s.here.fib f).task.isNone

/-- An engine of the core is free for an instruction. -/
def Core.engineFree (c : Core) (matrix : Bool) : Nat := if (if matrix then c.mat else c.vec).isSome then 0 else 1

/-- The engine takes the instructions that wait for it in issue order; a remote command waits in its own queue (R386, R413). -/
def State.engineTurn (s : State) (matrix remote : Bool) (descs : List Nat) : Bool :=
  !pausedOn (s.here.vecPaused ++ s.here.matPaused) descs &&
    (if remote then s.here.engineFree matrix != 0 else s.served (.engine matrix descs) (s.here.engineFree matrix))

/-- The waits of R386 after steps 1 to 8, for an instruction of fibre `f`: the engine, the tables, the slots, and the port before the
reads of the sources and for the writes (R237). -/
def engineWaits (s : State) (f : Nat) (matrix remote : Bool) (descs srcs : List Nat) (dst : Option Nat) (fs : List Fmt) : Chk Unit := do
  let c := s.here
  if s.heldForCut f then wait .stepBoundary
  if !s.engineTurn matrix remote descs then wait (.engine matrix descs)
  if c.dtBusy0 && fs.any (·.uses false) then wait (.table false false)
  if c.dtBusy1 && fs.any (·.uses true) then wait (.table true false)
  let free (o : Nat) : Bool :=
    let r : Ring := ⟨s.L, o⟩
    match prodIndex s r s.myId with | some n => freeSlots s r n != 0 | none => true
  descs.forM fun o => ringHome s ⟨s.L, o⟩
  if srcs.any (fun o => ringFilled s ⟨s.L, o⟩ == 0) || dst.any (fun o => !free o) then wait (.slots srcs dst)
  readAny s false
  writeGo s noGran false

/-- A vector instruction whose checks before the computation have passed: its engine operation less its result, what the
computation sees, and the destination. -/
structure VPlan where
  op   : EngineOp
  v    : VIn
  /-- The destination slot's pieces, its layout, and the offset of the result in the slot. -/
  dps  : List (Loc × Nat) := []
  lay  : Nat
  off  : Nat := 0
  /-- A source holds poison (R388). -/
  poisoned : Bool := false
  /-- The in-place slot that takes the poison then. -/
  inPlace  : List (Nat × Nat) := []

/-- The checks of R387, steps 2 to 9, with the waits of R386 and the sources' slots. `cls` is the class check of step 4 with its
cause; `step8` the counts; `scale` the handle of the descriptor whose scale pointer the form uses; `len` the result's length in
bytes. -/
def vplan (s : State) (m : AMod) (F : VForm) (scale : Option Bool) (cls : Fmt → Fmt → Option Cause)
    (step8 : VIn → Chk Unit) (len : VIn → Nat) : Chk VPlan := do
  -- 2
  let rs ← (F.d :: F.rest).mapM fun h => do return (h, ← ringOf s s.L s.fibre h)
  let ring (h : HReg) : Ring := ((rs.find? (·.1 == h)).map (·.2)).getD ⟨s.L, 0⟩
  -- 3
  let i1 := m.fsel.val
  let i2 := (i1 + 1) % 4
  let d1 ← fdesc (s.me.f.getD i1 0)
  let d2 ← if F.two then fdesc (s.me.f.getD i2 0) else pure d1
  need (match scale with | some b => (s.me.c.getD (if b then i2 else i1) 0).extractLsb' 56 8 == 0 | none => true) 0x094
  -- 4
  match cls d1.fmt d2.fmt with
  | some c => trapA c 0 (BitVec.ofNat 64 (d1.fmt.code + (if F.two then d2.fmt.code * 256 else 0)))
  | none =>
  -- 5, 6, 7
  layChecks s F d1 d2 rs
  if overlapped F rs then trapA 0x09E 0 (BitVec.ofNat 64 F.d.val)
  let p ← if F.out = .produced then
      match prodIndex s (ring F.d) s.myId with
      | some n => pure (some n)
      | none => ringTrap 0x073 (ring F.d) F.d
    else pure none
  -- 8
  let desc (b : Bool) : Desc := if b then d2 else d1
  let ns := F.srcs.map fun (h, b) => (desc b).fmt.count (slotBytes s (ring h))
  let a7 := s.a7
  let v : VIn := { core := s.here, d1, d2, ns, xs := [], tid := s.a6, row := a7.setWidth 32, col := (a7.extractLsb' 32 32).toNat,
                   room := 0 }
  step8 v
  -- waits
  let srcs := uniq (F.srcs.map fun x => (ring x.1).off)
  let dst := if F.out = .produced then some (ring F.d).off else none
  engineWaits s s.fibre false false (uniq (rs.map (·.2.off))) srcs dst [d1.fmt, d2.fmt]
  -- 9
  let (slot, cnt) := match p with | some n => prodPlace s (ring F.d) n | none => (0, 0)
  let share := ringShare s (ring F.d)
  let room := share - cnt
  let v := { v with room }
  need (!(F.out == .produced) || decide (len v ≤ room)) 0x092
  if F.out = .produced then
    match creditCheck s (ring F.d) s.myId room (s.me.task.map fun t => (s.L, t)) with
    | .ok _ => pure ()
    | .error c => ringTrap c (ring F.d) F.d
  -- the sources
  let ps ← F.srcs.mapM fun (h, _) => headPieces s (ring h) .read
  let dps ← match F.out with
    | .produced => slotPieces s (ring F.d) 0 slot .write
    | .inPlace => headPieces s (ring F.d) .write
    | .none => pure []
  let op : EngineOp :=
    { fibre := s.fibre, slot := s.slot, shadow := s.onShadow, iss := s.cur, next := s.nextPc
      descs := uniq (rs.map (·.2.off)), handles := rs.map fun x => (x.2.off, x.1.val)
      tab0 := d1.fmt.uses false || d2.fmt.uses false, tab1 := d1.fmt.uses true || d2.fmt.uses true
      pops := if F.out = .inPlace then srcs.filter (· ≠ (ring F.d).off) else srcs
      credit := p.map fun n => { desc := (ring F.d).off, n, bytes := room } }
  let spans : List (VAddr × Nat × Bool) := (F.srcs.map fun (h, _) => (slotAddr s (ring h) (ringHead s (ring h)), slotBytes s (ring h), false))
    ++ (match F.out with
        | .produced => [(slotAddr s (ring F.d) slot, slotBytes s (ring F.d), true)]
        | .inPlace => [(slotAddr s (ring F.d) (ringHead s (ring F.d)), slotBytes s (ring F.d), true)]
        | .none => [])
  watchSpans s spans
  piecesGo s ps.flatten false
  let xs := (F.srcs.zip ps).map fun ((h, b), x) =>
    let f := (desc b).fmt
    let bs := unlayout (desc b).lay (viewPieces s s.L x)
    if f = .bsi24 then bs.map (·.toNat) else unpack f.bits (f.count (slotBytes s (ring h))) (leNat bs)
  return { op, v := { v with xs }, dps, lay := (desc F.out2).lay
           off := match p with | some n => n * share + cnt | none => 0
           poisoned := (F.srcs.zip ps).any fun ((h, _), x) => headPoisoned s (ring h) x
           inPlace := if F.out = .inPlace then [((ring F.d).off, ringHead s (ring F.d))] else [] }

/-- The engine operation with a result: the result's bytes in the destination slot, a produced one padded with zeros (R385). -/
def VPlan.start (p : VPlan) (F : VForm) (res : VRes) : EngineOp :=
  let bytes := match F.out with
    | .produced => res.bytes ++ List.replicate (p.v.room - res.bytes.length) 0
    | _ => res.bytes
  { p.op with puts := (if F.out = .none then [] else layoutPuts p.dps p.lay p.off bytes) ++ res.puts, sends := res.sends
              flags := res.st.bits }

/-- The engine operation of an instruction with a poisoned source: it writes nothing, and poisons (R388). -/
def VPlan.poison (p : VPlan) : EngineOp := { p.op with credit := p.op.credit.map fun c => { c with pois := true }, poison := p.inPlace }

/-- A vector instruction (R386, R387): the checks, the computation `comp` with the checks of step 10, and the start in the engine. -/
def vexec (s : State) (m : AMod) (F : VForm) (scale : Option Bool) (cls : Fmt → Fmt → Option Cause)
    (step8 : VIn → Chk Unit) (len : VIn → Nat) (comp : VIn → Chk VRes) : Host.Outcome State Fault Refusal :=
  finish s do
    let p ← vplan s m F scale cls step8 len
    if p.poisoned then return s.runEngine false p.poison false
    let res ← comp p.v
    return s.runEngine false (p.start F res) res.away

/-! ## Shapes of forms (R383) -/

end Sys2Proof.Machine

namespace Sys2Proof

open Machine

/-- A two-source form: in place on RD, or produced. -/
def OpV2.form (o : OpV2) (second : Bool) : VForm :=
  match o.t with
  | none => { d := o.d, rest := [o.s], srcs := [(o.d, false), (o.s, second)], out := .inPlace, two := second }
  | some t => { d := o.d, rest := [o.s, t], srcs := [(o.s, false), (t, second)], out := .produced, two := second }

/-- A three-source form, in place on RD. -/
def OpV3.form (o : OpV3) : VForm :=
  { d := o.d, rest := [o.s, o.t], srcs := [(o.d, false), (o.s, false), (o.t, false)], out := .inPlace }

/-- A one-source form. -/
def OpV1.form (o : OpV1) (conv : Bool) : VForm :=
  { d := o.d, rest := [o.s], srcs := [(o.s, false)], out := .produced, out2 := conv, two := conv }

/-- An RF form. -/
def OpVF.form (o : OpVF) : VForm :=
  match o.t with
  | none => { d := o.d, rest := [], srcs := [(o.d, false)], out := .inPlace }
  | some t => { d := o.d, rest := [t], srcs := [(t, false)], out := .produced }

end Sys2Proof

namespace Sys2Proof.Machine

/-- Data slots hold equal element counts (R384). -/
def sameCount (v : VIn) : Chk Unit := need (v.ns.all (· == v.n)) 0x092

/-- Bytes of n elements. -/
def elemBytes (f : Fmt) (n : Nat) : Nat := (f.bits * n + 7) / 8

/-- A class check on the first descriptor. -/
def clsIs (p : Fmt → Bool) (f _g : Fmt) : Option Cause := if p f then none else some 0x093

/-- The class any: every format except BSI24. -/
def isAny (f : Fmt) : Bool := f != .bsi24

/-- The length of a result with the first descriptor's elements, and with the second's. -/
def len1 (v : VIn) : Nat := elemBytes v.d1.fmt v.n
def len2 (v : VIn) : Nat := elemBytes v.d2.fmt v.n

/-- Each element of the result from the elements of `k` sources. -/
def eachElt (k : Nat) (f : VIn → Nat → Nat → Nat → Nat → Nat × Sticky) (v : VIn) : VRes :=
  .ofCodes v.d1.fmt.bits ((List.range v.n).zip ((v.x 0).zip ((v.x (1 % k)).zip (v.x (2 % k)))) |>.map
    fun (i, x, y, z) => f v i x y z)

/-- A form that computes each element from the elements of its sources. -/
def elementwise (s : State) (m : AMod) (F : VForm) (cls : Fmt → Bool) (f : VIn → Nat → Nat → Nat → Nat → Nat × Sticky) :
    Host.Outcome State Fault Refusal :=
  vexec s m F none (clsIs cls) sameCount len1 fun v => .ok (eachElt F.srcs.length f v)

/-! ## Float arithmetic (R391) -/

/-- A float operation rounded once. -/
def floatOp (m : AMod) (op : Val → Val → Val → Val × Sticky) (v : VIn) (i x y z : Nat) : Nat × Sticky :=
  let F := v.d1.fmt
  let (r, st) := op (decodeElt v.core F x) (decodeElt v.core F y) (decodeElt v.core F z)
  let (c, st2) := encodeVal v.core F (v.rnd m v.d1 i) r
  (c, st.or st2)

/-- VMIN and VMAX: the leftmost NaN, quieted, or the smaller or larger code, −0 below +0. -/
def pickFloat (max : Bool) (k : Core) (F : Fmt) (x y : Nat) : Nat :=
  match decodeElt k F x, decodeElt k F y with
  | .nan p, _ => (encodeNan k F (p ||| 0x00400000)).1
  | _, .nan q => (encodeNan k F (q ||| 0x00400000)).1
  | a, b =>
    let less := match a.cmp b with | .lt => true | .gt => false | .eq => a.neg? && !b.neg?
    if less = max then y else x

def execVadd (o : OpV2) (s : State) : Host.Outcome State Fault Refusal :=
  elementwise s o.m (o.form false) Fmt.isFloat (floatOp o.m fun x y _ => x.add y)
def execVsub (o : OpV2) (s : State) : Host.Outcome State Fault Refusal :=
  elementwise s o.m (o.form false) Fmt.isFloat (floatOp o.m fun x y _ => if y.isNan then x.add y else x.add y.negate)
def execVmul (o : OpV2) (s : State) : Host.Outcome State Fault Refusal :=
  elementwise s o.m (o.form false) Fmt.isFloat (floatOp o.m fun x y _ => x.mul y)
/-- VFMA: x is RS, y is RT and c is RD. -/
def execVfma (o : OpV3) (s : State) : Host.Outcome State Fault Refusal :=
  elementwise s o.m o.form Fmt.isFloat (floatOp o.m fun c x y => x.fma y c)
def execVmin (o : OpV2) (s : State) : Host.Outcome State Fault Refusal :=
  elementwise s o.m (o.form false) Fmt.isFloat fun v _ x y _ => (pickFloat false v.core v.d1.fmt x y, {})
def execVmax (o : OpV2) (s : State) : Host.Outcome State Fault Refusal :=
  elementwise s o.m (o.form false) Fmt.isFloat fun v _ x y _ => (pickFloat true v.core v.d1.fmt x y, {})
def execVabs (o : OpV1) (s : State) : Host.Outcome State Fault Refusal :=
  elementwise s o.m (o.form false) Fmt.isFloat fun v _ x _ _ => (x % 2 ^ (v.d1.fmt.bits - 1), {})
def execVneg (o : OpV1) (s : State) : Host.Outcome State Fault Refusal :=
  elementwise s o.m (o.form false) Fmt.isFloat fun v _ x _ _ => (x ^^^ 2 ^ (v.d1.fmt.bits - 1), {})

/-! ## Compare and select (R392) -/

/-- An integer element. -/
def intElt (w x : Nat) : Int := (BitVec.ofNat w x).toInt

/-- A relation on two elements: every relation with a NaN is false. -/
def vrel (rel : Ordering → Bool) (v : VIn) (_i x y _z : Nat) : Nat × Sticky :=
  let a := decodeElt v.core v.d1.fmt x
  let b := decodeElt v.core v.d1.fmt y
  (if !a.isNan && !b.isNan && rel (a.cmp b) then 2 ^ v.d1.fmt.bits - 1 else 0, {})

def isFloatInt (f : Fmt) : Bool := f.isFloat || f.isInt

def execVcmpeq (o : OpV2) (s : State) : Host.Outcome State Fault Refusal :=
  elementwise s o.m (o.form false) isFloatInt (vrel (· == .eq))
def execVcmplt (o : OpV2) (s : State) : Host.Outcome State Fault Refusal :=
  elementwise s o.m (o.form false) isFloatInt (vrel (· == .lt))
def execVcmple (o : OpV2) (s : State) : Host.Outcome State Fault Refusal :=
  elementwise s o.m (o.form false) isFloatInt (vrel (· != .gt))
/-- VSEL: RD is the mask, RS and RT the choices. -/
def execVsel (o : OpV3) (s : State) : Host.Outcome State Fault Refusal :=
  elementwise s o.m o.form isAny fun _ _ d x y => (if d ≠ 0 then x else y, {})

/-! ## Integers (R393, R394) -/

/-- An exact integer stored in w bits: wrapped, or clamped with SAT. -/
def storeInt (sat : Bool) (w : Nat) (e : Int) : Nat × Sticky :=
  let c := clampInt (-2 ^ (w - 1)) (2 ^ (w - 1) - 1) e
  if sat then ((BitVec.ofInt w c).toNat, { sat := c != e }) else ((BitVec.ofInt w e).toNat, {})

/-- A wrapping or saturating integer form. -/
def intOp (f : Int → Int → Int) (v : VIn) (_i x y _z : Nat) : Nat × Sticky :=
  let w := v.d1.fmt.bits
  storeInt v.d1.sat w (f (intElt w x) (intElt w y))

/-- An integer form that is exact in w bits, on codes. -/
def exactOp (f : Nat → Nat → Nat → Nat) (v : VIn) (_i x y _z : Nat) : Nat × Sticky :=
  (f v.d1.fmt.bits x y % 2 ^ v.d1.fmt.bits, {})

def execViadd (o : OpV2) (s : State) : Host.Outcome State Fault Refusal :=
  elementwise s o.m (o.form false) Fmt.isInt (intOp (· + ·))
def execVisub (o : OpV2) (s : State) : Host.Outcome State Fault Refusal :=
  elementwise s o.m (o.form false) Fmt.isInt (intOp (· - ·))
def execVimul (o : OpV2) (s : State) : Host.Outcome State Fault Refusal :=
  elementwise s o.m (o.form false) Fmt.isInt (intOp (· * ·))
def execViabs (o : OpV1) (s : State) : Host.Outcome State Fault Refusal :=
  elementwise s o.m (o.form false) Fmt.isInt (intOp fun x _ => x.natAbs)
def execVimin (o : OpV2) (s : State) : Host.Outcome State Fault Refusal :=
  elementwise s o.m (o.form false) Fmt.isInt (exactOp fun w x y => if intElt w y < intElt w x then y else x)
def execVimax (o : OpV2) (s : State) : Host.Outcome State Fault Refusal :=
  elementwise s o.m (o.form false) Fmt.isInt (exactOp fun w x y => if intElt w x < intElt w y then y else x)
def execVishl (o : OpV2) (s : State) : Host.Outcome State Fault Refusal :=
  elementwise s o.m (o.form false) Fmt.isInt (exactOp fun w x y => x * 2 ^ (y % w))
def execVishr (o : OpV2) (s : State) : Host.Outcome State Fault Refusal :=
  elementwise s o.m (o.form false) Fmt.isInt (exactOp fun w x y => x / 2 ^ (y % w))
def execVisar (o : OpV2) (s : State) : Host.Outcome State Fault Refusal :=
  elementwise s o.m (o.form false) Fmt.isInt (exactOp fun w x y => (BitVec.ofInt w (intElt w x / 2 ^ (y % w))).toNat)
def execVand (o : OpV2) (s : State) : Host.Outcome State Fault Refusal :=
  elementwise s o.m (o.form false) isAny (exactOp fun _ x y => x &&& y)
def execVor (o : OpV2) (s : State) : Host.Outcome State Fault Refusal :=
  elementwise s o.m (o.form false) isAny (exactOp fun _ x y => x ||| y)
def execVxor (o : OpV2) (s : State) : Host.Outcome State Fault Refusal :=
  elementwise s o.m (o.form false) isAny (exactOp fun _ x y => x ^^^ y)

/-! ## Conversions (R395, R396) -/

/-- A pair that a conversion takes. -/
def pairIs (p : Fmt → Fmt → Bool) (f g : Fmt) : Option Cause := if p f g then none else some 0x09B

def floatNarrow (f : Fmt) : Bool := f.isFloat || f.isNarrow

/-- Blocks of 64 elements. -/
def chunks {α : Type} (n k : Nat) (l : List α) : List (List α) :=
  match k with
  | 0 => []
  | k + 1 => l.take n :: chunks n k (l.drop n)

/-- Each element converted from the first format to the second. -/
def converted (m : AMod) (v : VIn) : VRes :=
  .ofCodes v.d2.fmt.bits (((v.x 0).zipIdx).map fun (x, i) =>
    encodeVal v.core v.d2.fmt (v.rnd m v.d2 i) (decodeElt v.core v.d1.fmt x))

/-- A conversion. -/
def convert (s : State) (o : OpV1) (pair : Fmt → Fmt → Bool) : Host.Outcome State Fault Refusal :=
  vexec s o.m (o.form true) none (pairIs pair) sameCount len2 fun v => .ok (converted o.m v)

/-- The first BSI24 block that fails R275, and the elements of the others. -/
def bsiBlocks (i : Nat) (l : List (List Byte)) : Chk (List (BitVec 32)) :=
  match l with
  | [] => .ok []
  | b :: r =>
    match bsiDecode b with
    | none => trapA 0x091 0 (BitVec.ofNat 64 i)
    | some xs => do return xs ++ (← bsiBlocks (i + 1) r)

/-- The descriptor that a format register holds has this format (R389). -/
def hasFmt (s : State) (i : Nat) (F : Fmt) : Bool :=
  match descOf (s.me.f.getD (i % 4) 0) with | some x => x.fmt == F | none => false

/-- FP32 elements to BSI24 blocks, and back. -/
def toBsi (skip : Bool) (v : VIn) : VRes :=
  { bytes := (chunks 64 (v.n / 64) ((v.x 0).map (BitVec.ofNat 32))).flatMap (bsiEncode skip) }
def fromBsi (v : VIn) : Chk VRes := do
  let bs := chunks 200 (v.n / 64) ((v.x 0).map (BitVec.ofNat 8))
  let ys ← bsiBlocks 0 bs
  return { bytes := ys.flatMap fun y => leBytes 4 y.toNat, st := { nv := bs.any bsiMakesNan } }

/-- VCVT with its BSI24 pairs. -/
def execVcvt (o : OpV1) (s : State) : Host.Outcome State Fault Refusal :=
  let i := o.m.fsel.val
  if hasFmt s i .fp32 && hasFmt s (i + 1) .bsi24 then
    vexec s o.m (o.form true) none (pairIs fun _ _ => true) (fun v => need (v.n % 64 = 0) 0x092) (fun v => v.n / 64 * 200)
      fun v => .ok (toBsi (s.nfCfg.getLsbD 0) v)
  else if hasFmt s i .bsi24 && hasFmt s (i + 1) .fp32 then
    vexec s o.m (o.form true) none (pairIs fun _ _ => true) sameCount (fun v => 4 * v.n) fromBsi
  else convert s o fun f g => floatNarrow f && floatNarrow g

def execVcvti (o : OpV1) (s : State) : Host.Outcome State Fault Refusal := convert s o fun f g => f.isFloat && g.isInt
def execVcvtf (o : OpV1) (s : State) : Host.Outcome State Fault Refusal := convert s o fun f g => f.isInt && g.isFloat

/-- A value times 2^k. -/
def Val.scale (v : Val) (k : Int) : Val :=
  match v with
  | .fin n m e => .fin n m (e + k)
  | v => v

/-- emax of a narrow format (R254): none for a table without a finite non-zero value. -/
def emaxOf (k : Core) (F : Fmt) : Option Int :=
  match F with
  | .e2m3 => some 2
  | .e3m2 => some 4
  | .e2m1 => some 2
  | .t8 t =>
    ((k.table t).zipIdx.filterMap fun (x, c) => match entryVal c x with
      | .fin _ m e => if m = 0 then none else some (flog2 m e)
      | _ => none).max?
  | _ => none

/-- The scale code of a block (R254). -/
def blockScale (k : Core) (F : Fmt) (vs : List Val) : Nat :=
  let logs := vs.filterMap fun v => match v with | .fin _ m e => if m = 0 then none else some (flog2 m e) | _ => none
  match logs.max?, emaxOf k F with
  | some l, some e => (clampInt 0 254 (l - e + 127)).toNat
  | _, _ => 127

/-- A store of an instruction's engine at an address: at its home, or as a message. -/
def engineStore (s : State) (va : VAddr) (bs : List Byte) : Chk (List Put × List (Nat × VAddr × Nat × List Byte)) := do
  let l ← resolve s (s.party s.L) va .write
  match l.home with
  | .control _ => badWindow (s.party s.L) va 0
  | _ =>
    if l.isLocal s.L then notBound s s.L l.key bs.length
    match l.target with
    | some T => if l.isLocal s.L then return ([{ key := l.key, bytes := bs }], []) else return ([], [(T, va, l.key, bs)])
    | none => return ([{ key := l.key, bytes := bs }], [])

/-- Stores of bytes at rising addresses. -/
def byteStores (s : State) (va : VAddr) (bs : List Byte) : Chk (List Put × List (Nat × VAddr × Nat × List Byte)) :=
  match bs with
  | [] => .ok ([], [])
  | b :: r => do
    let (p, q) ← engineStore s va [b]
    let (ps, qs) ← byteStores s (va + 1) r
    return (p ++ ps, q ++ qs)

/-- Stores of scale bytes, none of which may meet poison (R388). -/
def scaleStores (s : State) (va : VAddr) (bs : List Byte) : Chk (List Put × List (Nat × VAddr × Nat × List Byte)) := do
  let (ps, qs) ← byteStores s va bs
  need (!(ps.any (fun x => s.poisoned x.key 1) || qs.any fun x => s.poisoned x.2.2.1 1)) 0x120
  return (ps, qs)

/-- VQUANT's scale codes and elements: 127 for every block where the form writes no scales. -/
def quantized (s : State) (o : OpV1) (v : VIn) : Chk VRes := do
  let c := s.me.c.getD ((o.m.fsel.val + 1) % 4) 0
  let at_ : VAddr := c.setWidth 56 + BitVec.ofNat 56 (v.col / 32)
  let blocks := chunks 32 (v.n / 32) ((v.x 0).map (decodeElt v.core v.d1.fmt))
  let scales := blocks.map fun b => if c = 0 then 127 else blockScale v.core v.d2.fmt b
  let (puts, sends) ← if c = 0 then pure ([], []) else scaleStores s at_ (scales.map (BitVec.ofNat 8))
  watchSpans s (if c = 0 then [] else [(at_, scales.length, true)])
  let codes := ((blocks.zip scales).flatMap fun (b, k) => b.map fun x => (x, k)).zipIdx.map fun ((x, k), i) =>
    encodeVal v.core v.d2.fmt (v.rnd o.m v.d2 i) (x.scale (127 - (k : Int)))
  return { VRes.ofCodes v.d2.fmt.bits codes with puts, sends }

/-- The count rule of VQUANT. -/
def quantCount (v : VIn) : Chk Unit := need (v.col % 32 = 0 ∧ v.n % 32 = 0) 0x09A 0 (BitVec.ofNat 64 v.col)

def execVquant (o : OpV1) (s : State) : Host.Outcome State Fault Refusal :=
  vexec s o.m (o.form true) (some true) (pairIs fun f g => f.isFloat && g.isNarrow) quantCount len2 (quantized s o)

/-- The home of a byte that the instruction loads. -/
def byteLoc (s : State) (va : VAddr) : Chk Loc := do
  let l ← resolve s (s.party s.L) va .read
  match l.home with
  | .control _ => badWindow (s.party s.L) va 0
  | _ => return l

/-- VDEQUANT's elements under their blocks' scales. -/
def dequantized (s : State) (o : OpV1) (v : VIn) : Chk VRes := do
  let c := s.me.c.getD o.m.fsel.val 0
  let b0 := v.col / 32
  let nb := (v.col + v.n + 31) / 32 - b0
  let base := c.setWidth 56 + BitVec.ofNat 56 b0
  let locs ← if c = 0 then pure [] else (List.range nb).mapM fun i => byteLoc s (base + BitVec.ofNat 56 i)
  need (!(locs.any fun l => s.poisoned l.key 1)) 0x120
  watchSpans s (if c = 0 then [] else [(base, nb, false)])
  piecesGo s (locs.map (·, 1)) false
  let scales := locs.map fun l => s.viewN s.L l.key 1
  return .ofCodes v.d2.fmt.bits ((v.x 0).zipIdx.map fun (x, i) =>
    let k := if c = 0 then 127 else scales.getD ((v.col + i) / 32 - b0) 127
    let y := decodeElt v.core v.d1.fmt x
    encodeVal v.core v.d2.fmt (v.rnd o.m v.d2 i)
      (if k = 255 then .nan 0x7FC00002 else if y.isNan then y else y.scale ((k : Int) - 127)))

def execVdequant (o : OpV1) (s : State) : Host.Outcome State Fault Refusal :=
  vexec s o.m (o.form true) (some false) (pairIs fun f g => f.isNarrow && g.isFloat) sameCount len2 (dequantized s o)

/-! ## Reductions and scan (R397, R398) -/

/-- One rounded addition of a reduction: rnd 0, and the descriptor's SAT. -/
def addNode (v : VIn) (a b : Nat × Sticky) : Nat × Sticky :=
  let F := v.d1.fmt
  let (r, st) := (decodeElt v.core F a.1).add (decodeElt v.core F b.1)
  let (c, st2) := encodeVal v.core F { sat := v.d1.sat } r
  (c, ((a.2.or b.2).or st).or st2)

/-- A reduction's one element: over the tree for floats, exact for integers. -/
def reduced (node : VIn → Nat × Sticky → Nat × Sticky → Nat × Sticky) (ints : VIn → List Int → Nat × Sticky) (v : VIn) : VRes :=
  .ofCodes v.d1.fmt.bits
    [if v.d1.fmt.isInt then ints v ((v.x 0).map (intElt v.d1.fmt.bits))
     else (treeSum (node v) ((v.x 0).map fun x => some (x, ({} : Sticky))) (clog2 v.n)).getD (0, {})]

def reduce (s : State) (o : OpV1) (node : VIn → Nat × Sticky → Nat × Sticky → Nat × Sticky) (ints : VIn → List Int → Nat × Sticky) :
    Host.Outcome State Fault Refusal :=
  vexec s o.m (o.form false) none (clsIs isFloatInt) sameCount (fun v => elemBytes v.d1.fmt 1) fun v => .ok (reduced node ints v)

def execVrsum (o : OpV1) (s : State) : Host.Outcome State Fault Refusal :=
  reduce s o addNode fun v l => storeInt v.d1.sat v.d1.fmt.bits (l.foldl (· + ·) 0)
def execVrmax (o : OpV1) (s : State) : Host.Outcome State Fault Refusal :=
  reduce s o (fun v a b => (pickFloat true v.core v.d1.fmt a.1 b.1, {})) fun v l => storeInt false v.d1.fmt.bits (l.max?.getD 0)
def execVrmin (o : OpV1) (s : State) : Host.Outcome State Fault Refusal :=
  reduce s o (fun v a b => (pickFloat false v.core v.d1.fmt a.1 b.1, {})) fun v l => storeInt false v.d1.fmt.bits (l.min?.getD 0)

/-- Prefixes of a list under an operation. -/
def prefixes {α : Type} (op : α → α → α) (a : Option α) (l : List α) : List α :=
  match l with
  | [] => []
  | x :: r => let y := match a with | some a => op a x | none => x; y :: prefixes op (some y) r

/-- VSCAN's prefixes; a third ring gives the carry in its element 0. -/
def scanned (carry : Bool) (v : VIn) : VRes :=
  let g := if carry then some ((v.x 1).getD 0 0) else none
  let w := v.d1.fmt.bits
  if v.d1.fmt.isInt then
    .ofCodes w ((prefixes (· + ·) (g.map (intElt w)) ((v.x 0).map (intElt w))).map (storeInt v.d1.sat w))
  else
    -- x[0] + g, then y[i − 1] + x[i]
    let xs := (v.x 0).map fun x => (x, ({} : Sticky))
    let xs := match g, xs with
      | some g, x :: r => addNode v x (g, {}) :: r
      | _, xs => xs
    .ofCodes w (prefixes (addNode v) none xs)

/-- VSCAN's operands. -/
def scanForm (o : OpV2) : VForm :=
  match o.t with
  | none => { d := o.d, rest := [o.s], srcs := [(o.s, false)], out := .produced }
  | some t => { d := o.d, rest := [o.s, t], srcs := [(o.s, false), (t, false)], out := .produced }

def execVscan (o : OpV2) (s : State) : Host.Outcome State Fault Refusal :=
  vexec s o.m (scanForm o) none (clsIs isFloatInt) (fun _ => .ok ()) len1 fun v => .ok (scanned o.t.isSome v)

/-! ## Permute, gather, scatter and broadcast (R399–R401) -/

/-- A class check with an index format. -/
def indexed (p : Fmt → Bool) (f g : Fmt) : Option Cause := if p f && g.isInt then none else some 0x093

/-- VPERM's elements: each index must lie in the slot. -/
def permuted (v : VIn) : Chk VRes :=
  let data := (v.x 0).toArray
  let idx := ((v.x 1).take v.n).map (intElt v.d2.fmt.bits)
  match idx.findIdx? fun i => decide (i < 0) || decide ((v.n : Int) ≤ i) with
  | some j => trapA 0x097 0 (BitVec.ofNat 64 j)
  | none => .ok { bytes := packElts v.d1.fmt.bits (idx.map fun i => data.getD i.toNat 0) }

/-- The count rule of VPERM. -/
def permCount (v : VIn) : Chk Unit := need (v.n ≤ v.ns.getD 1 0) 0x092

def execVperm (o : OpV2) (s : State) : Host.Outcome State Fault Refusal :=
  vexec s o.m (o.form true) none (indexed isAny) permCount len1 permuted

/-- A format whose elements are 1, 2 or 4 bytes wide. -/
def byteWide (f : Fmt) : Bool := f.bits == 8 || f.bits == 16 || f.bits == 32

/-- The register pair of R400. -/
def pairReg (r : GReg) : Bool := decide (r.val ≤ 6) || (decide (8 ≤ r.val) && decide (r.val ≤ 38))

/-- The element addresses: each index must lie in 0 to L − 1. -/
def gatherAddrs (s : State) (o : OpVG) (w : Nat) (idx : List Int) (range : Cause) : Chk (List VAddr) :=
  let b := s.getG o.s
  let limit := (match o.s.plus 1 with | some r => s.getG r | none => 0).toNat
  match idx.findIdx? fun i => decide (i < 0) || decide ((limit : Int) ≤ i) with
  | some j => trapA range 0 (BitVec.ofNat 64 j)
  | none => .ok (idx.map fun i => (b + BitVec.ofNat 64 (i.toNat * (w / 8))).setWidth 56)

/-- The addresses with their element numbers, in ascending address order. -/
def byAddress (l : List VAddr) : List (VAddr × Nat) :=
  l.zipIdx.foldl (fun a x => insertBy (fun y z => decide (y.1.toNat < z.1.toNat)) x a) []

/-- The address checks of step 10, in ascending order. -/
def gatherChecks (s : State) (w : Nat) (k : Kind) (l : List (VAddr × Nat)) : Chk Unit :=
  l.forM fun (va, i) => do
    need (va.toNat % (w / 8) = 0) 0x03F (va.setWidth 64) (BitVec.ofNat 64 i)
    let loc ← resolve s (s.party s.L) va k
    match loc.home with
    | .control _ => badWindow (s.party s.L) va 0
    | _ => return ()

/-- VGATHER's elements, in the order of their indexes. -/
def gathered (s : State) (o : OpVG) (v : VIn) : Chk VRes := do
  let w := v.d1.fmt.bits
  let addrs ← gatherAddrs s o w ((v.x 0).map (intElt v.d2.fmt.bits)) 0x095
  gatherChecks s w .read (byAddress addrs)
  let locs ← addrs.mapM fun va => resolve s (s.party s.L) va .read
  need (!(locs.any fun l => s.poisoned l.key (w / 8))) 0x120
  watchSpans s (addrs.map fun va => (va, w / 8, false))
  piecesGo s (locs.map (·, w / 8)) false
  return { bytes := locs.flatMap fun l => s.view s.L l.key (w / 8), away := locs.any fun l => !l.isLocal s.L }

/-- VGATHER's operands. -/
def gatherForm (o : OpVG) : VForm := { d := o.d, rest := [o.t], srcs := [(o.t, true)], out := .produced, two := true }

def execVgather (o : OpVG) (s : State) : Host.Outcome State Fault Refusal :=
  vexec s o.m (gatherForm o) none (indexed byteWide) (fun _ => need (pairReg o.s) 0x005) len1 (gathered s o)

/-- The stores of a scatter, in ascending element order. -/
def scatterStores (s : State) (l : List (VAddr × List Byte)) : Chk (List Put × List (Nat × VAddr × Nat × List Byte)) :=
  match l with
  | [] => .ok ([], [])
  | (va, bs) :: r => do
    let (p, q) ← engineStore s va bs
    let (ps, qs) ← scatterStores s r
    return (p ++ ps, q ++ qs)

/-- VSCATTER's stores. -/
def scattered (s : State) (o : OpVG) (v : VIn) : Chk VRes := do
  let w := v.d1.fmt.bits
  let addrs ← gatherAddrs s o w ((v.x 1).map (intElt v.d2.fmt.bits)) 0x096
  gatherChecks s w .write (byAddress addrs)
  let (puts, sends) ← scatterStores s (addrs.zip ((v.x 0).map fun x => leBytes (w / 8) x))
  watchSpans s (addrs.map fun va => (va, w / 8, true))
  return { puts, sends }

/-- VSCATTER's operands: it has no result in a slot. -/
def scatterForm (o : OpVG) : VForm :=
  { d := o.d, rest := [o.t], srcs := [(o.d, false), (o.t, true)], out := .none, two := true }

def execVscatter (o : OpVG) (s : State) : Host.Outcome State Fault Refusal :=
  vexec s o.m (scatterForm o) none (indexed byteWide) (fun v => do sameCount v; need (pairReg o.s) 0x005) (fun _ => 0) (scattered s o)

/-- VBCAST's elements: the low bits of RS, as many as the slot takes. -/
def broadcast (x : Word) (v : VIn) : VRes :=
  let w := v.d1.fmt.bits
  { bytes := packElts w (List.replicate (v.room * 8 / w) (x.toNat % 2 ^ w)) }

def execVbcast (o : OpVB) (s : State) : Host.Outcome State Fault Refusal :=
  vexec s o.m { d := o.d, rest := [], srcs := [], out := .produced } none (clsIs isAny) (fun _ => .ok ()) (fun _ => 0)
    fun v => .ok (broadcast (s.getG o.s) v)

/-! ## Special functions (R402) -/

/-- Each element's function value. -/
def mapped32 (f : BitVec 32 → BitVec 32 × Sticky) (v : VIn) : VRes :=
  .ofCodes 32 ((v.x 0).map fun x => let (y, st) := f (BitVec.ofNat 32 x); (y.toNat, st))

/-- The class check of a special function. -/
def only32 (a _b : Fmt) : Option Cause := if a = .fp32 then none else some 0x09C

/-- A special function on FP32. -/
def special (s : State) (o : OpVF) (f : BitVec 32 → BitVec 32 × Sticky) : Host.Outcome State Fault Refusal :=
  vexec s o.m o.form none only32 sameCount len1 fun v => .ok (mapped32 f v)

def execVexp2 (o : OpVF) (s : State) : Host.Outcome State Fault Refusal := special s o vexp2
def execVlog2 (o : OpVF) (s : State) : Host.Outcome State Fault Refusal := special s o vlog2
def execVrcp (o : OpVF) (s : State) : Host.Outcome State Fault Refusal := special s o vrcp
def execVrsq (o : OpVF) (s : State) : Host.Outcome State Fault Refusal := special s o vrsq

end Sys2Proof.Machine
end

