-- ==== Sys2Proof/Machine/Matrix.lean ====
section
/-! DEFINITION. The matrix unit (spec/18_isa_matrix_and_engines.md R405–R413). A matrix instruction that starts computes
all it will do and enters the core's matrix unit; ENGINE_INSTRUCTION_COMPLETE carries it out (R412). A remote command of
MMRC executes as an instruction of the fibre that its target's CORE_MMCAP names.
Log entries: 20, 22 (DEDUCED). -/

namespace Sys2Proof.Machine

/-! ## Who executes a matrix form -/

/-- The fibre a matrix form acts for: on the issuing core, the issuing fibre with its a6 and a7, or a remote command's
fibre with the command's own words (R413). -/
structure Mx where
  fibre : Nat
  a6    : Word
  a7    : Word
  remote : Bool := false

/-- The issuing fibre. -/
def State.mx (s : State) : Mx := { fibre := s.fibre, a6 := s.a6, a7 := s.a7 }

def Mx.fib (x : Mx) (s : State) : Fibre := s.here.fib x.fibre

/-- An accumulator of the issuing core. -/
def State.acc (s : State) (q : QReg) : Acc := s.here.acc.get q

/-- Ownership (R405). -/
def ownsAcc (s : State) (x : Mx) (q : QReg) : Chk Unit :=
  need ((s.acc q).own && (s.acc q).owner == x.fibre) 0x089

/-! ## Operands (R406) -/

/-- Bytes of a block-column. -/
def colBytes (f : Fmt) : Nat := 128 * f.bits + 64

/-- The formats that MMA and MMAS accept, and MMRD. -/
def mmaFmt (f : Fmt) : Bool := f.isNarrow
def mmrdFmt (f : Fmt) : Bool := f.isNarrow || f.isFloat

/-- The data slots of a ring lie in the direct TCM of the issuing core. -/
def inDirect (s : State) (r : Ring) (h : HReg) : Chk Unit :=
  match resolveRange s (ringParty s r 0) (ringBase s r) (ringSlots s r * slotBytes s r) .read with
  | .ok ps => if ps.all fun (l, _) => l.home == .tcm s.L then .ok () else ringTrap 0x07C r h
  | .error _ => ringTrap 0x07C r h

/-- The block-columns of a slot's bytes: the elements of each row, and its scales. -/
def blockCols (k : Core) (f : Fmt) (bs : List Byte) (n : Nat) : List (List (List Val) × List Nat) :=
  (chunks (colBytes f) n bs).map fun b =>
    let es := unpack f.bits 1024 (leNat (b.take (128 * f.bits)))
    (chunks 32 32 (es.map (decodeElt k f)), (b.drop (128 * f.bits)).take 32 |>.map (·.toNat))

/-- The position in A of B's block-column kb: the ones before it in the stream, none where its bit is 0 (R407). -/
def skipIndex (bits : Option (List Bool)) (kb : Nat) : Option Nat :=
  match bits with
  | none => some kb
  | some l => if l.getD kb false then some ((l.take kb).count true) else none

/-- The cells after the block products of R407. -/
def mmaCells (a : Acc) (as bs : List (List (List Val) × List Nat)) (bits : Option (List Bool)) : Sparse Cell :=
  ((List.range 1024).map fun e =>
    let i := e / 32
    let j := e % 32
    (e, (List.range bs.length).foldl (init := spGet a.cells e {}) fun c kb =>
      match skipIndex bits kb with
      | none => c
      | some m =>
        let (ra, sa) := as.getD m ([], [])
        let (rb, sb) := bs.getD kb ([], [])
        c.block a.anchor (ra.getD i []) (rb.getD j []) (sa.getD i 0) (sb.getD j 0))).filter fun e => e.2 ≠ ({} : Cell)

/-! ## MMA and MMAS (R407, R408) -/

/-- The stream bits of MMAS, read from the direct TCM (R410). -/
def streamBits (s : State) (k : Skip) (n : Nat) : Chk (List Bool) := do
  let lo := k.off + k.pos / 8
  let len := (k.pos + n + 7) / 8 - k.pos / 8
  need (!s.poisoned (tcmKey s.L lo) len) 0x120
  piecesGo s [(⟨tcmKey s.L lo, .tcm s.L⟩, len)] false
  let v := leNat (s.view s.L (tcmKey s.L lo) len)
  return (List.range n).map fun i => (v / 2 ^ (k.pos % 8 + i)) % 2 == 1

/-- The pops of MMA: each operand's slot once, unless it is kept (R407). -/
def mmaPops (o : OpMma) (ra rb : Ring) : List Nat :=
  if ra = rb then (if o.keepA || o.keepB then [] else [ra.off])
  else (if o.keepA then [] else [ra.off]) ++ (if o.keepB then [] else [rb.off])

/-- MMA and MMAS up to their start. -/
def mmaOp (s : State) (x : Mx) (o : OpMma) (skip : Bool) : Chk EngineOp := do
  -- 2, 3
  let ra ← ringOf s s.L x.fibre o.ha
  let rb ← ringOf s s.L x.fibre o.hb
  ownsAcc s x o.q
  -- 4
  let i1 := o.m.fsel.val
  let da ← fdesc ((x.fib s).f.getD i1 0)
  let db ← fdesc ((x.fib s).f.getD ((i1 + 1) % 4) 0)
  need (mmaFmt da.fmt && mmaFmt db.fmt) 0x081
  need ((da.fmt == .e2m1) == (db.fmt == .e2m1)) 0x082
  -- 5, 6
  inDirect s ra o.ha
  inDirect s rb o.hb
  statedLayout s ra da.lay o.ha.val
  statedLayout s rb db.lay o.hb.val
  -- 7
  need (decide (colBytes da.fmt ≤ slotBytes s ra) && slotBytes s ra % colBytes da.fmt == 0
    && decide (colBytes db.fmt ≤ slotBytes s rb) && slotBytes s rb % colBytes db.fmt == 0) 0x083
  let na := slotBytes s ra / colBytes da.fmt
  let nb := slotBytes s rb / colBytes db.fmt
  need (if skip then decide (na ≤ nb) else na == nb) 0x080
  -- 8
  let k := s.here.skip.get o.q
  need (!skip || k.len != 0) 0x086
  need (!skip || decide (nb ≤ k.len - k.pos)) 0x087
  -- the waits
  let descs := uniq [ra.off, rb.off]
  engineWaits s x.fibre true x.remote descs descs none [da.fmt, db.fmt]
  let pa ← headPieces s ra .read
  let pb ← headPieces s rb .read
  -- 10
  let bits ← if skip then (do return some (← streamBits s k nb)) else pure none
  need (match bits with | some l => l.count true == na | none => true) 0x088
  piecesGo s (pa ++ pb) false
  let a := s.acc o.q
  let a' : Acc :=
    if headPoisoned s ra pa || headPoisoned s rb pb then { a with pois := true }
    else if a.pois then a
    else
      let as := blockCols s.here da.fmt (unlayout da.lay (viewPieces s s.L pa)) na
      let bs := blockCols s.here db.fmt (unlayout db.lay (viewPieces s s.L pb)) nb
      { a with cells := mmaCells a as bs bits }
  return {
    fibre := x.fibre, slot := s.slot, shadow := s.onShadow, iss := s.cur, next := s.nextPc, descs, handles := [(ra.off, o.ha.val), (rb.off, o.hb.val)]
    tab0 := da.fmt.uses false || db.fmt.uses false, tab1 := da.fmt.uses true || db.fmt.uses true
    pops := mmaPops o ra rb, accQ := some o.q, acc := some (o.q, a')
    skip := if skip then some (o.q, k.pos + nb) else none }

/-- The slots that a matrix form reads and writes, for watchpoints (R303). -/
def mmaSpans (s : State) (o : OpMma) : List (VAddr × Nat × Bool) :=
  [o.ha, o.hb].filterMap fun h =>
    match ringOf s s.L s.fibre h with
    | .ok r => some (slotAddr s r (ringHead s r), slotBytes s r, false)
    | .error _ => none

def execMma (o : OpMma) (s : State) : Host.Outcome State Fault Refusal :=
  finish s do
    let op ← mmaOp s s.mx o false
    watchSpans s (mmaSpans s o)
    return s.runEngine true op false

def execMmas (o : OpMma) (s : State) : Host.Outcome State Fault Refusal :=
  finish s do
    let op ← mmaOp s s.mx o true
    let k := s.here.skip.get o.q
    watchSpans s (mmaSpans s o ++ [(BitVec.ofNat 56 (0xFF * 2 ^ 48 + k.off + k.pos / 8), 1, false)])
    return s.runEngine true op false

/-! ## MMRD (R411) -/

/-- MMRD up to its start. -/
def mmrdOp (s : State) (x : Mx) (o : OpMmrd) : Chk (EngineOp × VAddr × Nat) := do
  let r ← ringOf s s.L x.fibre o.d
  ownsAcc s x o.q
  let d ← fdesc ((x.fib s).f.getD o.m.fsel.val 0)
  need (mmrdFmt d.fmt) 0x085
  statedLayout s r d.lay o.d.val
  let len := elemBytes d.fmt 1024
  let n ← match prodIndex s r s.myId with | some n => pure n | none => ringTrap 0x073 r o.d
  need (len ≤ ringShare s r) 0x083
  let row := (x.a7.extractLsb' 0 32).toNat
  let col := (x.a7.extractLsb' 32 32).toNat
  need (row + 31 < 2 ^ 32 ∧ col + 31 < 2 ^ 32) 0x08A
  engineWaits s x.fibre true x.remote [r.off] [] (some r.off) [d.fmt]
  let (slot, cnt) := prodPlace s r n
  let room := ringShare s r - cnt
  need (len ≤ room) 0x083
  let owner := (x.fib s).task.map fun t => (s.L, t)
  match creditCheck s r s.myId room owner with
  | .ok _ => pure ()
  | .error c => ringTrap c r o.d
  let ps ← slotPieces s r 0 slot .write
  let a := s.acc o.q
  let mode := if o.m.rnd.val = 0 then d.rnd else o.m.rnd.val - 1
  let (codes, st) := codesAnd ((List.range 1024).map fun e =>
    let k := if mode = 2 then kweash x.a6 d.step (BitVec.ofNat 32 (row + e / 32)) (BitVec.ofNat 32 (col + e % 32)) else 0
    (spGet a.cells e {}).readout s.here a.anchor d.fmt (d.round mode k))
  let bs := packElts d.fmt.bits codes
  let bs := bs ++ List.replicate (room - bs.length) 0
  let op : EngineOp := {
    fibre := x.fibre, slot := s.slot, shadow := s.onShadow, iss := s.cur, next := s.nextPc, descs := [r.off], handles := [(r.off, o.d.val)]
    tab0 := d.fmt.uses false, tab1 := d.fmt.uses true, accQ := some o.q
    puts := if a.pois then [] else layoutPuts ps d.lay (n * ringShare s r + cnt) bs
    flags := if a.pois then 0 else st.bits
    credit := some { desc := r.off, n, bytes := room, pois := a.pois } }
  return (op, slotAddr s r slot, slotBytes s r)

def execMmrd (o : OpMmrd) (s : State) : Host.Outcome State Fault Refusal :=
  finish s do
    let (op, va, n) ← mmrdOp s s.mx o
    watchSpans s [(va, n, true)]
    return s.runEngine true op false

/-! ## MMCLR and SKSET (R405, R409, R410) -/

/-- The accumulator belongs to another live fibre. -/
def accTaken (s : State) (q : QReg) : Bool := (s.acc q).own && (s.acc q).owner != s.fibre

def execMmclr (o : OpQG) (s : State) : Host.Outcome State Fault Refusal :=
  finish s do
    let v := (s.getG o.s).toInt
    need (-512 ≤ v ∧ v ≤ 511) 0x084
    if s.heldForCut s.fibre then wait .stepBoundary
    if accTaken s o.q then wait (.accumulator o.q)
    if !s.engineTurn true false [] then wait (.engine true [])
    let a : Acc := { anchor := v, owner := s.fibre, own := true }
    return (s.modHere fun c => { c with acc := c.acc.set o.q a, skip := c.skip.set o.q {} }).advance

def execSkset (o : OpQG) (s : State) : Host.Outcome State Fault Refusal :=
  finish s do
    ownsAcc s s.mx o.q
    let v := s.getG o.s
    let off := (v.extractLsb' 0 18).toNat
    let len := (v.extractLsb' 18 16).toNat
    need (off % 8 = 0 ∧ len ≠ 0 ∧ v.extractLsb' 34 30 = 0 ∧ off + (len + 7) / 8 ≤ s.here.directBytes) 0x086
    if s.heldForCut s.fibre then wait .stepBoundary
    if !s.engineTurn true false [] then wait (.engine true [])
    let k : Skip := { off, len }
    return (s.modHere fun c => { c with skip := c.skip.set o.q k }).advance

/-! ## MMRC (R413) -/

/-- The instruction of a command word with its REG and MOD payloads: MMA, MMAS or MMRD. -/
def mmrcInstr (w : Word) : Chk Instr :=
  let base := w.extractLsb' 0 16
  let opt (p : BitVec 11) : Option (BitVec 11) := if p = 0 then none else some p
  let reg := opt (w.extractLsb' 16 11)
  let mod := opt (w.extractLsb' 27 11)
  match decodeBase { n := 3, page := some 2, reg, mod } base with
  | .error e => trap0 e.cause
  | .ok (.mma o) => .ok (.mma o)
  | .ok (.mmas o) => .ok (.mmas o)
  | .ok (.mmrd o) => .ok (.mmrd o)
  | .ok _ => trap0 0x08E

/-- Sends a remote command; R292 does not count it. -/
def State.sendCmd (s : State) (id : CoreId) (body : MsgBody) : State :=
  match s.localCore id with
  | some _ => s.queueMsg id body
  | none =>
    let m : Msg := { id := s.nextId, src := s.myId, dst := id, ctx := s.myCtx, fibre := s.fibre, pc := s.cur.pc, cycle := s.now, body }
    { s with nextId := s.nextId + 1, outMsgs := s.outMsgs ++ [m] }

/-- MMRC sends its command, and waits for the status. -/
def execMmrc (o : OpGG) (s : State) : Host.Outcome State Fault Refusal :=
  finish s do
    need (regGroup o.s.val 4) 0x005
    let w := s.getRegs o.s.val 4
    let w0 := w.getD 0 0
    let id := w0.extractLsb' 0 32
    need (namesCore s id && (match s.localCore id with
      | some T => inCtx s (some s.myCtx) (clusterOf T) && T != s.L
      | none => true)) 0x08E
    let i ← mmrcInstr (w.getD 1 0)
    need ((w.getD 1 0).extractLsb' 38 26 = 0) 0x007
    let cmd : MatCmd := { instr := i, key := w.getD 2 0, row := (w.getD 3 0).extractLsb' 0 32, col := (w.getD 3 0).extractLsb' 32 32,
                          fibre := 0, src := s.myId, pc := s.cur.pc, srcFibre := s.fibre }
    return (s.sendCmd id (.mmrc cmd (w0.extractLsb' 32 32))).awaitStatus o.d

/-- RIGHTS bit of a command (R413). -/
def rightsBit : Instr → Nat
  | .mma _ => 33
  | .mmas _ => 34
  | _ => 35

/-- The status of a command at its target, in the table's order. -/
def mmrcStatus (c : Core) (cmd : MatCmd) (key : BitVec 32) : Cause :=
  if !c.mmcap.getLsbD 32 || c.mmcap.extractLsb' 0 32 != key then 0x08B
  else if !c.mmcap.getLsbD (rightsBit cmd.instr) then 0x08C
  else if c.mmcap.extractLsb' 48 16 = 0 then 0x08D
  else if 4 ≤ c.matQ.length then 0x08F
  else 0

/-- Accepts a command: USES falls by one, and the command joins the queue for the granting fibre. -/
def acceptMmrc (c : Core) (cmd : MatCmd) : Core :=
  { c with mmcap := c.mmcap - 0x0001000000000000
           matQ := c.matQ ++ [{ cmd with fibre := (c.mmcap.extractLsb' 36 12).toNat }] }

/-- The operation of a remote command, with the target core in the issue latch. -/
def remoteOp (s : State) (cmd : MatCmd) : Chk EngineOp := do
  let x : Mx := { fibre := cmd.fibre, a6 := cmd.key, a7 := cmd.col ++ cmd.row, remote := true }
  let op ← match cmd.instr with
    | .mma o => mmaOp s x o false
    | .mmas o => mmaOp s x o true
    | .mmrd o => do return (← mmrdOp s x o).1
    | _ => trap0 0x08E
  return { op with remote := true, shadow := false, slot := 7, sender := some (cmd.src, cmd.srcFibre, cmd.pc) }

/-- A paused instruction names the accumulator of a command (R412). -/
def accPaused (c : Core) (i : Instr) : Bool :=
  let q : Option QReg := match i with | .mma o => some o.q | .mmas o => some o.q | .mmrd o => some o.q | _ => none
  c.matPaused.any fun o => o.accQ == q

/-- MMRC_COMMAND_EXECUTE: the oldest queued command of a free unit starts, or is discarded with an entry that parks no
fibre (R365, R103), or waits. -/
def execMmrcCommandExecute (s : State) : Host.Outcome State Fault Refusal :=
  .next (match s.ev with
    | .mmrcCommandExecute L =>
      let c := s.core L
      match c.matQ with
      | [] => s
      | cmd :: rest =>
        if c.mat.isSome || accPaused c cmd.instr then s
        else
          match remoteOp { s with cur := { core := L, slot := 7 } } cmd with
          | .ok op => (s.modCore L fun c => { c with matQ := rest }).enter L true op
          | .error (.trap cause addr _ _) =>
            let s' := s.modCore L fun c => { c with matQ := rest }
            let k := s.ctxNum L
            s'.report k L cmd.src cmd.srcFibre cmd.pc cause true addr (BitVec.ofNat 64 cmd.src.toNat)
          | .error _ => s
    | _ => s)

end Sys2Proof.Machine
end

