-- ==== Sys2Proof/Machine/Copy.lean ====
section
/-! DEFINITION. Copy commands, the default courier, STASH and RESTORE (spec/18_isa_matrix_and_engines.md R414–R419;
spec/07_core_and_fibres.md R192, R193; spec/06_schedule_book_and_stash.md R171–R175).
Log entries: 24 (DEDUCED); 23 (DEDUCED and DESIGN CHOICE); 3 (DESIGN CHOICE). -/

namespace Sys2Proof.Machine

/-! ## Bytes with their poison (R115) -/

/-- For each byte of resolved pieces, whether its line is poisoned. -/
def poisonBytes (s : State) (ps : List (Loc × Nat)) : List Bool :=
  ps.flatMap fun (l, m) => (List.range m).map fun i => s.poisoned (l.key + i) 1

/-- The lines of resolved pieces at which a flagged byte lands. -/
def flaggedLines (key : Nat → Nat) (fl : List Bool) : List Nat :=
  fl.zipIdx.foldl (fun a (b, i) => if b then insNat a (key i / 64) else a) []

/-- Writes bytes over resolved pieces as a copy engine does: the lines at which a flagged byte lands take poison (R115), with the event
record of origin 1, a copy. -/
def copyInto (s : State) (ps : List (Loc × Nat)) (bs : List Byte) (fl : List Bool) : State :=
  let ls := flaggedLines (pieceKey ps) fl
  poisonEvents (writePieces s none ps bs ls) ls 1

/-! ## Tags (R377, R416) -/

/-- The tag checks of R416. -/
def tagCheck (s : State) (L : Nat) (v : Word) : Chk (Fin 64) :=
  if h : v.toNat < 64 then
    if (s.core L).tags.getLsbD v.toNat then .ok ⟨v.toNat, h⟩ else trap0 0x0D6
  else trap0 0x0D5

/-- An operation of a task takes a tag (R377, R431). -/
def takeTag (s : State) (L : Nat) (i : Fin 64) (task : Option VAddr) : State :=
  (s.clearTag L i).modCore L fun c =>
    { c with tasks := c.tasks.map fun t => if some t.recAddr = task then { t with tags := t.tags ++ [i] } else t }

/-! ## Operand blocks (R414, R415) -/

/-- A shape record. -/
structure Shape where
  esz : Nat
  dim : Nat
  n   : List Nat
  st  : List Int
deriving DecidableEq, Repr

/-- A shape record's 32 bytes (R415); none where a field is outside its range. -/
def shapeOf (b : List Byte) : Option Shape :=
  let at_ (o n : Nat) : Nat := leNat ((b.drop o).take n)
  let dim := at_ 0 1 / 4 % 4
  let n := (List.range 4).map fun k => at_ (8 + 2 * k) 2
  let st := 0 :: (List.range 3).map fun k => (BitVec.ofNat 40 (at_ (16 + 5 * k) 5)).toInt
  if at_ 0 1 / 16 ≠ 0 ∨ at_ 1 7 ≠ 0 ∨ at_ 31 1 ≠ 0 ∨ n.any (· == 0)
      ∨ ((List.range 4).any fun k => decide (dim < k) && (n.getD k 0 != 1 || st.getD k 0 != 0)) then none
  else some { esz := 2 ^ (at_ 0 1 % 4), dim, n, st }

def Shape.ext (x : Shape) (k : Nat) : Nat := x.n.getD k 1
def Shape.stride (x : Shape) (k : Nat) : Int := x.st.getD k 0

/-- The bytes that a shaped copy moves. -/
def Shape.bytes (x : Shape) (form : CopyForm) : Nat :=
  if form = .cpyt then x.ext 0 * x.ext 1 * x.esz else x.esz * (x.ext 0 * x.ext 1 * x.ext 2 * x.ext 3)

/-- Address of source element (i0, …, i3). -/
def Shape.at (x : Shape) (sa : VAddr) (i0 i1 i2 i3 : Nat) : VAddr :=
  sa + BitVec.ofInt 56 (i0 * x.esz + i1 * x.stride 1 + i2 * x.stride 2 + i3 * x.stride 3)

/-- The source ranges of a shaped copy, in destination order. -/
def Shape.segs (x : Shape) (form : CopyForm) (sa : VAddr) : List (VAddr × Nat) :=
  if form = .cpyt then
    (List.range (x.ext 0)).flatMap fun i0 => (List.range (x.ext 1)).map fun i1 => (x.at sa i0 i1 0 0, x.esz)
  else
    (List.range (x.ext 3)).flatMap fun i3 => (List.range (x.ext 2)).flatMap fun i2 =>
      (List.range (x.ext 1)).map fun i1 => (x.at sa 0 i1 i2 i3, x.ext 0 * x.esz)

/-- The bytes of a load of the courier, in port order (R416): an operand block's shape record or gather list. -/
def courierLoad (s : State) (va : VAddr) (n : Nat) : Chk (List Byte) := do
  let ps ← resolveRange s (s.party s.L) va n .read
  piecesGo s ps false
  need (!piecesPoisoned s ps) 0x120
  watchRange s va n true false
  return viewPieces s s.L ps

/-- The shape record at an address (R416, steps 4 and 5). -/
def readShape (s : State) (va : VAddr) : Chk Shape := do
  need (va.toNat % 32 = 0) 0x03D (va.setWidth 64)
  match shapeOf (← courierLoad s va 32) with
  | some x => return x
  | none => trap0 0x0DE

/-- The entries of a gather list: source and length; none where one is not valid. -/
def gatherEntries (b : List Byte) (n : Nat) : Option (List (VAddr × Nat)) :=
  (chunks 16 n b).mapM fun e =>
    let len := leNat ((e.drop 8).take 4)
    if len = 0 ∨ leNat (e.drop 12) ≠ 0 then none else some (BitVec.ofNat 56 (leNat (e.take 8)), len)

/-- The gather list of CPYG (R416, step 7). -/
def readGather (s : State) (va : VAddr) (n nbytes : Nat) : Chk (List (VAddr × Nat)) := do
  need (va.toNat % 16 = 0 ∧ 1 ≤ n ∧ n ≤ 65536) 0x0D8
  match gatherEntries (← courierLoad s va (16 * n)) n with
  | some l => need (l.foldl (fun a e => a + e.2) 0 = nbytes) 0x0D8; return l
  | none => trap0 0x0D8

/-! ## The checks of R416 -/

/-- The rings of this module that a command names; a CLUSTER above 5 names none (R416, step 8). -/
def namedRings (s : State) (form : CopyForm) (w : List Word) : List Ring :=
  let da := w.getD 1 0
  if form = .cpym then
    let k := (da.extractLsb' 16 3).toNat
    let mask : BitVec 128 := w.getD 5 0 ++ w.getD 4 0
    if 5 < k then []
    else (List.range 128).filterMap fun i =>
      if mask.getLsbD i then some ⟨clusterCore ((da.extractLsb' 19 3).toNat * 6 + k) i, (da.extractLsb' 0 16).toNat⟩ else none
  else ((s.localCore (da.extractLsb' 0 32)).map fun L => (⟨L, (da.extractLsb' 32 16).toNat⟩ : Ring)).toList

/-- The reserved fields of step 1. -/
def copyReserved (form : CopyForm) (w : List Word) (dring : Bool) : Bool :=
  let ctl := w.getD 3 0
  ctl.extractLsb' 9 55 != 0 || (form == .cpym && ctl.getLsbD 8)
    || (form == .cpy && w.getD 4 0 != 0) || (form != .cpym && w.getD 5 0 != 0)
    || (form == .cpym && (w.getD 1 0).extractLsb' 22 42 != 0) || (form != .cpym && dring && (w.getD 1 0).extractLsb' 48 16 != 0)
    || (!dring && ctl.extractLsb' 0 8 != 0)

/-- A test of each ring, which fails at the first that does not pass it, with its descriptor's offset (R286). -/
def needRings (rs : List Ring) (p : Ring → Bool) (cause : Cause) : Chk Unit :=
  match rs.find? (!p ·) with
  | some r => trapA cause (BitVec.ofNat 64 r.off)
  | none => .ok ()

/-- A stated layout for a ring destination (step 2): a reserved code, or one that the ring's slots do not fit. -/
def copyLayout (s : State) (lay : Nat) (rs : List Ring) : Chk Unit :=
  match layoutUnit lay with
  | none => trapA 0x078 ((rs.head?.map fun r => BitVec.ofNat 64 r.off).getD 0)
  | some u => needRings rs (fun r => slotBytes s r % u == 0) 0x079

/-- The checks of steps 9 to 12 on ring destinations, for a core of context c. -/
def ringChecks (s : State) (c : Nat) (id : CoreId) (lay nbytes : Nat) (rs : List Ring) : Chk Unit := do
  need (rs.all fun r => inCtx s (some c) (clusterOf r.core)) 0x0DB
  need (rs.all fun r => ringValid s r && ringSsz s r == ringSsz s (rs.headD ⟨0, 0⟩) && ringLog2n s r == ringLog2n s (rs.headD ⟨0, 0⟩)
    && decide (nbytes ≤ ringSlots s r * ringShare s r)) 0x0DA
  need (nbytes % 64 = 0) 0x0DA
  needRings rs (fun r => (prodIndex s r id).isSome) 0x073
  needRings rs (fun r => !(ringStrict s r && ringLayout s r != lay)) 0x077

/-- Two ranges overlap. -/
def overlap (a : VAddr) (n : Nat) (b : VAddr) (m : Nat) : Bool :=
  decide (a.toNat < b.toNat + m) && decide (b.toNat < a.toNat + n)

/-- Steps 1 to 13 of R416: the copy that a command makes. Of a ring of another module the part there makes the checks that read it,
after these (log entry 23). -/
def copyChecks (s : State) (L : Nat) (form : CopyForm) (w : List Word) (order : Nat) : Chk CopyOp := do
  let va (i : Nat) : VAddr := (w.getD i 0).setWidth 56
  let ctl := w.getD 3 0
  let lay := (ctl.extractLsb' 0 8).toNat
  let dring := form == .cpym || ctl.getLsbD 8
  let id := (w.getD 1 0).extractLsb' 0 32
  let away := form != .cpym && dring && namesCore s id && (s.localCore id).isNone
  let nbytes := (w.getD 2 0).toNat
  -- 1, 2, 3
  need (!copyReserved form w dring) 0x0D2
  let rs := if dring then namedRings s form w else []
  if dring then copyLayout s lay rs
  need (1 ≤ nbytes ∧ nbytes ≤ 2 ^ 40) 0x0D3
  -- 4, 5, 6
  let shape ← if form = .cpyt ∨ form = .shld then (do
      let x ← readShape s (va 4)
      need (nbytes = x.bytes form) 0x0D3
      need (form ≠ .cpyt ∨ x.dim = 1) 0x0D7
      return some x) else pure none
  -- 7
  let segs ← if form = .cpyg then readGather s (va 0) (w.getD 4 0).toNat nbytes
    else match shape with
      | some x => pure (x.segs form (va 0))
      | none => pure [(va 0, nbytes)]
  -- 8
  if form = .cpym then
    need (w.getD 4 0 ≠ 0 ∨ w.getD 5 0 ≠ 0) 0x0D9
    need ((w.getD 1 0).extractLsb' 16 3 ≤ 5) 0x0D9
    need ((w.getD 1 0).extractLsb' 0 16 % 64 = 0) 0x0D9
    need (order % 2 = 0) 0x0DF
  -- 9 to 12
  if dring && !away then
    need (form == .cpym || namesCore s id) 0x0DB
    ringChecks s (s.ctxNum L) (s.coreId L 0) lay nbytes rs
  -- 13
  need (dring || !(segs.any fun (a, n) => overlap a n (va 1) nbytes)) 0x0D4
  let dst : CopyDst := if away then .away id ((w.getD 1 0).extractLsb' 32 16)
    else if dring then .rings (rs.map fun r => (r.core, r.off)) else .memory (va 1)
  return { core := L, tag := 0, segs, dst, nbytes, layout := BitVec.ofNat 8 lay }

/-! ## Delivery into rings (R417) -/

/-- The owner of a copy's credits (R192, R198). -/
def CopyOp.owner (o : CopyOp) : Owner := o.task.map fun t => (o.core, t)

/-- What a copy delivers to a ring. -/
def CopyOp.delivery (o : CopyOp) (off : Nat) : RingDelivery :=
  { off, layout := o.layout, data := o.data, pois := o.pois, nbytes := o.nbytes, failed := o.failed, addr := o.failAddr, task := o.task
    dead := o.dead }

/-- The producer entry of a core and the plan of its credit of `b` bytes to a ring, where there is room. -/
def copyPlan (s : State) (id : CoreId) (b : Nat) (r : Ring) : Option (Nat × List (Nat × Nat)) :=
  match prodIndex s r id with
  | none => none
  | some n =>
    let (plan, left) := creditPlan s r n (ringHead s r) b (ringSlots s r)
    if left = 0 then some (n, plan) else none

/-- The ranges of a ring's slot that a part of `b` bytes takes up, from logical offset `lo` under a layout code: offsets and lengths. -/
def slotRuns (s : State) (r : Ring) (code lo b : Nat) : List (Nat × Nat) :=
  if code = 0 then [(lo, b)] else (physRuns code lo (slotBytes s r) (List.replicate b 0)).map fun (o, l) => (o, l.length)

/-- A delivery's bytes in one slot: the stores, and the lines that take poison. -/
def copySlot (s : State) (d : RingDelivery) (r : Ring) (n pos : Nat) (e : Nat × Nat) : Chk (List Put × List Nat) := do
  let ps ← resolveRange s { ringParty s r 2 with src := 2 } (slotAddr s r e.1) (slotBytes s r) .write
  let lo := n * ringShare s r + slotCnt s r e.1 n
  let lay := d.layout.toNat
  return (layoutPuts ps lay lo ((d.data.drop pos).take e.2),
    flaggedLines (fun i => pieceKey ps (layoutPos lay (lo + i))) ((d.pois.drop pos).take e.2))

/-- The stores of a delivery in a ring's slots. -/
def copySlots (s : State) (d : RingDelivery) (r : Ring) (n pos : Nat) (plan : List (Nat × Nat)) : Chk (List Put × List Nat) :=
  match plan with
  | [] => .ok ([], [])
  | e :: rest => do
    let (p, l) ← copySlot s d r n pos e
    let (ps, ls) ← copySlots s d r n (pos + e.2) rest
    return (p ++ ps, l ++ ls)

/-- The parts of a credit with POIS of each: a slot that takes poison, or (`bad`) every slot of a failed copy (R202, R417). -/
def poisPlan (d : RingDelivery) (bad : Bool) (pos : Nat) (plan : List (Nat × Nat)) : List (Nat × Nat × Bool) :=
  match plan with
  | [] => []
  | (i, b) :: rest => (i, b, bad || ((d.pois.drop pos).take b).any id) :: poisPlan d bad (pos + b) rest

/-- The stores of a delivery to a ring with room for it, with the lines that take poison, or why it fails: a failure at step 14, the limit
on a task's records (`limit`), or a page of the ring's slots. -/
def landing (s : State) (d : RingDelivery) (r : Ring) (limit : Bool) (n : Nat) (plan : List (Nat × Nat)) :
    Except (Cause × Word) (List Put × List Nat) :=
  if d.failed ≠ 0 then .error (d.failed, d.addr)
  else if limit then .error (0x075, BitVec.ofNat 64 r.off)
  else (copySlots s d r n 0 plan).mapError fun e => (stopCause e, stopAddr e)

/-- A store leaves part of a poisoned line as it was: an uncorrectable error in a copy's destination (R115, R417), for which R281 has
poisoned-copy, 0x12D (DEDUCED, log entry 23). -/
def meetsPoison (s : State) (k n : Nat) : Bool := (linesOf k n).any fun l => s.poison.contains l && (unpoison [l] k n).contains l

/-- One ring's part of a copy that delivers: the ring, its producer entry and plan, and what it writes there. -/
structure RingPart where
  ring : Ring
  n    : Nat
  plan : List (Nat × Nat)
  got  : Except (Cause × Word) (List Put × List Nat)
  /-- The limit on records is exceeded: the credit holds nothing. -/
  limit : Bool

/-- A copy's part for a ring of this module, where it has room; `limited` says of a plan that it takes its owner above the limit on records. -/
def ringPart (s : State) (id : CoreId) (d : RingDelivery) (limited : Ring → List (Nat × Nat) → Bool) (r : Ring) : Option RingPart :=
  (copyPlan s id d.nbytes r).map fun (n, plan) =>
    let limit := !d.dead && limited r plan
    { ring := r, n, plan, got := landing s d r limit n plan, limit }

/-- A reservation holds back what a part writes to its ring's slots (R241). -/
def partHeld (s : State) (p : RingPart) : Bool :=
  match p.got with
  | .ok (l, _) => l.any fun x => s.heldRange none x.key x.bytes.length
  | .error _ => false

/-- Why a copy fails: the first of its parts that fails, or poison that its stores leave. -/
def partsFail (s : State) (ps : List RingPart) : Option (Cause × Word) :=
  (ps.findSome? fun p => match p.got with | .error e => some e | .ok _ => none).or
    (ps.findSome? fun p => match p.got with
      | .ok (l, _) => if l.any fun x => meetsPoison s x.key x.bytes.length then some (0x12D, BitVec.ofNat 64 p.ring.off) else none
      | .error _ => none)

/-- The bytes of a copy's part, which a copy that fails before it writes leaves out. -/
def partBytes (s : State) (p : RingPart) : State :=
  match p.got with
  | .ok (l, ls) => poisonEvents (applyPuts s none l ls) ls 1
  | .error _ => s

/-- Credits slots of producer n, each with its own POIS. -/
def creditParts (s : State) (r : Ring) (n : Nat) (w : Owner) (plan : List (Nat × Nat × Bool)) : State :=
  match plan with
  | [] => advanceTail s r
  | (i, b, p) :: rest => creditParts (creditSlot s r n p w i b) r n w rest

/-- The bytes of a copy's parts, where none fails before it is written (R417). -/
def writeRings (s : State) (ps : List RingPart) : State :=
  if ps.any fun p => match p.got with | .error _ => true | .ok _ => false then s else ps.foldl partBytes s

/-- A copy's parts delivered, with their credits (`cred`) unless the task's attempt has ended: the state, and the cause and address of
a failure. -/
def deliverParts (s : State) (d : RingDelivery) (ps : List RingPart) (cred : State → RingPart → List (Nat × Nat × Bool) → State) :
    State × Option (Cause × Word) :=
  let fail := partsFail s ps
  let s := writeRings s ps
  (if d.dead then s else ps.foldl (fun s p => cred s p (poisPlan d fail.isSome 0 p.plan)) s, fail)

/-- A copy's delivery into rings of this module. -/
def copyRings (s : State) (id : CoreId) (d : RingDelivery) (w : Owner) (rs : List Ring) : State × Option (Cause × Word) :=
  deliverParts s d (rs.filterMap (ringPart s id d fun r => overHeld s r w)) fun s p plan =>
    creditParts s p.ring p.n (if p.limit then none else w) plan

/-! ## Step 14 of R416 -/

/-- The slots, with the bytes of each, that a copy will credit in a ring once `before` bytes of earlier copies are there. -/
def coming (s : State) (r : Ring) (n before nbytes : Nat) : List (Nat × Nat × Nat) :=
  let share := ringShare s r
  let first := slotCnt s r (ringHead s r + cursor s r n) n + before
  (List.range ((first + nbytes + share - 1) / share)).filterMap fun j =>
    let lo := max first (j * share)
    let hi := min (first + nbytes) ((j + 1) * share)
    if lo < hi then some (ringHead s r + cursor s r n + j, lo - j * share, hi - lo) else none

/-- Bytes that copies of the core ahead of a copy will credit to a ring (R417). -/
def bytesAhead (s : State) (o : CopyOp) (r : Nat × Nat) : Nat :=
  (((s.cluster (clusterOf o.core)).copies.takeWhile fun p => !(p.core == o.core && p.tag == o.tag)).filter fun p =>
    p.core == o.core && !p.dead && (match p.dst with | .rings qs => qs.contains r | _ => false)).foldl (fun a p => a + p.nbytes) 0

/-- The pages of a copy's bytes in a ring: as they will lie there once what goes before has been credited. -/
def ringPages (s : State) (o : CopyOp) (r : Ring) : List (Nat × Nat × Kind × Party) :=
  match prodIndex s r (s.coreId o.core 0) with
  | none => []
  | some n =>
    (coming s r n (bytesAhead s o (r.core, r.off)) o.nbytes).flatMap fun (i, lo, b) =>
      (slotRuns s r o.layout.toNat (n * ringShare s r + lo) b).flatMap fun (x, m) =>
        (rangePieces (slotAddr s r i + BitVec.ofNat 56 x) m).map fun (a, m) => (a, m, .write, { ringParty s r 2 with src := 2 })

/-- The source and destination pages of a copy in ascending address order, with the party of each. -/
def copyPages (s : State) (o : CopyOp) : List (Nat × Nat × Kind × Party) :=
  let cut (a : VAddr) (n : Nat) (k : Kind) : List (Nat × Nat × Kind × Party) := (rangePieces a n).map fun (x, m) => (x, m, k, s.engineOf o.core)
  let l := o.segs.flatMap (fun (a, n) => cut a n .read) ++ (match o.dst with
    | .memory da => cut da o.nbytes .write
    | .rings rs => rs.flatMap fun (T, off) => ringPages s o ⟨T, off⟩
    | .away .. => [])
  l.foldl (fun a x => insertBy (fun y z => decide (y.1 < z.1)) x a) []

/-- Step 14 of R416, and the read of the source. -/
def copyRead (s : State) (o : CopyOp) : Chk CopyOp := do
  (copyPages s o).forM fun (a, m, k, p) => do let _ ← resolveRange s p (BitVec.ofNat 56 a) m k; return ()
  let ps ← o.segs.mapM fun (a, n) => resolveRange s (s.engineOf o.core) a n .read
  return { o with granted := true, data := ps.flatMap (readPieces s), pois := ps.flatMap (poisonBytes s) }

/-- A copy whose channel serves it: it has read its source, or has failed. -/
def copyGrant (s : State) (o : CopyOp) : Chk CopyOp :=
  match copyRead s o with
  | .error (.trap c a _ _) => .ok { o with granted := true, failed := c, failAddr := a }
  | r => r

/-- A channel of the core's cluster is free (R193, R417). -/
def channelFree (s : State) (L : Nat) : Bool := decide ((s.cluster (clusterOf L)).copies.length < 16)

/-- The lowest free channel of the core's cluster. -/
def freeChannel (s : State) (L : Nat) : Nat :=
  ((List.range 16).find? fun i => !(s.cluster (clusterOf L)).copies.any (·.chan == i)).getD 0

/-- A copy command issues into a free channel: its tag is cleared, and a check that fails sets it (R192, R416). With `.acq` it reads
its source at once, before every later access of the core (R244). -/
def copyStart (s : State) (L : Nat) (tag : Fin 64) (form : CopyForm) (w : List Word) (order : Nat) (task : Option VAddr) (dead : Bool)
    (i : Issue) : Chk State :=
  let s' := takeTag s L tag task
  match copyChecks { s with cur := i } L form w order with
  | .ok o => do
    let o := { o with tag, task, dead, pc := i.pc, chan := freeChannel s L }
    let o ← if order % 2 = 1 then copyGrant s o else pure o
    let s' := match o.dst with | .away id _ => if dead then s' else s'.noteAway o.owner id | _ => s'
    return s'.modCluster (clusterOf L) fun k => { k with copies := k.copies ++ [o] }
  | .error (.trap c a _ _) => .ok (s'.setTag L tag c true false a)
  | .error e => .error e

/-- A copy command of the courier (R416). With `.rel` it follows every earlier access of the core (R244). -/
def copyCommand (s : State) (form : CopyForm) (o : OpM2) : Host.Outcome State Fault Refusal :=
  finish s do
    need (regGroup o.s.val 6) 0x005
    need (s.slot = 7) 0x0D0
    let tag ← tagCheck s s.L (s.getG o.d)
    if !channelFree s s.L then wait .channel
    if rel o.m then writeGo s noGran true
    let c := s.here
    let s' ← copyStart s s.L tag form (s.getRegs o.s.val 6) o.m.order.val c.courierTask (c.courierDead && c.courierTask.isSome) s.cur
    return s'.advance

def execCpy (o : OpM2) (s : State) : Host.Outcome State Fault Refusal := copyCommand s .cpy o
def execCpyt (o : OpM2) (s : State) : Host.Outcome State Fault Refusal := copyCommand s .cpyt o
def execCpyg (o : OpM2) (s : State) : Host.Outcome State Fault Refusal := copyCommand s .cpyg o
def execCpym (o : OpM2) (s : State) : Host.Outcome State Fault Refusal := copyCommand s .cpym o
def execShld (o : OpM2) (s : State) : Host.Outcome State Fault Refusal := copyCommand s .shld o

/-! ## The default courier (R193) -/

/-- The default courier stands at its take or at a command that has not issued, and no stop holds slot 7 (R178, R291, R305). -/
def Core.courierFree (c : Core) : Bool := c.defaultCourier && !c.held && (c.fib 1).status == .waiting (.mailboxFull 0)

/-- The mailbox that the default courier takes next. -/
def Core.nextMail (c : Core) : Option (Fin 4) :=
  ([1, 2, 3, 4].map fun i => c.mbLast + i).find? fun q => (c.mb.get q).full

/-- The command's form. -/
def courierForm (n : Nat) : CopyForm :=
  match n with | 0 => .cpy | 1 => .cpyt | 2 => .cpyg | 3 => .cpym | _ => .shld

/-- Steps 3 and 4: the copy command of a request. It waits where its loads meet the port's order or a watchpoint. -/
def courierIssue (s : State) (L : Nat) (m : Mailbox) : Host.Outcome State Fault Refusal :=
  let w6 := m.words.toList.getD 6 0
  let i : Issue := { core := L, slot := 7, pc := ((s.core L).fib 1).pc }
  let s0 := { s with cur := i }
  match tagCheck s L ((w6.extractLsb' 0 6).setWidth 64) with
  | .error (.trap c _ _ _) => .next (takeTrap s0 i c 0 0 false false)
  | .error _ => .next s
  | .ok tag =>
    if !channelFree s L || (w6.getLsbD 7 && !s.portClear L) then .next s
    else
      let s1 := s.modCore L fun c => { c with courierCmd := none }.modFib 1 fun f => { f with noBreak := false }
      match copyStart s1 L tag (courierForm (w6.extractLsb' 8 3).toNat) (m.words.toList.take 6) (w6.extractLsb' 6 2).toNat m.task m.dead i with
      | .ok s2 => .next s2
      | .error (.fault f) => .fault f
      | .error (.watch g st) => if h : L < 6144 then .next (s0.raise (.clusterWatchpoint ⟨L, h⟩ 7 g st)) else .next s
      | .error _ => .next s

/-- COURIER_REQUEST_SERVE: the default courier takes a request and checks it, or issues the one it has taken. -/
def execCourierRequestServe (s : State) : Host.Outcome State Fault Refusal :=
  match s.ev with
  | .courierRequestServe L =>
    let c := s.core L
    if !c.courierFree then .next s
    else match c.courierCmd with
      | some m => courierIssue s L m
      | none =>
        match c.nextMail with
        | none => .next (if c.courierNext.isSome then restartCourier s L else s)
        | some q =>
          let m := c.mb.get q
          let w6 := m.words.toList.getD 6 0
          let s := s.modCore L fun c =>
            { c with mb := c.mb.set q { m with full := false }, mbLast := q, courierTask := m.task, courierDead := false }
          if m.words.toList.getD 7 0 ≠ 0 ∨ w6.extractLsb' 11 53 ≠ 0 ∨ 4 < (w6.extractLsb' 8 3).toNat then
            .next (s.setTag L (w6.extractLsb' 0 6).toFin 0x0D1 true false)
          else
            let s := s.modCore L fun c => { c with courierCmd := some m }
            courierIssue s L m
  | _ => .next s

/-! ## The copy's course (R416 step 14, R417) -/

/-- The engines of a core are held: by a gang stop, a debug halt, or a fence (R291, R305). -/
def enginesHeld (s : State) (L : Nat) : Bool := (s.core L).stopped || (s.core L).halted || (s.core L).fenced

/-- Replaces the first copy of a list that satisfies a test. -/
def updFirst {α : Type} (p : α → Bool) (f : α → α) (l : List α) : List α :=
  match l with
  | [] => []
  | x :: r => if p x then f x :: r else x :: updFirst p f r

/-- COPY_CHANNEL_GRANT: a copy of the core in its channel checks its pages and reads its source. -/
def execCopyChannelGrant (s : State) : Host.Outcome State Fault Refusal :=
  match s.ev with
  | .copyChannelGrant L =>
    let k := clusterOf L
    let first (o : CopyOp) : Bool := o.core == L.val && !o.granted
    if enginesHeld s L then .next s
    else match (s.cluster k).copies.find? first with
      | none => .next s
      | some o =>
        let set (o' : CopyOp) : State := s.modCluster k fun x => { x with copies := updFirst first (fun _ => o') x.copies }
        match copyGrant s o with
        | .ok o' => .next (set o')
        | .error (.fault f) => .fault f
        | .error _ => .next s
  | _ => .next s

/-- A reservation holds back what a copy writes (R241). -/
def copyHeld (s : State) (o : CopyOp) : Bool :=
  match o.dst with
  | .memory da =>
    match resolveRange s (s.engineOf o.core) da o.nbytes .write with
    | .ok ps => ps.any fun (l, m) => s.heldRange none l.key m
    | .error _ => false
  | .rings rs =>
    rs.any fun (L, off) => ringHeld s none ⟨L, off⟩ ||
      (ringPart s (s.coreId o.core 0) (o.delivery off) (fun r => overHeld s r o.owner) ⟨L, off⟩).any (partHeld s)
  | .away .. => false

/-- Two copies deliver to one ring. -/
def CopyDst.shares (x y : CopyDst) : Bool :=
  match x, y with
  | .rings ps, .rings qs => ps.any qs.contains
  | .away a m, .away b n => idCore a == idCore b && m == n
  | _, _ => false

/-- A copy can deliver: its rings have room, and no earlier copy of its core to one of them is open (R417). One that has gone to another
module waits for its report. -/
def copyReady (s : State) (l : List CopyOp) (o : CopyOp) : Bool :=
  o.granted && o.sent.isNone && !enginesHeld s o.core &&
    (match o.dst with | .rings rs => rs.all (fun (L, off) => (copyPlan s (s.coreId o.core 0) o.nbytes ⟨L, off⟩).isSome) | _ => true) &&
    !((l.takeWhile fun p => !(p.core == o.core && p.tag == o.tag)).any fun p => p.core == o.core && p.sent.isNone && p.dst.shares o.dst)

/-- A copy leaves for a ring of another module. -/
def sendCopy (s : State) (o : CopyOp) (id : CoreId) (off : BitVec 16) : State :=
  let d := { o.delivery off.toNat with id := s.nextId, others := s.heldBeside o.owner id }
  let m : Msg := { id := s.nextId, src := s.coreId o.core 0, dst := id, ctx := s.ctxNum o.core, fibre := 1, pc := o.pc, cycle := s.cycleOf o.core,
                   body := .deliver d }
  { s with nextId := s.nextId + 1, outMsgs := s.outMsgs ++ [m] }

/-- A copy to memory fails: at step 14, at its destination's mapping, or at an uncorrectable error there; with the address (R286). -/
def memoryFail (s : State) (o : CopyOp) (da : VAddr) : Option (Cause × Word) :=
  if o.failed ≠ 0 then some (o.failed, o.failAddr)
  else match resolveRange s (s.engineOf o.core) da o.nbytes .write with
    | .error e => some (stopCause e, stopAddr e)
    | .ok ps => if ps.any fun (l, m) => meetsPoison s l.key m then some (0x12D, da.setWidth 64) else none

/-- A copy writes and credits what it moves: the state, and the cause and address of a failure. -/
def copyFinish (s : State) (o : CopyOp) : State × Option (Cause × Word) :=
  match o.dst with
  | .memory da =>
    (match o.failed == 0, resolveRange s (s.engineOf o.core) da o.nbytes .write with
      | true, .ok ps => copyInto s ps o.data o.pois
      | _, _ => s, memoryFail s o da)
  | .rings rs => copyRings s (s.coreId o.core 0) (o.delivery 0) o.owner (rs.map fun (T, off) => ⟨T, off⟩)
  | .away id off => (if o.sent.isNone then sendCopy s o id off else s, if o.failed = 0 then none else some (o.failed, o.failAddr))

/-- A copy is over: its channel is free, and its tag is set. -/
def copyOver (s : State) (o : CopyOp) (fail : Option (Cause × Word)) : State :=
  let (c, a) := fail.getD (0, 0)
  (s.modCluster (clusterOf o.core) fun x => { x with copies := x.copies.filter fun p => !(p.core == o.core && p.tag == o.tag) }).setTag
    o.core o.tag c (c != 0) (c == 0 && o.pois.any id) a

/-- The report on a copy that went to another module (R39, R417). -/
def copyReport (s : State) (L id : Nat) (fail : Option (Cause × Word)) : State :=
  match (s.cluster (clusterOf L)).copies.find? fun o => o.core == L && o.sent == some id with
  | none => s
  | some o => copyOver s o fail

/-- COPY_COMPLETE: a copy delivers, and its tag is set; one to a ring of another module leaves, and its report sets the tag. -/
def execCopyComplete (s : State) : Host.Outcome State Fault Refusal :=
  .next (match s.ev with
    | .copyComplete L tag =>
      let k := clusterOf L
      let mine (o : CopyOp) : Bool := o.core == L.val && o.tag == tag
      match (s.cluster k).copies.find? mine with
      | none => s
      | some o =>
        if !copyReady s (s.cluster k).copies o || (!s.grants.isEmpty && copyHeld s o) then s
        else match o.dst with
          | .away id off =>
            (sendCopy s o id off).modCluster k fun x => { x with copies := updFirst mine (fun o => { o with sent := some s.nextId }) x.copies }
          | _ => let (s', fail) := copyFinish s o; copyOver s' o fail
    | _ => s)

/-! ## The stash codec (R172–R175) -/

/-- Block bytes, m, and whether the source is BF16. -/
def stashBlock (fmt : Nat) : Nat := if fmt = 2 then 32 else 64
def stashM (fmt : Nat) : Nat := if fmt = 2 then 3 else 7

/-- An element as FP32. -/
def stashElt (bf : Bool) (x : Nat) : BitVec 32 := BitVec.ofNat 32 (if bf then x * 65536 else x)

/-- CODE_j of a finite block. -/
def stashCode (m se : Nat) (sr : Bool) (d x : BitVec 32) : Int :=
  match of32 x with
  | .fin neg k e =>
    let sh : Int := e + m + 125 - se
    let u := min sh (-32)
    let n := if sr then floorShift (sgn neg (atExp k sh u) + atExp d.toNat (-32) u) u else rneInt neg k sh
    min n (2 ^ (m - 1) - 1)
  | _ => 0

/-- CODE_j of an element of a non-finite block. -/
def stashCodeNF (m : Nat) (x : BitVec 32) : Int :=
  match of32 x with
  | .nan _ => -2 ^ (m - 1)
  | .inf neg => if neg then -(2 ^ (m - 1) - 1) else 2 ^ (m - 1) - 1
  | .fin .. => 0

/-- A block from its 64 elements (R173, R174). -/
def stashEncode (fmt : Nat) (sr : Bool) (key : Word) (step row col0 : BitVec 32) (xs : List (BitVec 32)) : List Byte :=
  let m := stashM fmt
  let exps := xs.map fun x => (x.extractLsb' 23 8).toNat
  let nf := exps.any (· == 255)
  let se := if nf then 255 else max 1 (exps.foldl max 0)
  let codes := xs.zipIdx.map fun (x, j) =>
    (BitVec.ofInt m (if nf then stashCodeNF m x else stashCode m se sr (kweash key step row (col0 + BitVec.ofNat 32 j)) x)).toNat
  leBytes (stashBlock fmt) (se + (fmt + sr.toNat * 4 + nf.toNat * 8) * 256 + packBits m codes * 65536)

/-- An element of a decoded block, as FP32 (R175). -/
def stashValue (m se : Nat) (nf : Bool) (n : Int) : BitVec 32 :=
  if nf then
    if n = 2 ^ (m - 1) - 1 then 0x7F800000 else if n = -(2 ^ (m - 1) - 1) then 0xFF800000
    else if n = -2 ^ (m - 1) then 0x7FC00000 else 0
  else if n = 0 then 0 else fp32Rne n ((se : Int) - 125 - m)

/-- The 64 elements of a block; none where the block is not valid (R175). -/
def stashDecode (fmt : Nat) (b : List Byte) : Option (List (BitVec 32)) :=
  let m := stashM fmt
  let v := leNat b
  let se := v % 256
  let mode := v / 256 % 256
  let nf := mode / 8 % 2 == 1
  if 16 ≤ mode ∨ mode % 4 ≠ fmt ∨ se = 0 ∨ nf ≠ (se == 255) then none
  else some ((unpack m 64 (v / 65536)).map fun c => stashValue m se nf (BitVec.ofNat m c).toInt)

/-! ## STASH and RESTORE (R418, R419) -/

/-- The book launch of the issuing fibre's task (R166, R425). -/
def State.bookTask (s : State) : Option BookTask := (s.me.task.bind s.here.task?).bind (·.book)

/-- The block addresses translate into HBM and LPDDR6 only; what does not translate is left to step 8. -/
def stashRange (s : State) (va : VAddr) (n : Nat) : Bool :=
  (rangePieces va n).all fun (a, _) =>
    match resolve s (s.party s.L) (BitVec.ofNat 56 a) .read with
    | .ok l => (match l.home with | .mapped _ => (match paRange l.key with | some (.dieStore, _) => false | _ => true) | _ => false)
    | .error _ => decide (a / 2 ^ 48 < 0xFD)

/-- Steps 2 to 7 of R419, and what the operation does. -/
def stashChecks (s : State) (stash : Bool) (w : List Word) : Chk StashOp := do
  let g (i : Nat) : Word := w.getD i 0
  let bk := (g 5).getLsbD 3
  let et := ((g 5).extractLsb' 4 2).toNat
  let n := ((g 1).extractLsb' 0 32).toNat
  let b := s.bookTask
  -- 2, 3
  need (!bk || b.isSome) 0x0F9
  let bt : BookTask := b.getD { die := 0, entry := 0, kind := 0, sop := 0, slot := 0, stage := 0, mb := 0, step := 0 }
  let book := (s.die bt.die.toNat).book
  let fmt := if bk then (book.codec.extractLsb' 8 2).toNat else ((g 5).extractLsb' 0 2).toNat
  let sr := if bk then book.codec.getLsbD 10 else (g 5).getLsbD 2
  let rsvd := (g 1).extractLsb' 32 32 != 0 || et > 1 ||
    (if bk then (g 2).extractLsb' 40 24 != 0 || g 3 != 0 || g 4 != 0 || g 5 &&& ~~~0x38#64 != 0 else (g 5).extractLsb' 6 58 != 0)
  let sop := !bk || (if stash then bt.sop == 1 else decide (2 ≤ bt.sop))
  need (!rsvd && n != 0 && fmt != 3 && sop) 0x0FC
  -- 4, 5
  need (et = (if fmt = 0 then 1 else 0)) 0x0F5
  let bs := stashBlock fmt
  need ((g 2).toNat % bs = 0) 0x0FB
  let nb := (n + 63) / 64
  let blocks : VAddr := if bk then
      book.stashBase + BitVec.ofNat 56 (bt.slot.toNat * book.stashSlot.toNat) + (g 2).setWidth 56
    else (g 2).setWidth 56
  -- 6, 7
  need (stashRange s blocks (nb * bs)) 0x0FA
  need (!bk || decide ((g 2).toNat + nb * bs ≤ book.stashSlot.toNat)) 0x0F4
  return { core := s.L, tag := 0, stash, elems := (g 0).setWidth 56, n, blocks, fmt := BitVec.ofNat 2 fmt, sr
           key := if bk then book.keyid else g 3
           step := if bk then bt.step else (g 4).extractLsb' 0 32
           row := if bk then bt.mb.setWidth 32 else (g 4).extractLsb' 32 32
           col0 := if bk then BitVec.ofNat 32 ((g 2).toNat / bs * 64) else 0
           task := s.me.task }

/-- Bytes of an element, and of an operation's blocks. -/
def StashOp.esz (o : StashOp) : Nat := if o.fmt = 0 then 2 else 4
def StashOp.blockBytes (o : StashOp) : Nat := (o.n + 63) / 64 * stashBlock o.fmt.toNat

/-- STASH or RESTORE: the checks of R419, and the read of its source (R245). -/
def stashCommand (s : State) (stash : Bool) (o : OpM2) : Host.Outcome State Fault Refusal :=
  finish s do
    need (regGroup o.s.val 6) 0x005
    let tag ← tagCheck s s.L (s.getG o.d)
    let x ← stashChecks s stash (s.getRegs o.s.val 6)
    let p := s.party s.L
    let es ← resolveRange s p x.elems (x.n * x.esz) (if stash then .read else .write)
    let bs ← resolveRange s p x.blocks x.blockBytes (if stash then .write else .read)
    let src := if stash then es else bs
    portGo s true true noGran
    let x : StashOp := { x with tag, data := src.flatMap fun (l, m) => s.view s.L l.key m, pois := poisonBytes s src }
    return ((takeTag s s.L tag s.me.task).modHere fun c => { c with stashes := c.stashes ++ [x] }).advance

def execStash (o : OpM2) (s : State) : Host.Outcome State Fault Refusal := stashCommand s true o
def execRestore (o : OpM2) (s : State) : Host.Outcome State Fault Refusal := stashCommand s false o

/-- What a STASH writes: its blocks, and for each byte whether it takes poison. -/
def StashOp.encoded (o : StashOp) : List Byte × List Bool :=
  let fmt := o.fmt.toNat
  let nb := (o.n + 63) / 64
  let xs := (unpack (8 * o.esz) o.n (leNat o.data)).map (stashElt (o.esz == 2))
  let blocks := (chunks 64 nb xs).zipIdx.map fun (b, i) =>
    stashEncode fmt o.sr o.key o.step o.row (o.col0 + BitVec.ofNat 32 (64 * i)) (b ++ List.replicate (64 - b.length) 0)
  (blocks.flatten, (chunks (64 * o.esz) nb o.pois).flatMap fun b => List.replicate (stashBlock fmt) (b.any id))

/-- What a RESTORE writes: the elements of the blocks before the first that is not valid, their poison, and whether
all were valid. A poisoned block gives no elements of its own: its destination lines take poison. -/
def restoreBlocks (fmt esz : Nat) (l : List (List Byte × List Bool)) : List Byte × List Bool × Bool :=
  match l with
  | [] => ([], [], true)
  | (b, p) :: r =>
    let bad := p.any id
    match (if bad then some (List.replicate 64 (0 : BitVec 32)) else stashDecode fmt b) with
    | none => ([], [], false)
    | some xs =>
      let (bs, ps, ok) := restoreBlocks fmt esz r
      (xs.flatMap (fun x => leBytes esz (if esz = 2 then x.toNat / 65536 else x.toNat)) ++ bs, List.replicate (64 * esz) bad ++ ps, ok)

/-- What a RESTORE writes. -/
def StashOp.decoded (o : StashOp) : List Byte × List Bool × Bool :=
  let fmt := o.fmt.toNat
  let nb := (o.n + 63) / 64
  let (bs, ps, ok) := restoreBlocks fmt o.esz ((chunks (stashBlock fmt) nb o.data).zip (chunks (stashBlock fmt) nb o.pois))
  (bs.take (o.n * o.esz), ps.take (o.n * o.esz), ok)

/-- Completes a STASH or RESTORE: its writes, its poison, and its tag. -/
def stashEnd (s : State) (L : Nat) (tag : Fin 64) (stash : Bool) : State :=
  let mine (o : StashOp) : Bool := o.tag == tag && o.stash == stash
  match (s.core L).stashes.find? mine with
  | none => s
  | some o =>
    if enginesHeld s L then s
    else
      let s0 := s
      let (bs, pois, ok) := if stash then (o.encoded.1, o.encoded.2, true) else o.decoded
      let s := s.modCore L fun c => { c with stashes := c.stashes.filter fun o => !mine o }
      match resolveRange s (s.engineOf L) (if stash then o.blocks else o.elems) bs.length .write with
      | .error e => s.setTag L tag (stopCause e) true false (stopAddr e)
      | .ok ps =>
        if ps.any fun (l, m) => s.heldRange none l.key m then s0
        else
        (copyInto s ps bs pois).setTag L tag (if ok then 0 else 0x0F6) (!ok) (pois.any id)

def execStashComplete (s : State) : Host.Outcome State Fault Refusal :=
  .next (match s.ev with | .stashComplete L tag => stashEnd s L tag true | _ => s)

def execRestoreComplete (s : State) : Host.Outcome State Fault Refusal :=
  .next (match s.ev with | .restoreComplete L tag => stashEnd s L tag false | _ => s)

end Sys2Proof.Machine
end

