-- ==== Sys2Proof/Machine/RingCtl.lean ====
section
/-! DEFINITION. Ring control (spec/18_isa_matrix_and_engines.md R422–R424).
Log entries: 19 (DEDUCED and DESIGN CHOICE). -/

namespace Sys2Proof.Machine

/-! ## Bindings (R422) -/

def execRbind (o : OpHG) (s : State) : Host.Outcome State Fault Refusal :=
  finish s do
    let v := s.getG o.s
    let r : Ring := ⟨s.L, v.toNat⟩
    if v.toNat % 64 = 0 ∧ v.toNat < 2 ^ 18 then ringHome s r
    need (v.toNat % 64 = 0 ∧ v.toNat < 2 ^ 18 ∧ ringValid s r) 0x070 v (BitVec.ofNat 64 o.h.val)
    return (s.modMe fun f => { f with h := f.h.set o.h (some (v.extractLsb' 6 12)) }).advance

/-- The issuing fibre's task holds a record of a ring (R198). -/
def holdsRing (s : State) (r : Ring) : Bool :=
  match s.me.task.bind s.here.task? with
  | some t => t.holds.any fun h => h.core == r.core && h.desc == r.off
  | none => false

def execRunbind (o : OpH) (s : State) : Host.Outcome State Fault Refusal :=
  finish s do
    let r ← ringOf s s.L s.fibre o.h
    if holdsRing s r then ringTrap 0x07D r o.h
    if (s.here.vecPaused ++ s.here.matPaused).any fun p => p.fibre == s.fibre && p.descs.contains r.off then ringTrap 0x07E r o.h
    return (s.modMe fun f => { f with h := f.h.set o.h none }).advance

/-! ## Waits, advances and credits (R423) -/

/-- The ring of a handle, as an operation finds it in port order: the core's own writes to it are applied, and an engine instruction
that names it, in flight or paused, comes first (R386, R412). -/
def ringAt (s : State) (h : HReg) : Chk Ring := do
  let r ← ringOf s s.L s.fibre h
  ringHome s r
  if s.here.opNames r.off then wait (.paused r.off)
  return r

/-- The ring of a handle and the count of a form. -/
def ringCount (s : State) (o : OpHG) : Chk (Ring × Nat) := do
  let r ← ringAt s o.h
  let k := (s.getG o.s).toNat
  if k = 0 ∨ ringSlots s r < k then ringTrap 0x07A r o.h
  return (r, k)

/-- The issuing core's producer entry. -/
def myProd (s : State) (r : Ring) (h : HReg) : Chk Nat :=
  match prodIndex s r s.myId with
  | some n => .ok n
  | none => ringTrap 0x073 r h

/-- The port's order for an operation on a ring's descriptor (R200), behind the reservations that cover it (R241). -/
def ringGo (s : State) (r : Ring) (release : Bool) : Chk Unit := do
  readAny s true
  if release then writeGo s noGran true
  if ringHeld s (some s.L) r then wait (.port false false noGran)

def execAwaitf (o : OpHG) (s : State) : Host.Outcome State Fault Refusal :=
  finish s do
    let (r, k) ← ringCount s o
    if ringFilled s r < k then wait (.ringFilled r.off k)
    ringGo s r false
    return s.advance

def execAwaite (o : OpHG) (s : State) : Host.Outcome State Fault Refusal :=
  finish s do
    let (r, k) ← ringCount s o
    let n ← myProd s r o.h
    if freeSlots s r n < k then wait (.ringFree r.off k)
    ringGo s r false
    return s.advance

def execAdvh (o : OpHG) (s : State) : Host.Outcome State Fault Refusal :=
  finish s do
    let (r, k) ← ringCount s o
    ringGo s r true
    match pop s r k with
    | .ok s' => return s'.advance
    | .error c => ringTrap c r o.h

/-- The bytes of ADVT's delivery: what the cursor slot lacks, and k − 1 slots more. -/
def advtBytes (s : State) (r : Ring) (n k : Nat) : Nat :=
  let share := ringShare s r
  share - slotCnt s r (ringHead s r + cursor s r n) n + (k - 1) * share

def execAdvt (o : OpHG) (s : State) : Host.Outcome State Fault Refusal :=
  finish s do
    let (r, k) ← ringCount s o
    let n ← myProd s r o.h
    if freeSlots s r n < k then ringTrap 0x074 r o.h
    ringGo s r true
    match credit s r s.myId (advtBytes s r n k) false (s.me.task.map fun t => (s.L, t)) with
    | .ok s' => return s'.advance
    | .error c => ringTrap c r o.h

/-- ADVT with T = 1: a credit by message to a ring of another core. -/
def execAdvtRemote (o : OpAdvtR) (s : State) : Host.Outcome State Fault Refusal :=
  finish s do
    let t := s.getG o.t
    let id := t.extractLsb' 0 32
    let off := t.extractLsb' 32 18
    need (t.extractLsb' 50 14 = 0 ∧ off.toNat % 64 = 0) 0x07C (off.setWidth 64)
    need (idCore id ≠ idCore s.myId) 0x07B (off.setWidth 64)
    msgTarget s id
    writeGo s noGran true
    let owner : Owner := s.me.task.map fun t => (s.L, t)
    let s := if (s.localCore id).isSome then s else s.noteAway owner id
    return (s.sendTo id (.credit off (s.getG o.s).toNat s.me.task false (s.heldBeside owner id))).advance

def execRstat (o : OpHG) (s : State) : Host.Outcome State Fault Refusal :=
  finish s do
    let r ← ringAt s o.h
    readAny s false
    let n := prodIndex s r s.myId
    let filled := ringFilled s r
    let v := fields [(filled, 0), (match n with | some n => freeSlots s r n | none => 0, 32), (n.isSome.toNat, 41),
      ((filled != 0 && slotPois s r (ringHead s r)).toNat, 42), (ringLayout s r, 43), ((ringStrict s r).toNat, 51)]
    return s.result loadLat o.s v

end Sys2Proof.Machine
end

