-- ==== Sys2Proof/Machine/Engine.lean ====
section
/-! DEFINITION. The course of vector and matrix instructions in their engines: completion, pauses and decode-table
rebuilds (spec/17_isa_vector.md R386–R388; spec/18_isa_matrix_and_engines.md R407, R411, R412;
spec/10_numbers.md R256; spec/07_core_and_fibres.md R207).
Log entries: 21 (DEDUCED). -/

namespace Sys2Proof.Machine

/-! ## Decode tables (R256) -/

/-- A host write that waited, carried out. -/
def Core.dtApply (c : Core) (w : Bool × Option (BitVec 8 × Word × Word)) : Core :=
  match w.2 with
  | none => c.reloadTable w.1
  | some (i, v, mask) => writeDtab c w.1 i.toNat v mask

/-- The waiting writes of tables that no instruction uses any more, in order. -/
def Core.dtDrain (c : Core) : Core :=
  let go := c.dtWait.filter fun w => !tableUsed c w.1
  go.foldl Core.dtApply { c with dtWait := c.dtWait.filter fun w => tableUsed c w.1 }

/-- A host write of a table: it waits while an instruction uses the table. -/
def Core.dtHost (c : Core) (t : Bool) (w : Option (BitVec 8 × Word × Word)) : Core :=
  let c := c.dtDrain
  if tableUsed c t then { c with dtWait := c.dtWait ++ [(t, w)] } else c.dtApply (t, w)

/-- CORE_DTAB_WRITE: bits [31:0] of the entry. -/
def execCoreDtabWrite (s : State) : Host.Outcome State Fault Refusal :=
  .next (match s.hostEv with
    | .coreDtabWrite L t i v => s.modCore L fun c => c.dtHost t (some (i, v, bitMask 31 0))
    | _ => s)

def execCoreDtstatRst0 (s : State) : Host.Outcome State Fault Refusal :=
  .next (match s.hostEv with | .coreDtstatRst0 L => s.modCore L fun c => c.dtHost false none | _ => s)

def execCoreDtstatRst1 (s : State) : Host.Outcome State Fault Refusal :=
  .next (match s.hostEv with | .coreDtstatRst1 L => s.modCore L fun c => c.dtHost true none | _ => s)

/-- DTAB_REBUILD_DONE: BUSY clears; DUP is computed where it is read. -/
def execDtabRebuildDone (s : State) : Host.Outcome State Fault Refusal :=
  .next (match s.ev with | .dtabRebuildDone L t => s.modCore L fun c => c.setBusy t false | _ => s)

/-! ## Completion (R386, R407, R411, R412) -/

/-- Sets POIS of slots (R388). -/
def poisonSlots (s : State) (L : Nat) (l : List (Nat × Nat)) : State :=
  match l with
  | [] => s
  | (off, i) :: r =>
    let k := slotState s ⟨L, off⟩ i
    poisonSlots { s.wrN (k + 24) 1 1 with poisKept := insNat s.poisKept k } L r

/-- A ring's cause with its descriptor's offset. -/
def atRing (off : Nat) (r : Except Cause State) : Except (Cause × Nat) State := r.mapError fun c => (c, off)

/-- Pops one slot of each ring. -/
def popAll (s : State) (L : Nat) (l : List Nat) : Except (Cause × Nat) State :=
  match l with
  | [] => .ok s
  | off :: r => do popAll (← atRing off (pop s ⟨L, off⟩ 1)) L r

/-- What an engine instruction does when it finishes: its writes go to their homes, then its credit, and its pops; or a ring's cause with
its descriptor. -/
def engineEffect (s : State) (L : Nat) (o : EngineOp) : Except (Cause × Nat) State := do
  let s := poisonSlots (s.closeOp L o) L o.poison
  let owner : Owner := ((s.core L).fib o.fibre).task.map fun t => (L, t)
  let s ← match o.credit with
    | none => pure s
    | some c => atRing c.desc (credit s ⟨L, c.desc⟩ (s.coreId L 0) c.bytes c.pois owner)
  popAll s L o.pops

/-- The accumulator and the stream that a matrix instruction leaves. -/
def Core.matDone (c : Core) (o : EngineOp) : Core :=
  let c := match o.acc with | some (q, a) => { c with acc := c.acc.set q a } | none => c
  match o.skip with
  | some (q, p) => let k : Skip := { c.skip.get q with pos := p }; { c with skip := c.skip.set q k }
  | none => c

/-- The fibre goes on at the next chain, with the flags that the instruction sets. -/
def Core.engineGoes (c : Core) (o : EngineOp) (now : Nat) : Core :=
  if o.shadow then { c with shadowPc := o.next, shadowFl := c.shadowFl ||| o.flags, shadowSt := .ready, shadowNoBreak := false }
  else c.modFib o.fibre fun f =>
    { f with pc := o.next, flags := f.flags ||| o.flags, status := .ready, since := now, icount := f.icount + 1, counted := false, noMatch := false, noBreak := false, wake := none }

/-- An engine instruction of core L finishes; a ring's cause is its fibre's trap, or the entry of a remote command (R365, R413). -/
def engineDone (s : State) (L : Nat) (matrix : Bool) (o : EngineOp) : State :=
  let free (c : Core) : Core := (if matrix then { c with mat := none } else { c with vec := none }).dtDrain
  let s0 := { s.modCore L free with cur := o.iss }
  match engineEffect s0 L o with
  | .error (c, off) =>
    let s0 := s0.dropOps L
    match o.sender with
    | some (src, f, pc) => s0.report (s.ctxNum L) L src f pc c true (BitVec.ofNat 64 off) (BitVec.ofNat 64 src.toNat)
    | none =>
    trapFibre s0 o.fibre o.shadow o.iss c (BitVec.ofNat 64 off)
      (BitVec.ofNat 64 (((o.handles.find? (·.1 == off)).map (·.2)).getD 0)) false false
  | .ok s1 =>
    let s2 := s1.modCore L fun c =>
      let c := c.matDone o
      if o.remote then c.modFib o.fibre fun f => { f with flags := f.flags ||| o.flags } else c.engineGoes o (s.cycleOf L)
    if o.shadow then s2 else keepSpilled s1 s2 L o.fibre

/-- The accesses of an engine instruction wait (R232, R241): its credit for the core's earlier accesses, which it releases, and what it
writes behind the reservations that cover it. -/
def effectWaits (s : State) (L : Nat) (o : EngineOp) : Bool :=
  (o.credit.isSome && s.earlierOpen L o) || (!s.grants.isEmpty &&
    (o.puts.any (fun p => s.heldRange (some L) p.key p.bytes.length)
      || (o.descs ++ o.pops ++ o.poison.map (·.1) ++ (o.credit.map (·.desc)).toList).any fun d => ringHeld s (some L) ⟨L, d⟩))

def execEngineInstructionComplete (s : State) : Host.Outcome State Fault Refusal :=
  .next (match s.ev with
    | .engineInstructionComplete L matrix =>
      if enginesHeld s L then s
      else match (if matrix then (s.core L).mat else (s.core L).vec) with
        | none => s
        | some o => if effectWaits s L o then s else engineDone s L matrix o
    | _ => s)

/-! ## Pauses (R207, R290) -/

/-- A fibre's engine instruction is paused in place. -/
def pauseFibre (c : Core) (f : Nat) : Core :=
  let mine (o : EngineOp) : Bool := o.fibre == f && !o.remote
  let p (o : EngineOp) : EngineOp := { o with paused := true }
  { c with
    vecPaused := c.vecPaused ++ (c.vec.filter mine).toList.map p, vec := c.vec.filter (!mine ·)
    matPaused := c.matPaused ++ (c.mat.filter mine).toList.map p, mat := c.mat.filter (!mine ·) }

/-- A paused instruction of a fibre in a slot resumes when its engine is free. -/
def resumable (c : Core) (matrix : Bool) : Option EngineOp :=
  if (if matrix then c.mat.isSome else c.vec.isSome) then none
  else (if matrix then c.matPaused else c.vecPaused).find? fun o => (c.slotOf o.fibre).isSome

/-- Resumes the instruction: its writes take a new place in the port; its messages have left. -/
def resumeEngine (s : State) (L : Nat) (matrix : Bool) : State :=
  match resumable (s.core L) matrix with
  | none => s
  | some o =>
    let s := s.modCore L fun c => if matrix then { c with matPaused := c.matPaused.erase o } else { c with vecPaused := c.vecPaused.erase o }
    s.enter L matrix { o with paused := false, sends := [] }

end Sys2Proof.Machine
end

