-- ==== Sys2Proof/Machine/Book.lean ====
section
/-! DEFINITION. Launches (spec/03_host_interface.md R95, spec/05_scheduler.md R140–R144) and the schedule books
(spec/06_schedule_book_and_stash.md R158–R170; R425, R426).
Log entries: 26, 27 (DEDUCED and DESIGN CHOICE). -/

namespace Sys2Proof.Machine

/-! ## Launches -/

/-- A context's cores in ascending identifier order (R140). -/
def ctxLeaves (s : State) (c : Nat) : List Nat := (List.range nCores).filter fun L => (s.ctx c).owns (clusterOf L)

/-- Address of record i of an array. -/
def recAt (va : VAddr) (i : Nat) : VAddr := va + BitVec.ofNat 56 (128 * i)

/-- Pushes a record of a launch on its target core, as TASKPUSH does (R139, R140): none while its deque has no room,
or while its spill waits for a mapping (R142). -/
def pushRec (s : State) (c L : Nat) (i : Nat) (idx : Nat) (va : VAddr) : Option State :=
  match checkRec s c (s.engineOf L) va false with
  | .error e =>
    let cause := stopCause e
    if leavesRecord cause || cause = 0x101 then some (s.countFail (some i) (some idx) va cause)
    else some (workOff (s.openTask (some i) (some idx) va) c L [.fail (some i) va cause none] todoFuel)
  | .ok t =>
    if recHeld s c va then none
    else match placeRec s c L va t with
    | .ok s' => some (s'.openTask (some i) (some idx) va)
    | .error _ => none

/-- Pushes the records of a launch that are left, in index order, as far as they go. -/
def pushAll (s : State) (c i : Nat) (targets : Array Nat) (l : List (Nat × VAddr)) : State :=
  match l with
  | [] => s.modLaunch (some i) fun x => { x with unread := [] }
  | (idx, va) :: r =>
    if s.launches.any fun x => x.id == i && x.unread.any (·.1 == idx) then
      match pushRec s c (targets.getD (idx % targets.size) 0) i idx va with
      | some s' => pushAll s' c i targets r
      | none => s.modLaunch (some i) fun x => { x with unread := x.unread.filter fun e => idx ≤ e.1 }
    else pushAll s c i targets r

/-- Goes on pushing a launch. -/
def pushLaunch (s : State) (l : Launch) : State :=
  let all := ctxLeaves s l.ctx
  let targets := match l.owner with | .book d _ => all.filter (dieOf · == d) | .packet .. => all
  pushAll s l.ctx l.id targets.toArray l.unread

/-- Opens a launch of an array of records. -/
def openLaunch (s : State) (c : Nat) (owner : LaunchOf) (va : VAddr) (n : Nat) : State :=
  let l : Launch := { id := s.nextId, ctx := c, owner, unread := (List.range n).map fun i => (i, recAt va i) }
  pushLaunch { s with nextId := s.nextId + 1, launches := s.launches ++ [l] } l

/-- Every task of a launch has retired or failed. -/
def Launch.ended (l : Launch) : Bool := l.unread.isEmpty && l.tasks.isEmpty

def State.launch? (s : State) (i : Nat) : Option Launch := s.launches.find? (·.id == i)
def State.dropLaunch (s : State) (i : Nat) : State := { s with launches := s.launches.filter (·.id != i) }

/-- A 32-bit counter's increment as a release (R95, R164): the failed access's cause, or the new state. A poisoned
counter fails as a poisoned atomic. -/
def countUp (s : State) (c : Nat) (va : VAddr) : Except Cause State :=
  match resolveRange s (noCore c) va 4 .atomic with
  | .error e => .error (stopCause e)
  | .ok ps =>
    if piecesPoisoned s ps then .error 0x122
    else .ok (writePieces s none ps (leBytes 4 (leNat (readPieces s ps) + 1)))

/-- A counter's granule is held by a reservation (R241): its increment waits. -/
def counterHeld (s : State) (c : Nat) (va : VAddr) : Bool :=
  match resolve s (noCore c) va .atomic with
  | .ok l => s.heldBack none (granule l.key)
  | .error _ => false

/-- A reservation holds back a part of what the part writes in a range (R241). -/
def rangeHeld (s : State) (c : Nat) (va : VAddr) (n : Nat) : Bool :=
  !s.grants.isEmpty && match resolveRange s (noCore c) va n .write with
    | .ok ps => ps.any fun (l, m) => s.heldRange none l.key m
    | .error _ => false

/-- The cause of a counter in a window where it may not lie: that of the first failed check of R211, or, of an address that passes
them, direct-window-invalid of an engine (R474; log entry 38). -/
def windowCause (s : State) (c : Nat) (va : VAddr) : Cause :=
  match resolveRange s (noCore c) va 4 .atomic with
  | .error e => stopCause e
  | .ok _ => 0x068

/-! ## Book states (R164, R204) -/

def State.book (s : State) (d : Nat) : Book := (s.die d).book
def State.modBook (s : State) (d : Nat) (f : Book → Book) : State := s.modDie d fun x => { x with book := f x.book }

/-- Key of a ring's book link: consumer-side for an upstream ring. -/
def linkKey (L off : Nat) (down : Bool) : Nat := tcmKey L off + (if down then 24 else 28)

/-- A link word, as the part reads it. -/
def State.linkAt (s : State) (k : Nat) : Nat := leNat (s.partBytes k 4)

/-- The word of a link to a die's book. -/
def linkWord (s : State) (d : Nat) : Nat := s.modNum.toNat * 65536 + d * 8192 + 1

/-- The identifier that a book's messages carry: its module and die. -/
def bookId (s : State) (d : Nat) : CoreId := BitVec.ofNat 32 (s.modNum.toNat * 65536 + d * 8192)

/-- A message of a book to a core of another module. -/
def bookMsg (s : State) (d c : Nat) (id : CoreId) (body : MsgBody) : State :=
  let m : Msg := { id := s.nextId, src := bookId s d, dst := id, ctx := c, fibre := 0, pc := 0, cycle := (s.die d).cycle.toNat, body }
  { s with nextId := s.nextId + 1, outMsgs := s.outMsgs ++ [m] }

/-- Sends a link word to a ring of another module. -/
def sendLink (s : State) (d c : Nat) (id : CoreId) (off : Nat) (down : Bool) (v : Nat) : State :=
  bookMsg s d c id (.link (BitVec.ofNat 18 off) down (BitVec.ofNat 32 v))

/-- A link word of another module's book arrives: a later load's link replaces the link (R162), and a word with V clear takes back
the link that it names (R204). -/
def linkArrive (s : State) (T off : Nat) (down : Bool) (v : BitVec 32) : State :=
  let k := linkKey T off down
  if v.getLsbD 0 || s.linkAt k == v.toNat + 1 then s.homeWrite none k (leBytes 4 v.toNat) else s

/-- A book of another module asks for the counts of a ring (R162, step 1): the answer goes back to its die. -/
def askArrive (s : State) (m : Msg) (T off : Nat) (down : Bool) : State :=
  let r : Ring := ⟨T, off⟩
  let counts := if inCtx s (some m.ctx) (clusterOf T) then some (ringFilled s r, ringSlots s r) else none
  let a : Msg := { id := s.nextId, src := s.coreId T 0, dst := m.src, ctx := m.ctx, fibre := 0, pc := 0, cycle := s.cycleOf T,
                   body := .answer (BitVec.ofNat 18 off) down counts }
  { s with nextId := s.nextId + 1, outMsgs := s.outMsgs ++ [a] }

/-- Clears V of every link that names the die (R204). -/
def clearLinks (s : State) (d : Nat) : State :=
  let s := (s.book d).links.foldl (init := s) fun s (id, off, down) =>
    match s.localCore id with
    | some L =>
      let k := linkKey L off down
      if s.linkAt k = linkWord s d then s.homeWrite none k (leBytes 4 (linkWord s d - 1)) else s
    | none => sendLink s d (s.book d).ctx.toNat id off down (linkWord s d - 1)
  s.modBook d fun b => { b with links := [] }

/-- The book forgets its image, and its fault (R169). What BOOK_STEP, BOOK_STASH, BOOK_CODEC, BOOK_IDLE and BOOK_STAT.CTX show in
EMPTY, R164 and R169 do not say: the model keeps them until the next load or reset (DESIGN CHOICE, log entry 27). -/
def emptyBook (s : State) (d : Nat) : State :=
  (clearLinks s d).modBook d fun b =>
    { b with state := .empty, entries := [], rings := [], cred := Vector.replicate 8 0, pos := 0, notices := [], ckhold := false
             cause := 0, fent := 0 }

/-- GO. While CKHOLD is set it is kept for step 5 of R130. -/
def bookGo (s : State) (d : Nat) : State :=
  s.modBook d fun b =>
    match b.state with
    | .ready => { b with state := .run }
    | .held => if b.ckhold then { b with ckgo := true } else { b with state := .run }
    | _ => b

/-- PAUSE. -/
def bookPause (s : State) (d : Nat) : State :=
  s.modBook d fun b =>
    match b.state with
    | .run => { b with state := .held }
    | .held => if b.ckhold then { b with ckgo := false } else b
    | _ => b

/-- CLEAR. -/
def bookClear (s : State) (d : Nat) : State :=
  match (s.book d).state with
  | .ready => emptyBook s d
  | .held | .done | .fault => if (s.book d).flight.isEmpty then emptyBook s d else s
  | _ => s

/-- A CHECKPOINT of the book's context issues (R164). A book that the BOOK packet's START put into RUN, with no GO since its load,
counts as one whose last request was GO: R164 names GO and PAUSE only (DESIGN CHOICE, log entry 27). -/
def bookHold (b : Book) : Book :=
  match b.state with
  | .run => { b with state := .held, ckhold := true, ckgo := true }
  | .held => { b with ckhold := true, ckgo := false }
  | _ => b

/-- Step 5 of R130. -/
def bookUnhold (b : Book) : Book :=
  if b.ckhold then { b with ckhold := false, state := if b.state = .held ∧ b.ckgo then .run else b.state } else b

/-- fault(c, i) (R165). -/
def bookFault (s : State) (d : Nat) (cause : Cause) (i : Nat) : State :=
  let c := (s.book d).ctx.toNat
  let s := s.modBook d fun b => { b with state := .fault, cause, fent := BitVec.ofNat 10 i }
  let s := s.fqSend c (nofibEntry s c cause false noSrc 0 0 (BitVec.ofNat 64 d) (BitVec.ofNat 64 i) d)
  s.event d noSrc 13 c (detail3 cause.toNat i d)

def execBookCtlGo (s : State) : Host.Outcome State Fault Refusal :=
  .next (match s.hostEv with | .bookCtlGo d => bookGo s d | _ => s)

def execBookCtlPause (s : State) : Host.Outcome State Fault Refusal :=
  .next (match s.hostEv with | .bookCtlPause d => bookPause s d | _ => s)

def execBookCtlClear (s : State) : Host.Outcome State Fault Refusal :=
  .next (match s.hostEv with | .bookCtlClear d => bookClear s d | _ => s)

/-! ## The advance (R165–R167) -/

/-- Entries in flight. -/
def Book.flying (b : Book) : List BookEntry := b.flight.filterMap fun (_, i) => b.entries[i]?

/-- Why the next entry stalls: 0 FLIGHT, 1 UPSTREAM, 2 DOWNSTREAM. -/
def Book.stall (b : Book) (e : BookEntry) : Option Nat :=
  let f := b.flying
  if b.infl ≤ f.length ∨ f.any (fun x => (e.dn != 15 && x.dn == e.dn) || (e.up != 15 && x.up == e.up)
      || (e.sop != 0 && x.sop != 0 && x.slot == e.slot)) then some 0
  else if e.up ≠ 15 ∧ (b.cred.getD e.up.toNat 0).toNat < e.upn.toNat then some 1
  else if e.dn ≠ 15 ∧ (b.cred.getD e.dn.toNat 0).toNat < e.dnn.toNat then some 2
  else none

/-- Adds one to BOOK_IDLE[k], saturating. -/
def Book.idleUp (b : Book) (k : Nat) : Book :=
  { b with idle := b.idle.setIfInBounds k (let v := b.idle.getD k 0; if v = BitVec.allOnes 64 then v else v + 1) }

/-- The credits and the stash claim that an entry takes. -/
def Book.take (b : Book) (e : BookEntry) : Book :=
  let sub (v : Vector (BitVec 9) 8) (j : BitVec 4) (n : BitVec 8) : Vector (BitVec 9) 8 :=
    if j = 15 then v else v.setIfInBounds j.toNat (v.getD j.toNat 0 - n.setWidth 9)
  { b with cred := sub (sub b.cred e.up e.upn) e.dn e.dnn
           stash := if e.sop = 1 then b.stash ||| (1#64 <<< e.slot.toNat) else b.stash }

/-- Every record of an entry's array can be read and names the book's context (R166). A record that can be read and not written
fails alone (R139). -/
def entryReadable (s : State) (c : Nat) (e : BookEntry) : Bool :=
  (List.range e.ntask.toNat).all fun i =>
    match recRead s c (recAt e.graph i) .read with | .ok t => t.ctx == c | .error _ => false

/-- launch(e, POS). After a launch whose array cannot be read POS stays at the failing entry: R165 and R166 do not say whether it
moves (DESIGN CHOICE, log entry 27). -/
def bookLaunch (s : State) (d : Nat) (e : BookEntry) : State :=
  let b := s.book d
  let c := b.ctx.toNat
  if !entryReadable s c e then bookFault s d 0x0F3 b.pos
  else
    let t : BookTask := { die := BitVec.ofNat 3 d, entry := BitVec.ofNat 10 b.pos, kind := e.kind, sop := e.sop, slot := e.slot,
                          stage := e.stage, mb := e.mb, step := b.step }
    openLaunch (s.modBook d fun b => { b with flight := b.flight ++ [(s.nextId, b.pos)], pos := b.pos + 1 }) c (.book d t)
      e.graph e.ntask.toNat

/-- BOOK_ADVANCE: the launch that is being pushed goes on, or entry POS is evaluated. -/
def execBookAdvance (s : State) : Host.Outcome State Fault Refusal :=
  .next (match s.ev with
    | .bookAdvance d =>
      let b := s.book d
      match s.launches.find? fun l => b.flight.any (·.1 == l.id) && !l.unread.isEmpty with
      | some l => pushLaunch s l
      | none =>
        if b.state ≠ .run then s
        else match b.entries[b.pos]? with
          | none => if b.flight.isEmpty then s else s.modBook d (·.idleUp 0)
          | some e =>
            match b.stall e with
            | some k => s.modBook d (·.idleUp k)
            | none =>
              let occ := b.stash.getLsbD e.slot.toNat
              if e.sop = 1 ∧ occ then
                if b.flight.isEmpty then bookFault s d 0x0F1 b.pos else s.modBook d (·.idleUp 3)
              else if 2 ≤ e.sop ∧ !occ then bookFault s d 0x0F2 b.pos
              else bookLaunch (s.modBook d (·.take e)) d e
    | _ => s)

/-- BOOK_LAUNCH_COMPLETE. -/
def execBookLaunchComplete (s : State) : Host.Outcome State Fault Refusal :=
  .next (match s.ev with
    | .bookLaunchComplete d i =>
      let b := s.book d
      match b.flight.find? (·.1 == i), s.launch? i with
      | some (_, n), some l =>
        if !l.ended then s
        else
          let e := b.entries[n]?
          let s := (s.dropLaunch i).modBook d fun b =>
            { b with
              flight := b.flight.filter (·.1 != i)
              stash := match e with
                | some e => if l.failed = 0 ∧ e.sop = 3 then b.stash &&& ~~~(1#64 <<< e.slot.toNat) else b.stash
                | none => b.stash }
          if l.failed ≠ 0 ∧ (b.state = .run ∨ b.state = .held) then bookFault s d 0x0F3 n else s
      | _, _ => s
    | _ => s)

/-- BOOK_TABLE_END: DONEA counts, and the book begins again with the next step, or is done (R164). -/
def execBookTableEnd (s : State) : Host.Outcome State Fault Refusal :=
  .next (match s.ev with
    | .bookTableEnd d =>
      let b := s.book d
      let c := b.ctx.toNat
      if b.state ≠ .run ∨ b.pos ≠ b.entries.length ∨ !b.flight.isEmpty then s
      else
        let next (s : State) : State := s.modBook d fun b =>
          if b.loop then { b with pos := 0, step := b.step + 1 } else { b with state := .done }
        if b.donea = 0 then next s
        else if 0xFD ≤ b.donea.toNat / 2 ^ 48 then bookFault s d (windowCause s c b.donea) (b.entries.length - 1)
        else if counterHeld s c b.donea then s
        else match countUp s c b.donea with
          | .ok s' => next s'
          | .error cause => bookFault s d cause (b.entries.length - 1)
    | _ => s)

/-- A notice counts in a book (R163). -/
def Book.noticed (b : Book) (j : Nat) : Book := { b with cred := b.cred.setIfInBounds j (b.cred.getD j 0 + 1) }

/-- BOOK_NOTICE: the oldest notice of the module, or one from another module. -/
def execBookNotice (s : State) : Host.Outcome State Fault Refusal :=
  .next (match s.ev with
    | .bookNotice d none =>
      s.modBook d fun b => match b.notices with | [] => b | j :: r => { b with notices := r }.noticed j
    | .bookNotice d (some (id, off, down)) =>
      s.modBook d fun b => match b.ringIdx id off.toNat down with | some j => b.noticed j | none => b
    | _ => s)

/-! ## Loading a book (R158–R162) -/

/-- A book image's header, as far as a load needs it. -/
structure BookHeader where
  nring : Nat
  book  : Book

/-- The header (R158); none where a field is outside its range. The stash area is checked apart. -/
def headerOf (h : List Byte) (nent : Nat) : Option BookHeader :=
  let at_ (o n : Nat) : Nat := leNat ((h.drop o).take n)
  let cf := at_ 11 1
  let m := if cf % 4 = 2 then 3 else 7
  if at_ 0 4 ≠ 0x4B4F4F42 ∨ at_ 4 2 ≠ 1 ∨ at_ 6 2 ≠ nent ∨ nent = 0 ∨ 1024 < nent ∨ 8 < at_ 8 1 ∨ at_ 9 1 = 0 ∨ 8 < at_ 9 1
      ∨ 1 < at_ 10 1 ∨ cf % 4 = 3 ∨ 8 ≤ cf ∨ at_ 23 1 ≠ 0 ∨ at_ 16 8 % 4 ≠ 0 ∨ at_ 31 1 ≠ 0 ∨ at_ 24 8 % 64 ≠ 0
      ∨ at_ 32 4 % 64 ≠ 0 ∨ 64 < at_ 36 1 ∨ at_ 37 3 ≠ 0 ∨ at_ 48 16 ≠ 0 ∨ 2 ^ 40 < at_ 36 1 * at_ 32 4 then none
  else
    some { nring := at_ 8 1
           book :=
            { infl := at_ 9 1, loop := at_ 10 1 == 1, step := BitVec.ofNat 32 (at_ 12 4), donea := BitVec.ofNat 56 (at_ 16 8)
              stashBase := BitVec.ofNat 56 (at_ 24 8), stashSlot := BitVec.ofNat 32 (at_ 32 4), nstash := BitVec.ofNat 7 (at_ 36 1)
              keyid := BitVec.ofNat 64 (at_ 40 8)
              codec := fields [(m, 0), (cf % 4, 8), (cf / 4, 10), (2 ^ 16 - 125 - m, 16)] } }

/-- The stash area translates with R and W, into HBM and LPDDR6 (R161). -/
def stashAreaOk (s : State) (c : Nat) (b : Book) : Bool :=
  b.nstash = 0 ||
    match resolveRange s (noCore c) b.stashBase (b.nstash.toNat * b.stashSlot.toNat) .atomic with
    | .error _ => false
    | .ok ps => ps.all fun (l, _) =>
      match l.home with | .mapped _ => (match paRange l.key with | some (.dieStore, _) => false | _ => true) | _ => false

/-- A ring-table entry (R159); none where a field is outside its range. -/
def ringEntryOf (b : List Byte) : Option BookRing :=
  let at_ (o n : Nat) : Nat := leNat ((b.drop o).take n)
  if at_ 4 2 % 64 ≠ 0 ∨ 1 < at_ 6 1 ∨ at_ 7 9 ≠ 0 then none
  else some { core := BitVec.ofNat 32 (at_ 0 4 / 8 * 8), off := BitVec.ofNat 16 (at_ 4 2), down := at_ 6 1 == 1 }

/-- The ring of an entry on this module; what other modules answered stands in `remote`: filled and slot counts. -/
def ringCounts (s : State) (remote : List (Nat × Nat × Nat)) (j : Nat) (e : BookRing) : Option (Nat × Nat) :=
  match s.localCore e.core with
  | some L => let r : Ring := ⟨L, e.off.toNat⟩; some (ringFilled s r, ringSlots s r)
  | none => (remote.find? (·.1 == j)).map (·.2)

/-- A ring's core is a core of the context, on the book's die for an upstream ring (R159, R161). -/
def ringPlaced (s : State) (c d : Nat) (remote : List (Nat × Nat × Nat)) (j : Nat) (e : BookRing) : Bool :=
  namesCore s e.core &&
    match s.localCore e.core with
    | some L => inCtx s (some c) (clusterOf L) && (e.down || dieOf L == d)
    | none => e.down && remote.any (·.1 == j)

/-- A book entry (R160) with the checks of R161; `rings` are the table's entries with their slot counts. -/
def bookEntryOf (b : List Byte) (nstash : Nat) (rings : List (BookRing × Nat)) : Option BookEntry :=
  let at_ (o n : Nat) : Nat := leNat ((b.drop o).take n)
  let kind := at_ 3 1 % 4
  let sop := at_ 3 1 / 4
  let side (j n : Nat) (down : Bool) : Bool :=
    if j = 15 then n == 0 else match rings[j]? with | some (r, k) => r.down == down && decide (n ≤ k) | none => false
  if kind = 3 ∨ 4 ≤ sop ∨ 64 ≤ at_ 4 1 ∨ (if sop = 0 then at_ 4 1 ≠ 0 else nstash ≤ at_ 4 1)
      ∨ !side (at_ 5 1 % 16) (at_ 6 1) false ∨ !side (at_ 5 1 / 16) (at_ 7 1) true
      ∨ at_ 8 8 % 64 ≠ 0 ∨ at_ 15 1 ≠ 0 ∨ at_ 16 4 = 0 ∨ 65536 < at_ 16 4 ∨ at_ 20 12 ≠ 0
      ∨ (sop = 1 ∧ kind ≠ 0) ∨ (2 ≤ sop ∧ kind = 0) then none
  else
    some { mb := BitVec.ofNat 16 (at_ 0 2), stage := BitVec.ofNat 8 (at_ 2 1), kind := BitVec.ofNat 2 kind, sop := BitVec.ofNat 2 sop
           slot := BitVec.ofNat 6 (at_ 4 1), up := BitVec.ofNat 4 (at_ 5 1 % 16), dn := BitVec.ofNat 4 (at_ 5 1 / 16)
           upn := BitVec.ofNat 8 (at_ 6 1), dnn := BitVec.ofNat 8 (at_ 7 1), graph := BitVec.ofNat 56 (at_ 8 8)
           ntask := BitVec.ofNat 32 (at_ 16 4) }

/-- Writes the link of a ring (R162, step 2). -/
def writeLink (s : State) (d c : Nat) (e : BookRing) : State :=
  let s := match s.localCore e.core with
    | some L => s.homeWrite none (linkKey L e.off.toNat e.down) (leBytes 4 (linkWord s d))
    | none => sendLink s d c e.core e.off.toNat e.down (linkWord s d)
  s.modBook d fun b => { b with links := b.links ++ [(e.core, e.off.toNat, e.down)] }

/-- How a packet fails: STATUS, CAUSE and RESULT. -/
abbrev PktFail := Nat × Cause × Nat

/-- Reads a range for a packet: a fault or poison completes it FAULT (R474). -/
def pktRead (s : State) (c : Nat) (va : VAddr) (n : Nat) (poison : Cause) : Except PktFail (List Byte) :=
  match readVa s (noCore c) va n with
  | .error e => .error (3, stopCause e, 0)
  | .ok (b, p) => if p then .error (3, poison, 0) else .ok b

/-- A condition that completes a packet INVALID. -/
def valid? (b : Bool) (cause : Cause) (result : Nat) : Except PktFail Unit := if b then .ok () else .error (2, cause, result)

/-- The packet may name the die: it is the context's, and its book does not advance (R100). -/
def bookMay (s : State) (c d : Nat) : Except PktFail Unit := do
  valid? ((List.range 6).any fun k => (s.ctx c).owns (d * 6 + k)) 0x168 0
  valid? ((s.book d).state != .run && (s.book d).flight.isEmpty) 0x169 0

/-- A BOOK packet (R100, R161, R162): the state after the load, and RESULT. -/
def bookLoad (s : State) (c d : Nat) (image : VAddr) (nent : Nat) (start : Bool) (remote : List (Nat × Nat × Nat)) :
    Except PktFail (State × Nat) := do
  let hdr := 0xFFFFFFFF
  let old := s.book d
  bookMay s c d
  valid? (image.toNat % 64 == 0) 0x0F0 hdr
  let h ← pktRead s c image 192 0x125
  let x ← match headerOf (h.take 64) nent with | some x => pure x | none => .error (2, 0x0F0, hdr)
  valid? (stashAreaOk s c x.book) 0x0F0 hdr
  let tab := chunks 16 8 (h.drop 64)
  let rings ← match (tab.take x.nring).mapM ringEntryOf with | some r => pure r | none => .error (2, 0x0F0, hdr)
  valid? ((tab.drop x.nring).all fun e => e.all (· == 0)) 0x0F0 hdr
  valid? (rings.zipIdx.all fun (e, j) => ringPlaced s c d remote j e) 0x0F0 hdr
  let counts := rings.zipIdx.map fun (e, j) => (ringCounts s remote j e).getD (0, 0)
  let eb ← pktRead s c (image + 192) (32 * nent) 0x125
  let es := (chunks 32 nent eb).map fun b => bookEntryOf b x.book.nstash.toNat (rings.zip (counts.map (·.2)))
  match es.findIdx? (·.isNone) with
  | some i => .error (2, 0x0F0, i)
  | none =>
    let cred := (rings.zip counts).map fun (e, f, n) => BitVec.ofNat 9 (if e.down then n - f else f)
    let b : Book :=
      { x.book with
        state := if start then .run else .ready, ctx := BitVec.ofNat 6 c, rings, entries := es.filterMap id, links := old.links
        cred := Vector.ofFn fun j => cred.getD j.val 0 }
    let s' := rings.foldl (fun s e => writeLink s d c e) (s.modBook d fun _ => b)
    return (s', (b.codec.extractLsb' 0 8).toNat + (b.codec.extractLsb' 16 16).toNat * 2 ^ 16)

/-! ## Book instructions (R425, R426) -/

def execBkinfo (d : GReg) (s : State) : Host.Outcome State Fault Refusal :=
  finish s do
    match s.bookTask with
    | none => trap0 0x0F9
    | some b =>
      return s.result 1 d (fields [(b.entry.toNat, 0), (b.kind.toNat, 10), (b.slot.toNat, 12), (b.stage.toNat, 18), (b.mb.toNat, 26),
        (b.die.toNat, 42)])

def execBkstep (d : GReg) (s : State) : Host.Outcome State Fault Refusal :=
  finish s do
    match s.bookTask with
    | none => trap0 0x0F9
    | some b => return s.result 1 d (b.step.setWidth 64)

/-- The checks of BKGO and BKPAUSE, in order. -/
def bookMine (s : State) : Chk Nat := do
  let d := dieOf s.L
  let b := s.book d
  need (b.state ≠ .empty) 0x0F8
  need (b.ctx.toNat = s.myCtx) 0x0F7
  return d

def execBkgo (s : State) : Host.Outcome State Fault Refusal := finish s do return (bookGo s (← bookMine s)).advance
def execBkpause (s : State) : Host.Outcome State Fault Refusal := finish s do return (bookPause s (← bookMine s)).advance

end Sys2Proof.Machine
end

