-- ==== Sys2Proof/Machine/Branch.lean ====
section
/-! DEFINITION. Control flow (spec/15_isa_scalar.md R353, R357–R359). A branch, call or loop relative to the chain has an
even target, since a PC is even (R180); a register target is checked. -/

namespace Sys2Proof.Machine

/-- The link register a7 of the plane that issues (R358). -/
def linkReg : GReg := 7

/-- The address of the next chain, as the link value. -/
def State.link (s : State) : Word := s.nextPc.setWidth 64

def execBcc (o : OpBC) (s : State) : Host.Outcome State Fault Refusal :=
  .next (if s.cond.test o.cc then s.jump (s.relTarget o.off) else s.jump s.nextPc)

def execJ (off : BitVec 33) (s : State) : Host.Outcome State Fault Refusal := .next (s.jump (s.relTarget off))

def execCall (off : BitVec 33) (s : State) : Host.Outcome State Fault Refusal :=
  .next ((s.setG 1 linkReg s.link).goto (s.relTarget off))

def execJr (o : OpD) (s : State) : Host.Outcome State Fault Refusal :=
  finish s do
    checkTarget (s.addrG o.d)
    return s.jump (s.addrG o.d)

def execCallr (o : OpD) (s : State) : Host.Outcome State Fault Refusal :=
  finish s do
    checkTarget (s.addrG o.d)
    return (s.setG 1 linkReg s.link).goto (s.addrG o.d)

def execRet (_h : Hints) (s : State) : Host.Outcome State Fault Refusal :=
  finish s do
    checkTarget (s.addrG linkReg)
    return s.jump (s.addrG linkReg)

def execLoop (o : OpLoop) (s : State) : Host.Outcome State Fault Refusal :=
  let target := s.relTarget o.imm
  let n := s.getG o.d
  finish s do
    need o.imm.msb 0x00F (target.setWidth 64)
    need (n ≠ 0 ∧ n.msb = false) 0x00E 0 n
    return (s.setG 1 o.d (n - 1)).goto (if n - 1 ≠ 0 then target else s.nextPc)

end Sys2Proof.Machine
end

