-- ==== Sys2Proof/Machine/Issue.lean ====
section
/-! DEFINITION. Issue: which slot issues (spec/07_core_and_fibres.md R178), the fetch of a chain (spec/13_isa_formats.md
R313, R314), and what stands before an instruction's own meaning: breakpoints and match points (spec/12 R299–R303).
Log entries: 7, 16, 33 (DEDUCED); 5 (DESIGN CHOICE). -/

namespace Sys2Proof.Machine

/-! ## The barrel (R178) -/

/-- A slot holds a ready fibre (R178, R188), past the writeback of its previous instruction (R348). -/
def Core.slotReady (c : Core) (now slot : Nat) : Bool :=
  let free (f : Nat) : Bool := (c.fib f).status == .ready && decide ((c.fib f).due ≤ now)
  if slot = 0 then
    if c.handler.isSome then c.shadowSt == .ready && decide (c.shadowDue ≤ now) else !c.idle && free 0
  else (c.inSlot slot).any free

/-- The slots in cyclic order after the one that issued last. -/
def slotOrder (last : Nat) : List Nat := (List.range 8).map fun i => (last + 1 + i) % 8

/-- The slot that issues in the present cycle. -/
def Core.pickSlot (c : Core) (now : Nat) : Option Nat :=
  if c.held then none
  else (slotOrder c.lastSlot.val).find? fun i => c.slotReady now i && !c.issued.getLsbD i

/-- The next core from `focus` on that has a slot to issue from, and the slot. A core outside every enabled context
issues nothing, nor does a throttled die (R42). -/
def nextIssue (s : State) (l : Sparse Core) : Option (Nat × Nat) :=
  match l with
  | [] => none
  | (L, c) :: r =>
    if s.focus ≤ L ∧ L < nCores ∧ (s.die (dieOf L)).throttled = false ∧ (s.ctxOfCore L).isSome then
      match c.pickSlot (s.cycleOf L) with
      | some i => some (L, i)
      | none => nextIssue s r
    else nextIssue s r

/-- The firmware has released the compute dies (R108). -/
def State.running (s : State) : Bool := s.mgmt.boot.extractLsb' 0 2 == 1

/-- The next core and slot to issue. -/
def issueNext (s : State) : Option (Nat × Nat) := if s.running then nextIssue s s.cores else none

/-! ## Fetch (R314) -/

/-- Fetches one word of a chain. A later word that lacks X or lies in a window is prefix-at-end. -/
def fetchWord (s : State) (L : Nat) (va : VAddr) (first : Bool) : Chk Half :=
  match resolve s (s.party L) va .exec with
  | .ok l =>
    if s.poisoned l.key 2 then trapA 0x121 (va.setWidth 64)
    else .ok (BitVec.ofNat 16 (s.viewN L l.key 2))
  | .error (.trap c a x e) =>
    if first = false ∧ (c.toNat / 16 = 5 ∨ c.toNat / 16 = 6) then trapA 0x013 (va.setWidth 64) else .error (.trap c a x e)
  | .error e => .error e

/-- A chain as it was fetched: its words up to the base word, or up to where reading its prefixes or its memory ends,
with the reason. -/
structure Fetched where
  words : List Half
  stop  : Option Stop := none
deriving DecidableEq, Repr

/-- Fetches a chain word by word (R313): the words of prefixes as long as they may stand there, then the base word. -/
def fetchFrom (s : State) (L : Nat) (va : VAddr) (p : Pfx) (first : Bool) (fuel : Nat) : Fetched :=
  match fuel with
  | 0 => { words := [] }
  | n + 1 =>
    match fetchWord s L va first with
    | .error e => { words := [], stop := some e }
    | .ok w =>
      match p.add w with
      | some (.ok p') =>
        let r := fetchFrom s L (va + 2) p' false n
        { r with words := w :: r.words }
      | _ => { words := [w] }

/-- The chain at an address. -/
def fetchChain (s : State) (L : Nat) (pc : VAddr) : Fetched := fetchFrom s L pc {} true 5

/-- A fetch is a read in the port order of the core (R315): the port lets the words of a chain go, or holds them. -/
def fetchGo (s : State) (L : Nat) (pc : VAddr) (n : Nat) : Chk Unit :=
  if n = 0 then .ok ()
  else do
    readAny s false
    (List.range n).forM fun i =>
      match resolve s (s.party L) (pc + BitVec.ofNat 56 (2 * i)) .exec with
      | .ok l => forwardGo s l 2
      | .error _ => .ok ()

/-! ## One issue turn -/

/-- What one issue turn comes to. -/
inductive Turn where
  /-- An instruction issues, in the state with the latch set. -/
  | run (i : Instr) (s : State)
  /-- A breakpoint or match point stands before it: the event acts instead. -/
  | event (e : Event) (s : State)
  /-- The turn is over: its fetch or its decoding trapped, or its fetch waits in the port. -/
  | done (s : State)
  | fault (f : Fault)

/-- The issue of a slot, as the barrel counts it (R178, R206). -/
def markIssue (s : State) (L slot : Nat) (i : Issue) : State :=
  let s := s.modCore L fun c =>
    let c := { c with lastSlot := if h : slot < 8 then ⟨slot, h⟩ else 7, issued := c.issued ||| (1#8 <<< slot) }
    match c.inSlot slot with
    | some f => c.modFib f fun x => { x with quantum := x.quantum + 1, slot := BitVec.ofNat 3 slot }
    | none => c
  { s with cur := { i with time := s.cycleOf L }, focus := L + 1 }

/-- The PC of the fibre that a slot issues. -/
def Core.slotPc (c : Core) (slot : Nat) : VAddr :=
  if c.shadow slot then c.shadowPc else ((c.inSlot slot).map fun f => (c.fib f).pc).getD 0

/-- A cluster breakpoint matches the chain's address (R303). -/
def breakpointAt (s : State) (L : Nat) (pc : VAddr) : Bool :=
  (s.cluster (clusterOf L)).bp.toList.any fun w => w.getLsbD 0 && w.extractLsb' 1 55 == pc.extractLsb' 1 55

/-- The lowest enabled match point at the chain's address (R300). -/
def matchPoint (c : Core) (pc : VAddr) : Option Nat :=
  c.pmpc.toList.findIdx? fun w => w.getLsbD 0 && w.extractLsb' 1 55 == pc.extractLsb' 1 55

/-- The latch for a chain that has not been decoded: its length and its last word (R286, R312). -/
def chainIssue (s : State) (L slot : Nat) : Issue :=
  let pc := (s.core L).slotPc slot
  let x := fetchChain s L pc
  { core := L, slot, pc, len := 2 * max 1 x.words.length, word := x.words.getLast?.getD 0, npfx := BitVec.ofNat 3 (x.words.length - 1)
    time := s.cycleOf L }

/-- The event that stands before the instruction at the chain's address, if any. -/
def beforeIssue (s : State) (L slot : Nat) (pc : VAddr) : Option Event :=
  let c := s.core L
  let x := c.fib ((c.inSlot slot).getD 0)
  if h : L < 6144 ∧ slot < 8 then
    if !(if c.shadow slot then c.shadowNoBreak else x.noBreak) && breakpointAt s L pc then some (.clusterBreakpoint ⟨L, h.1⟩ ⟨slot, h.2⟩)
    else if slot ≠ 0 ∧ !x.noMatch ∧ (matchPoint c pc).isSome then some (.pcMatchFire ⟨L, h.1⟩ ⟨slot, h.2⟩)
    else none
  else none

/-- One issue turn of a slot. -/
def turn (s : State) (L slot : Nat) : Turn :=
  let pc := (s.core L).slotPc slot
  match beforeIssue s L slot pc with
  | some e => .event e { s with cur := { core := L, slot, pc } }
  | none =>
    let x := fetchChain s L pc
    let n := x.words.length
    let here : State := { s with cur := { core := L, slot, pc }, focus := L + 1 }
    match fetchGo here L pc n, x.stop with
    | .error (.wait w), _ => .done (here.waitFor w)
    | _, some (.trap c a aux e) =>
      let i : Issue := { core := L, slot, pc, len := 2 * (n + 1), word := x.words.getLast?.getD 0,
                         npfx := BitVec.ofNat 3 (n - 1), time := s.cycleOf L }
      .done (takeTrap (markIssue s L slot i) i c a aux e true)
    | _, some (.fault f) => .fault f
    | _, some _ => .done s
    | _, none =>
      match decode x.words with
      | .error e =>
        let i : Issue := { core := L, slot, pc, len := 2 * n, word := e.word, npfx := BitVec.ofNat 3 e.npfx, time := s.cycleOf L }
        .done (takeTrap (markIssue s L slot i) i e.why.cause 0 0 false false)
      | .ok (instr, _) =>
        .run instr (markIssue s L slot
          { core := L, slot, pc, len := 2 * n, word := x.words.getLast?.getD 0, npfx := BitVec.ofNat 3 (n - 1) })

end Sys2Proof.Machine
end

