-- ==== Sys2Proof/Machine/Messages.lean ====
section
/-! DEFINITION. Messages at their targets (spec/11_traps_and_preemption.md R292; spec/16_isa_memory_sync.md R365, R372,
R373, R375; spec/18_isa_matrix_and_engines.md R413, R423). Messages of one core to another arrive in the order sent
(R247).
Log entries: 7, 22, 25 (DEDUCED); 19, 23 (DEDUCED and DESIGN CHOICE). -/

namespace Sys2Proof.Machine

/-! ## Which message arrives -/

/-- The core that messages to a key go to (R292): the core of a TCM, or core 0 of a scratchpad's cluster. -/
def keyTarget (k : Nat) : Option Nat :=
  if k < 2 ^ 50 then none
  else if k < 2 ^ 51 then some ((k - 2 ^ 50) / 0x40000)
  else some (clusterCore ((k - 2 ^ 51) / 0x4000000) 0)

/-- Two bodies stand in one line: what a copy delivers keeps its order with what copies deliver to the same ring alone (R417). -/
def MsgBody.sameLine (a b : MsgBody) : Bool :=
  match a, b with
  | .deliver d, .deliver e => d.off == e.off
  | .deliver _, _ | _, .deliver _ => false
  | _, _ => true

/-- A message goes behind another: they have one source core and one target core (R247). -/
def Msg.behind (m p : Msg) : Bool := idCore p.src == idCore m.src && idCore p.dst == idCore m.dst && m.body.sameLine p.body

/-- A write at a message's target, of the message's own core, waits behind a reservation: a message sent after it waits too (R247). -/
def State.parked (s : State) (m : Msg) : Bool :=
  m.body.writes && s.heldWrites.any fun w =>
    w.op.isNone && w.core == s.localCore m.src && (keyTarget w.key).any fun T => s.localCore m.dst == some T

/-- A message of the module by its number, if no earlier one of the same core to the same core is on its way. -/
def nextMsg (pre : List Msg) (l : List Msg) (i : Nat) : Option Msg :=
  match l with
  | [] => none
  | m :: r => if m.id = i then (if pre.any m.behind then none else some m) else nextMsg (m :: pre) r i

/-- The message has come from another module. -/
def State.foreign (s : State) (m : Msg) : Bool := idModule m.src != s.modNum.toNat

/-- The target core on this module. A fenced core's router port refuses messages: they stay at their sending routers (R118). What
a fenced core has itself issued goes on to its target (R250). -/
def State.msgCore (s : State) (m : Msg) : Option Nat :=
  (s.localCore m.dst).filter fun T => !(s.core T).fenced || (s.localCore m.src).any fun L => (s.core L).fenced

/-- A message of another module that its target cannot take yet stays at the part's routers, behind earlier ones. -/
def State.keepMsg (s : State) (m : Msg) : State :=
  { s with nextId := s.nextId + 1, msgs := s.msgs ++ [{ m with id := s.nextId }] }

/-- The message that an arrival names, at its target core: one in flight inside the module, or one that comes from another. What
the target does not take yet waits (`ready`), and so does what comes behind a waiting message of the same core (R247). -/
def onArrival (s : State) (i : Nat) (ext : Option Msg) (ready : Msg → Nat → Bool) (f : State → Msg → Nat → State) : State :=
  match ext with
  | none =>
    match nextMsg [] s.msgs i with
    | none => s
    | some m =>
      match s.msgCore m with
      | some T => if ready m T && !s.parked m then f { s with msgs := s.msgs.filter (·.id != m.id) } m T else s
      | none => s
  | some m =>
    if !s.foreign m || (s.localCore m.dst).isNone then s
    else
      match s.msgs.any m.behind || s.parked m, s.msgCore m with
      | false, some T => if ready m T then f s m T else s.keepMsg m
      | _, _ => s.keepMsg m

/-- A message is counted at its target (R292): one that is discarded is counted too. -/
def State.countMsg (s : State) (m : Msg) (T : Nat) : State :=
  if idCore m.src == idCore (s.coreId T 0) then s
  else s.modCore T fun c => if s.foreign m then { c with xmRx := c.xmRx + 1 } else { c with msgRx := c.msgRx + 1 }

/-- The context check on arrival (R372): the cause of a failure. A stop of the module's own context drains its
messages first (R291). -/
def arrivalCtx (s : State) (m : Msg) (T : Nat) : Option Cause :=
  let x := s.ctx m.ctx
  if !x.owns (clusterOf T) then some 0x13B
  else if !x.en || (x.disabling && s.foreign m) then some 0x0BF else none

/-- Discards a message with an entry in the sending context's fault queue (R103, R365). -/
def discard (s : State) (m : Msg) (cause : Cause) (addr : Word) (T : Nat) : State :=
  s.report m.ctx T m.src m.fibre m.pc cause false addr (BitVec.ofNat 64 m.dst.toNat)

/-- A target core answers a message. -/
def State.answer (s : State) (m : Msg) (T : Nat) (body : MsgBody) : State :=
  let a : Msg := { id := s.nextId, src := s.coreId T 0, dst := m.src, ctx := m.ctx, fibre := m.fibre, pc := m.pc, cycle := s.cycleOf T, body }
  let s := { s with nextId := s.nextId + 1 }
  if s.foreign m then { s with outMsgs := s.outMsgs ++ [a] } else { s with msgs := s.msgs ++ [a] }

/-! ## Stores, signals and credits -/

/-- REMOTE_STORE_ARRIVE (R365). -/
def execRemoteStoreArrive (s : State) : Host.Outcome State Fault Refusal :=
  .next (match s.ev with
    | .remoteStoreArrive i =>
      onArrival s i none (fun m _ => match m.body with | .store .. => true | _ => false) fun s m T =>
        match m.body with
        | .store va k bs =>
          let s := s.countMsg m T
          match boundAt s T k bs.length with
          | some _ => discard s m 0x072 (va.setWidth 64) T
          | none => s.homeWrite (s.localCore m.src) k bs
        | _ => s
    | _ => s)

/-- SIGINC_ARRIVE (R373): the addition waits at its home behind another core's grant (log entry 7). -/
def execSigincArrive (s : State) : Host.Outcome State Fault Refusal :=
  .next (match s.ev with
    | .sigincArrive i ext =>
      onArrival s i ext (fun m _ => match m.body with | .siginc .. => true | _ => false) fun s m T =>
        match m.body with
        | .siginc off inc =>
          let s := s.countMsg m T
          let addr : Word := off.setWidth 64
          match arrivalCtx s m T with
          | some c => discard s m c addr T
          | none =>
            if (s.core T).directBytes ≤ off.toNat then discard s m 0x066 addr T
            else s.homeAdd (s.localCore m.src) (tcmKey T off.toNat) inc
        | _ => s
    | _ => s)

/-- The owner of a credit by message: its task, while the task is still there. -/
def creditOwner (s : State) (m : Msg) (task : Option VAddr) : Owner :=
  match s.localCore m.src, task with
  | some L, some t => if ((s.core L).task? t).isSome then some (L, t) else none
  | _, _ => none

/-- Records that a task of another module holds here. -/
def State.awayOf (s : State) (src : CoreId) (t : VAddr) : List Hold :=
  (s.awayHolds.filter fun e => idCore e.1 == idCore src && e.2.1 == t).map (·.2.2)

/-- A task of another module, with what it holds here. -/
def State.awayTask (s : State) (src : CoreId) (t : VAddr) : Task :=
  { recAddr := t, launch := none, prio := 0, phase := .started, holds := s.awayOf src t }

/-- What a task of another module holds here becomes `l`. -/
def State.setAway (s : State) (src : CoreId) (t : VAddr) (l : List Hold) : State :=
  { s with awayHolds := s.awayHolds.filter (fun e => !(idCore e.1 == idCore src && e.2.1 == t)) ++ l.map fun h => (src, t, h) }

/-- The module of a task hears how many records it holds here (R198, log entry 19). -/
def sayHeld (s : State) (m : Msg) (T : Nat) (t : VAddr) : State :=
  s.answer m T (.held t (s.awayOf m.src t).length)

/-- A plan takes a task of another module above the 64 records that it holds at most, there and here (R198). -/
def overAway (s : State) (src : CoreId) (t : VAddr) (others : Nat) (r : Ring) (plan : List (Nat × Nat)) : Bool :=
  let old := s.awayTask src t
  decide (64 < old.holds.length + others + newHolds old r plan)

/-- Credits slots of producer n for a task of another module (R198): each slot that it credits first is held until the task commits. -/
def creditAway (s : State) (r : Ring) (n : Nat) (src : CoreId) (t : VAddr) (plan : List (Nat × Nat × Bool)) : State :=
  match plan with
  | [] => advanceTail s r
  | (i, b, p) :: rest =>
    let old := s.awayTask src t
    let s' := fillSlot s r n p i b
    creditAway ((if holdsSlot old r i then s' else raiseHold s' r i).setAway src t (addHold old r i n b p).holds) r n src t rest

/-- The records of a task of another module commit, or are discarded (R198, R203). -/
def settleHolds (s : State) (src : CoreId) (t : VAddr) (commit : Bool) : State :=
  (s.awayOf src t).foldl (fun s h => if commit then commitHold s h else discardHold s h) (s.setAway src t [])

/-- What copies of a task's ended attempt have still to deliver here credits nothing (R191). -/
def endDeliveries (s : State) (src : CoreId) (t : VAddr) : State :=
  { s with msgs := s.msgs.map fun m => match m.body with
      | .deliver d => if idCore m.src == idCore src && d.task == some t then { m with body := .deliver { d with dead := true } } else m
      | _ => m }

/-- The checks of R423 at the target, and the credit. -/
def remoteCredit (s : State) (m : Msg) (r : Ring) (k : Nat) (task : Option VAddr) (others : Nat) : Except Cause State :=
  if !ringValid s r then .error 0x070
  else match prodIndex s r m.src with
    | none => .error 0x073
    | some n =>
      if k = 0 ∨ ringSlots s r < k then .error 0x07A
      else if freeSlots s r n < k then .error 0x074
      else match s.foreign m, task with
        | true, some t =>
          let plan := (creditPlan s r n (ringHead s r) (advtBytes s r n k) (ringSlots s r)).1
          if overAway s m.src t others r plan then .error 0x075
          else .ok (sayHeld (creditAway s r n m.src t (plan.map fun (i, b) => (i, b, false))) m r.core t)
        | _, _ => credit s r m.src (advtBytes s r n k) false (creditOwner s m task)

/-! ## Copies to rings of another module (R416, R417) -/

/-- The checks of R416 that read a ring of this module, for a copy of another module (log entry 23). -/
def deliverChecks (s : State) (m : Msg) (T : Nat) (d : RingDelivery) : Option (Cause × Word) :=
  let r : Ring := ⟨T, d.off⟩
  let lay := d.layout.toNat
  match arrivalCtx s m T with
  | some c => some (if c = 0x13B then 0x0DB else 0x0DC, 0)
  | none =>
    match (do copyLayout s lay [r]; ringChecks s m.ctx m.src lay d.nbytes [r] : Chk Unit) with
    | .ok _ => none
    | .error e => some (stopCause e, stopAddr e)

/-- The part of a copy of another module, where there is room. -/
def deliverPart (s : State) (m : Msg) (T : Nat) (d : RingDelivery) : Option RingPart :=
  ringPart s m.src d (fun r plan => d.task.any fun t => overAway s m.src t d.others r plan) ⟨T, d.off⟩

/-- What a copy of another module delivers can be taken: it fails, or its ring has room and no reservation holds its writes back. -/
def deliverReady (s : State) (m : Msg) (T : Nat) (d : RingDelivery) : Bool :=
  (deliverChecks s m T d).isSome || ((deliverPart s m T d).any (fun p => !partHeld s p) && !ringHeld s none ⟨T, d.off⟩)

/-- A copy of another module delivers into its ring here; its own module hears what became of it. -/
def deliverArrive (s : State) (m : Msg) (T : Nat) (d : RingDelivery) : State :=
  let say (s : State) (fail : Option (Cause × Word)) : State := s.answer m T (.copied d.id (fail.getD (0, 0)).1 (fail.getD (0, 0)).2)
  match deliverChecks s m T d with
  | some e => say s (some e)
  | none =>
    let (s, fail) := deliverParts s d (deliverPart s m T d).toList fun s p plan =>
      match p.limit, d.task with
      | false, some t => sayHeld (creditAway s p.ring p.n m.src t plan) m T t
      | _, _ => creditParts s p.ring p.n none plan
    say s fail

/-- No reservation holds back what a ring message writes at its target (R241). -/
def ringReady (s : State) (m : Msg) (T : Nat) : Bool :=
  match m.body with
  | .credit off .. => !ringHeld s none ⟨T, off.toNat⟩
  | .deliver d => deliverReady s m T d
  | .held .. => true
  | .settle t _ => (s.awayOf m.src t).all fun h => !ringHeld s none ⟨h.core, h.desc⟩
  | .link .. | .ask .. => true
  | _ => false

/-- A task hears how many records it holds on another module. -/
def noteHeld (s : State) (L : Nat) (m : Msg) (t : VAddr) (n : Nat) : State :=
  let mod := idModule m.src
  s.modCore L fun c => { c with tasks := c.tasks.map fun (k : Task) =>
    if k.recAddr = t then { k with awayHeld := k.awayHeld.filter (·.1 != mod) ++ [(mod, n)] } else k }

/-- RING_CREDIT_ARRIVE (R423): a credit. The messages of other modules about the rings of a core come by it too: a copy delivers (R417),
a task's records settle or are counted (R198), a book asks for a ring's counts (R162), and writes or clears a book link (R162, R204). -/
def execRingCreditArrive (s : State) : Host.Outcome State Fault Refusal :=
  .next (match s.ev with
    | .ringCreditArrive i ext =>
      onArrival s i ext (ringReady s) fun s m T =>
        match m.body with
        | .credit off k task dead others =>
          let s := s.countMsg m T
          let addr : Word := off.setWidth 64
          if dead then s
          else match arrivalCtx s m T with
            | some c => discard s m c addr T
            | none =>
              match remoteCredit s m ⟨T, off.toNat⟩ k task others with
              | .ok s' => s'
              | .error c => discard s m c addr T
        | .deliver d => deliverArrive s m T d
        | .settle t commit => sayHeld (settleHolds (if commit then s else endDeliveries s m.src t) m.src t commit) m T t
        | .held t n => noteHeld s T m t n
        | .link off down v => linkArrive s T off.toNat down v
        | .ask off down => askArrive s m T off.toNat down
        | _ => s
    | _ => s)

/-! ## APPEND and MMRC (R375, R413) -/

/-- The status of a request returns to its sender. -/
def reply (s : State) (m : Msg) (T : Nat) (st : Cause) : State := s.answer m T (.status m.fibre (st.setWidth 64))

/-- The 128 bytes of an inbox entry (R374). -/
def inboxBytes (m : Msg) (ws : List Word) : List Byte :=
  let b := ws.flatMap (fun w => leBytes 8 w.toNat) ++ leBytes (64 - 8 * ws.length) 0 ++ leBytes 4 m.src.toNat ++ leBytes 1 ws.length
  b ++ leBytes (128 - b.length) 0

/-- An entry at the tail of an inbox, or the status that refuses it. -/
def appendAt (s : State) (m : Msg) (T : Nat) (ws : List Word) : State × Cause :=
  let c := s.core T
  match arrivalCtx s m T with
  | some x => (s, x)
  | none =>
    if !c.inEn then (s, 0x0B6)
    else if 2 ^ c.inLog2 ≤ c.inCount then (s, 0x0B5)
    else ((s.homeWrite (s.localCore m.src) (inEntry c T c.inTail) (inboxBytes m ws)).modCore T fun c => { c with inTail := c.inTail + 1 }, 0)

/-- APPEND_ARRIVE: its words wait together behind a reservation (R241). -/
def execAppendArrive (s : State) : Host.Outcome State Fault Refusal :=
  .next (match s.ev with
    | .appendArrive i ext =>
      let ready (m : Msg) (T : Nat) : Bool := match m.body with
        | .append _ => !s.heldRange (s.localCore m.src) (inEntry (s.core T) T (s.core T).inTail) 128
        | _ => false
      onArrival s i ext ready fun s m T =>
        match m.body with
        | .append ws =>
          let (s', st) := appendAt (s.countMsg m T) m T ws
          reply s' m T st
        | _ => s
    | _ => s)

/-- MMRC_ARRIVE. -/
def execMmrcArrive (s : State) : Host.Outcome State Fault Refusal :=
  .next (match s.ev with
    | .mmrcArrive i ext =>
      onArrival s i ext (fun m _ => match m.body with | .mmrc .. => true | _ => false) fun s m T =>
        match m.body with
        | .mmrc cmd key =>
          let st := (arrivalCtx s m T).getD (mmrcStatus (s.core T) cmd key)
          reply (if st = 0 then s.modCore T (acceptMmrc · cmd) else s) m T st
        | _ => s
    | _ => s)

/-- Writes a returned status to the fibre that waits for it. -/
def giveStatus (s : State) (L f : Nat) (v : Word) : State :=
  let c := s.core L
  if f = 0 ∧ c.handler.isSome ∧ c.shadowSt = .waiting .status then
    match c.shadowPend with | some p => completeAccess s L 0 true { p with value := v } | none => s
  else if (c.fib f).status = .waiting .status then
    match (c.fib f).pend with | some p => completeAccess s L f false { p with value := v } | none => s
  else s

/-- APPEND_STATUS_RETURN, of an APPEND or an MMRC. What another module has discarded is reported by the same way (R103, R365), and what
became of a copy to a ring there (R417). -/
def execAppendStatusReturn (s : State) : Host.Outcome State Fault Refusal :=
  .next (match s.ev with
    | .appendStatusReturn i ext =>
      onArrival s i ext (fun m _ => match m.body with | .status .. | .refused .. | .copied .. => true | _ => false) fun s m L =>
        match m.body with
        | .status f v => giveStatus s L f v
        | .copied n cause addr => copyReport s L n (if cause = 0 then none else some (cause, addr))
        | .refused cause eng addr aux => s.fqSend m.ctx (nofibEntry s m.ctx cause eng m.dst m.fibre m.pc addr aux (dieOf L))
        | _ => s
    | _ => s)

end Sys2Proof.Machine
end

