-- ==== Sys2Proof/Machine/Wake.lean ====
section
/-! DEFINITION. The barrel's own events: wake-ups, slots and pre-emption (spec/07_core_and_fibres.md R181–R183,
R206–R207), writebacks (R186, R348), urgent delivery (R188, R189), rotation counters (spec/12_debug_and_profiling.md
R296–R298), and host writes of CORE_ registers.
Log entries: 28, 43 (DEDUCED); 12 (DEDUCED and DESIGN CHOICE). -/

namespace Sys2Proof.Machine

/-! ## The end of a wait (R182) -/

/-- Collectives in flight on a die (R51): those whose part of the die is not done. -/
def collsOn (s : State) (d : Nat) : Nat := s.ctxs.foldl (fun n e => n + (e.2.colls.filter fun x => x.parts.any fun p => p.die == d && !p.done).length) 0

/-- The condition of a wait holds, for a fibre of core L. The waits of an access, a grant, an engine instruction and a
status end with events of their own. -/
def waitDone (s : State) (L f : Nat) (sh : Bool) (w : Wait) : Bool :=
  let c := s.core L
  match w with
  | .access | .reservation _ | .running | .status => false
  | .written => s.watches.any fun x => x.armed L f sh false && x.done.isSome
  | .port rd wr n => !s.portHolds L rd wr n
  | .ringFilled d k => decide (k ≤ ringFilled s ⟨L, d⟩)
  | .ringFree d k => match prodIndex s ⟨L, d⟩ (s.coreId L 0) with | some n => decide (k ≤ freeSlots s ⟨L, d⟩ n) | none => true
  | .slots srcs dst =>
    srcs.all (fun o => ringFilled s ⟨L, o⟩ != 0) &&
      dst.all fun o => match prodIndex s ⟨L, o⟩ (s.coreId L 0) with | some n => freeSlots s ⟨L, o⟩ n != 0 | none => true
  | .engine m descs => decide (c.woken f sh w < c.engineFree m) && !pausedOn (c.vecPaused ++ c.matPaused) descs
  | .paused d => !c.opNames d
  | .table t false => !(if t then c.dtBusy1 else c.dtBusy0)
  | .table t true => !tableUsed c t
  | .accumulator q => let a := c.acc.get q; !a.own || a.owner == f
  | .tags m => c.tags &&& m == m
  | .counter .. => s.watches.any fun x => x.armed L f sh true && x.done.isSome
  | .barrier q => let b := c.bar.get q; b.cg == b.ag
  | .mailboxEmpty q => decide (c.woken f sh w < if (c.mb.get q).full then 0 else 1)
  | .mailboxFull q => !(f == 1 && c.defaultCourier) && ((c.mb.get q).full || (c.courierNext.isSome && c.mailEmpty))
  | .inbox => !c.inEn || decide (c.woken f sh w < c.inCount)
  | .treeIn => decide (c.treeIn.length < 4)
  | .treeOut => !c.treeOut.isEmpty
  | .collective => decide (collsOn s (dieOf L) < 16)
  | .cycle t => decide (t ≤ s.cycleOf L)
  | .retire =>
    match (c.fib f).task.bind c.task? with
    | none => true
    | some t => !taskPending c t && (t.holds.any (holdPoisoned s) || mayRetire s (s.ctxNum L) L t)
  | .entry => (takeEntry s L 0).isSome
  | .channel => channelFree s L
  | .stepBoundary => !(s.ctx (s.ctxNum L)).cutting

/-- Waits that are served in the order in which they began (R190, R376, R386). -/
def Wait.ordered : Wait → Bool
  | .mailboxEmpty _ | .inbox | .engine .. => true
  | _ => false

/-- A plane's wait began before another's: ties go to the lower fibre number, and to the main plane. -/
def Waiter.before (p q : Waiter) : Bool :=
  decide (p.since < q.since) || (p.since == q.since && (decide (p.fibre < q.fibre) || (p.fibre == q.fibre && !p.shadow && q.shadow)))

/-- No plane of the core that waits in the line began earlier. -/
def firstWaiter (c : Core) (f : Nat) (sh : Bool) (w : Wait) : Bool :=
  (c.planes.find? fun p => p.fibre == f && p.shadow == sh).any fun p => !c.planes.any fun q => c.inLine w q && q.before p

/-- The fibre, on its main plane, can be woken. -/
def canWake (s : State) (L f : Nat) : Bool :=
  let c := s.core L
  match (c.fib f).status with
  | .waiting w => waitDone s L f false w && (!w.ordered || firstWaiter c f false w)
  | _ => false

/-- The handler on the shadow plane can be woken. -/
def canWakeShadow (s : State) (L : Nat) : Bool :=
  let c := s.core L
  match c.handler, c.shadowSt with
  | some _, .waiting w => waitDone s L 0 true w && (!w.ordered || firstWaiter c 0 true w)
  | _, _ => false

/-- WAIT_WAKE. -/
def execWaitWake (s : State) : Host.Outcome State Fault Refusal :=
  .next (match s.ev with
    | .waitWake L f =>
      let ended (st : Status) (old : Option Wait) : Option Wait :=
        if st.keepsWake then old else match st with | .waiting w => if w.ordered then some w else none | _ => none
      if f = 0 ∧ canWakeShadow s L then s.modCore L fun c => { c with shadowSt := .ready, shadowWake := ended c.shadowSt c.shadowWake }
      else if canWake s L f.toNat then
        s.modCore L fun c => c.modFib f.toNat fun x =>
          { x with status := .ready, since := s.cycleOf L, wake := ended x.status x.wake }
      else s
    | _ => s)

/-! ## Slots (R181, R183, R206, R207) -/

/-- A fibre outside the slots is ready to enter one: ready, or with an instruction paused in an engine. -/
def Core.goesOn (c : Core) (f : Nat) (x : Fibre) : Bool :=
  x.status == .ready || (x.status == .waiting .running && c.pausedFibre f)

/-- A fibre of the run queue is ready to enter a slot. -/
def Core.queued (c : Core) (f : Nat) (x : Fibre) : Bool := decide (2 ≤ f) && !x.spilled && (c.slotOf f).isNone && c.goesOn f x

/-- The order of R183: priority, then the earliest ready, then the lower number. -/
def fibreBefore (f : Nat) (x : Fibre) (g : Nat) (y : Fibre) : Bool :=
  if x.prio ≠ y.prio then decide (y.prio.toNat < x.prio.toNat)
  else if x.since ≠ y.since then decide (x.since < y.since) else decide (f < g)

/-- The fibre that takes the next free slot. -/
def Core.nextFibre (c : Core) : Option Nat :=
  (c.fibres.foldl (init := (none : Option (Nat × Fibre))) fun b (f, x) =>
    if !c.queued f x then b
    else match b with
      | none => some (f, x)
      | some (g, y) => if fibreBefore f x g y then some (f, x) else b).map (·.1)

/-- The lowest free worker slot, as an index 0–5. -/
def Core.freeWorker (c : Core) : Option Nat := (List.range 6).find? fun i => c.slots.getD i none == none

/-- SLOT_FILL. -/
def execSlotFill (s : State) : Host.Outcome State Fault Refusal :=
  .next (match s.ev with
    | .slotFill L =>
      let c := s.core L
      match c.held, c.freeWorker, c.nextFibre with
      | false, some i, some f =>
        s.setCore L ({ c with
          slots := c.slots.setIfInBounds i (some f)
          tasks := c.tasks.map fun (t : Task) => { t with ran := t.ran || t.fibre == some f } }.modFib f fun x => { x with quantum := 0 })
      | _, _, _ => s
    | _ => s)

/-- FIBRE_REFILL: a spilled fibre that is ready returns to an entry; a refill that fails is fatal (R184). -/
def execFibreRefill (s : State) : Host.Outcome State Fault Refusal :=
  .next (match s.ev with
    | .fibreRefill L f =>
      let x := (s.core L).fib f.toNat
      if !x.spilled || x.status != .ready then s
      else match takeEntry s L 0 with
        | none => s
        | some s =>
          match readVa s (s.engineOf L) (spillAddr s L f.toNat) 224 with
          | .ok (b, false) => s.modCore L fun c => c.modFib f.toNat (·.load b)
          | _ => s.fatal L 0x173
    | _ => s)

/-- Vacates a worker slot (R207): an instruction in an engine pauses in place, and one that the engine was about to take loses its turn. -/
def vacate (s : State) (L f : Nat) (reason : Cause) : State :=
  (s.modCore L fun c =>
    ((pauseFibre c f).freeSlot f).modFib f fun x =>
      let goesOn := match x.status with | .waiting .running | .ready | .writeback => true | _ => false
      { x with quantum := 0, reason := if goesOn then reason else x.reason, since := if goesOn then s.cycleOf L else x.since
               wake := x.wake.filter fun w => match w with | .engine .. => false | _ => true }).dropOps L

/-- The fibre of a worker slot that pre-emption may vacate: one held at a match point stays in its slot (R300). -/
def Core.vacatable (c : Core) (i : Nat) : Option Nat := (c.slots.getD i none).filter fun f => (c.fib f).status != .matched

/-- The worker slot of lowest effective priority, ties to the higher number: slot and fibre (R206). -/
def Core.lowestSlot (c : Core) : Option (Nat × Nat) :=
  (List.range 6).foldl (init := none) fun b i =>
    match c.vacatable i, b with
    | none, _ => b
    | some f, none => some (i + 1, f)
    | some f, some (_, g) => if (c.fib f).prio.toNat ≤ (c.fib g).prio.toNat then some (i + 1, f) else b

/-- The fibre that a priority pre-emption vacates. -/
def Core.outranked (c : Core) : Option Nat :=
  match c.freeWorker, c.nextFibre, c.lowestSlot with
  | none, some f, some (_, g) =>
    if c.preempt.getLsbD 8 && decide ((c.fib g).prio.toNat < (c.fib f).prio.toNat) && !c.held then some g else none
  | _, _, _ => none

/-- PREEMPT_PRIORITY. -/
def execPreemptPriority (s : State) : Host.Outcome State Fault Refusal :=
  .next (match s.ev with
    | .preemptPriority L => match (s.core L).outranked with | some f => vacate s L f 0x154 | none => s
    | _ => s)

/-- The fibre of a worker slot whose quantum is over, with a ready fibre of its priority or above waiting. -/
def Core.overQuantum (c : Core) (slot : Nat) : Option Nat :=
  let q := (c.preempt.extractLsb' 0 8).toNat
  match c.inSlot slot, c.nextFibre with
  | some f, some g =>
    if 1 ≤ slot ∧ slot ≤ 6 ∧ q ≠ 0 ∧ q * 64 ≤ (c.fib f).quantum ∧ (c.fib f).prio.toNat ≤ (c.fib g).prio.toNat ∧ !c.held ∧ (c.fib f).status ≠ .matched then some f
    else none
  | _, _ => none

/-- PREEMPT_QUANTUM. -/
def execPreemptQuantum (s : State) : Host.Outcome State Fault Refusal :=
  .next (match s.ev with
    | .preemptQuantum L slot => match (s.core L).overQuantum slot.val with | some f => vacate s L f 0x155 | none => s
    | _ => s)

/-! ## Writebacks (R186, R348) -/

/-- The writebacks of the cycles before the present one, in the order of their effect: by cycle, then by slot. A read of the
writeback cycle itself still returns the old value (R186). -/
def Core.dueWb (c : Core) (now : Nat) : List Writeback :=
  (c.wb.filter (·.due < now)).foldl
    (fun l w => insertBy (fun a b => decide (a.due < b.due) || (a.due == b.due && decide (a.slot < b.slot))) w l) []

/-- A plane whose last writeback is done is ready again. -/
def Core.wbReady (c : Core) (w : Writeback) : Core :=
  if c.wb.any fun v => v.fibre == w.fibre && v.shadow == w.shadow then c
  else if w.shadow then (if c.shadowSt = .writeback then { c with shadowSt := .ready } else c)
  else if (c.fib w.fibre).status = .writeback then c.modFib w.fibre fun x => { x with status := .ready }
  else c

/-- REGISTER_WRITEBACK: of the writes of one cycle to one register, that of the higher slot stays (R186). -/
def execRegisterWriteback (s : State) : Host.Outcome State Fault Refusal :=
  .next (match s.ev with
    | .registerWriteback L =>
      s.modCore L fun c =>
        let l := c.dueWb (s.cycleOf L)
        let regs := l.foldl (fun r w => r.set w.reg w.value) c.s
        l.foldl Core.wbReady { c with s := regs, wb := c.wb.filter fun w => !decide (w.due < s.cycleOf L) }
    | _ => s)

/-! ## Urgent delivery (R189) -/

/-- The event that delivery would take: the lowest pending enabled bit. -/
def Core.urgentEvent (c : Core) : Option Nat :=
  let p := c.upend &&& (c.uctl >>> 1)
  if c.uctl.getLsbD 0 then (List.range 4).find? fun i => p.getLsbD i else none

/-- The urgent fibre stands where delivery may take place: idle, at an instruction boundary, in a wait that delivery abandons, or
in an access that is bound: a load is abandoned, and any other access completes with the delivery (R189). An atomic or LR that is
queued at its home, and an APPEND or MMRC without its status, come first. -/
def Core.deliverable (c : Core) : Bool :=
  c.handler.isNone && !c.held &&
    match (c.fib 0).status with
    | .ready => true
    | .waiting (.reservation _) | .waiting .status | .waiting .running => c.idle
    | .waiting _ => true
    | .parked | .writeback | .matched => c.idle

/-- The PC that names a load in flight, or the fibre's own. -/
def Fibre.resumePc (x : Fibre) : VAddr := match x.pend with | some p => if p.load then p.pc else x.pc | none => x.pc

/-- Completes an access of the urgent fibre that is bound and is no load, before a delivery (R189). -/
def completeUrgent (s : State) (L : Nat) : State :=
  let x := (s.core L).fib 0
  match x.status, x.pend with
  | .waiting .access, some p => if p.load then s else completeAccess s L 0 false p
  | _, _ => s

/-- URGENT_DELIVERY. -/
def execUrgentDelivery (s : State) : Host.Outcome State Fault Refusal :=
  .next (match s.ev with
    | .urgentDelivery L =>
      match (s.core L).deliverable && (s.ctxOfCore L).isSome, (s.core L).urgentEvent with
      | true, some k =>
        let s := completeUrgent s L
        let c := s.core L
        let x := c.fib 0
        let c' : Core :=
          { c with uepc := fields [(x.resumePc.toNat, 0), (c.idle.toNat, 56), (k, 57)], uefl := x.flags
                   uctl := c.uctl &&& ~~~1#64, idle := false }
        s.setCore L (c'.modFib 0 fun x => { x with pc := c.uvec.setWidth 56, status := .ready, pend := none, wake := none, noBreak := false })
      | _, _ => s
    | _ => s)

/-! ## Rotations (R296–R298) -/

/-- A wait on a load, LR or atomic. -/
def Wait.memory : Wait → Bool
  | .access | .reservation _ | .status | .port .. => true
  | _ => false

/-- A wait of the other rows of R182. -/
def Wait.message : Wait → Bool
  | .written | .ringFilled _ _ | .ringFree _ _ | .slots _ _ | .tags _ | .counter _ _ | .barrier _ | .mailboxEmpty _ | .mailboxFull _
  | .inbox | .treeIn | .treeOut | .collective | .cycle _ | .retire | .entry | .accumulator _ => true
  | _ => false

/-- A status is a wait of a kind. -/
def Status.isWait (p : Wait → Bool) : Status → Bool
  | .waiting w => p w
  | _ => false

/-- The class that the present cycle gives a slot in which nothing issues (R296). Spilled fibres are not in the run queue (R181); one
outside the slots whose instruction runs in an engine waits as for a load (R400). -/
def Core.slotNow (c : Core) (slot : Nat) : Nat :=
  let of (st : Status) : Nat := if st.isWait Wait.memory then 1 else if st.isWait Wait.message then 2 else 3
  let inQueue (p : Nat → Fibre → Bool) : Bool := c.fibres.any fun (f, x) => decide (2 ≤ f) && !x.spilled && (c.slotOf f).isNone && p f x
  if slot = 0 then (if c.handler.isSome then of c.shadowSt else if c.idle then 3 else of (c.fib 0).status)
  else match c.inSlot slot with
    | some f => of (c.fib f).status
    | none =>
      if inQueue c.goesOn then 3
      else if inQueue fun _ x => x.status.isWait Wait.memory || x.status == .waiting .running then 1
      else if inQueue fun _ x => x.status.isWait Wait.message then 2
      else 3

/-- The lowest class that a slot has had in the cycles of the rotation that have ended. -/
def Core.seenClass (c : Core) (slot : Nat) : Nat := (c.seen.extractLsb' (2 * slot) 2).toNat

/-- The eight classes as one word, two bits each. -/
def classWord (l : List Nat) : BitVec 16 := BitVec.ofNat 16 ((l.zipIdx).foldl (fun n (k, i) => n + k * 4 ^ i) 0)

/-- A cycle of the rotation ends: what its slots hold counts (R296). -/
def Core.sampled (c : Core) : Core := { c with seen := classWord ((List.range 8).map fun i => min (c.seenClass i) (c.slotNow i)) }

/-- The class of a slot at the end of a rotation (R296). -/
def Core.slotClass (c : Core) (slot : Nat) : Nat := if c.issued.getLsbD slot then 0 else c.seenClass slot

/-- Ready fibres of the core, resident or in the run queue (R297); a throttled die has none in its slots (R42, R178). -/
def Core.readyCount (c : Core) (now : Nat) (throttled : Bool) : Nat :=
  (c.fibres.filter fun (f, x) =>
    match c.slotOf f with
    | some i => !throttled && c.slotReady now i
    | none => c.queued f x).length

/-- The bucket of R297. -/
def readyBucket (n : Nat) : Nat := if n < 8 then n else if n < 16 then 8 else 9

/-- One added to a saturating counter of an array. -/
def satUp (m : Sparse Word) (i : Nat) : Sparse Word :=
  let v := spGet m i 0
  spPut m i (if v = BitVec.allOnes 64 then v else v + 1)

/-- The lowest slot that holds a ready fibre of a core that no stop, halt or fence holds (R117, R291). -/
def Core.pickable (c : Core) (now : Nat) : Option Nat := if c.held then none else (List.range 8).find? (c.slotReady now)

/-- The counters after a rotation. -/
def Core.countRotation (c : Core) (classes : List Nat) (ready : Nat) : Core :=
  let c := if c.pfClr then { c with sc := [], rdyh := [], pfClr := false } else c
  if c.pfRun && !c.stopped && !c.halted then
    { c with sc := (classes.zipIdx).foldl (fun m (k, i) => satUp m (4 * i + k)) c.sc, rdyh := satUp c.rdyh (readyBucket ready) }
  else c

/-- ROTATION_END. -/
def execRotationEnd (s : State) : Host.Outcome State Fault Refusal :=
  .next (match s.ev with
    | .rotationEnd L =>
      s.modCore L fun c =>
        let classes := (List.range 8).map c.slotClass
        { c.countRotation classes (c.readyCount (s.cycleOf L) (s.die (dieOf L)).throttled) with
          issued := 0, wdSince := if c.issued != 0 || (c.pickable (s.cycleOf L)).isNone then s.cycleOf L else c.wdSince
          lastClass := classWord classes, seen := 0xFFFF }
    | _ => s)

/-- CORE_PFCTL_CLR: the counters clear at the end of the rotation. -/
def execCorePfctlClr (s : State) : Host.Outcome State Fault Refusal :=
  .next (match s.hostEv with | .corePfctlClr L => s.modCore L fun c => { c with pfClr := true } | _ => s)

/-! ## Host writes of CORE_ registers -/

/-- A host write of a whole CORE_ register; one that R256 makes wait is kept until the table's users are done, and
CORE_TREE of a core with a round incomplete stays (R70). -/
def hostWriteCore (s : State) (L reg idx : Nat) (v mask : Word) : State :=
  if reg = 5 ∧ treeBusy s L then s
  else if reg = 15 then
    let c := s.core L
    let c := if writes1 v mask 4 then { c with dtErr := false } else c
    let c := if writes1 v mask 14 then c.dtHost false none else c
    s.setCore L (if writes1 v mask 15 then c.dtHost true none else c)
  else if reg = 16 ∨ reg = 17 then s.modCore L fun c => c.dtHost (reg == 17) (some (BitVec.ofNat 8 idx, v, mask))
  else writeCore s L none reg idx v mask

/-- A write of all bits. -/
def allBits : Word := BitVec.allOnes 64

def execCoreUpendWrite (s : State) : Host.Outcome State Fault Refusal :=
  .next (match s.hostEv with | .coreUpendWrite L v => hostWriteCore s L 9 0 v allBits | _ => s)
def execCoreTreeWrite (s : State) : Host.Outcome State Fault Refusal :=
  .next (match s.hostEv with | .coreTreeWrite L v => hostWriteCore s L 5 0 v allBits | _ => s)
def execCoreSplitWrite (s : State) : Host.Outcome State Fault Refusal :=
  .next (match s.hostEv with | .coreSplitWrite L v => hostWriteCore s L 0 0 v allBits | _ => s)
def execCoreCourierWrite (s : State) : Host.Outcome State Fault Refusal :=
  .next (match s.hostEv with | .coreCourierWrite L v => hostWriteCore s L 14 0 v allBits | _ => s)
def execCoreInboxWrite (s : State) : Host.Outcome State Fault Refusal :=
  .next (match s.hostEv with | .coreInboxWrite L v => hostWriteCore s L 33 0 v allBits | _ => s)

/-! ## Traps as events (R277) -/

/-- TRAP: the fibre that issues from a slot traps at the instruction of the latch, or at its next one. -/
def execTrap (s : State) : Host.Outcome State Fault Refusal :=
  .next (match s.ev with
    | .trap L slot cause eng addr aux =>
      let c := s.core L
      let i := if s.cur.core = L.val ∧ s.cur.slot = slot.val then s.cur else chainIssue s L slot.val
      let st := if c.shadow slot.val then c.shadowSt else ((c.inSlot slot.val).map fun f => (c.fib f).status).getD .parked
      if st = .parked ∨ (slot.val = 0 ∧ c.handler.isNone ∧ c.idle) then s else takeTrap s i cause addr aux eng false
    | _ => s)

end Sys2Proof.Machine
end

