-- ==== Sys2Proof/Machine/Tasks.lean ====
section
/-! DEFINITION. Dispatch, footprint fetches, stealing and balancing as events (spec/05_scheduler.md R142, R147–R151;
spec/08_memory_hierarchy.md R226).
Log entries: 26 (DEDUCED and DESIGN CHOICE). -/

namespace Sys2Proof.Machine

/-- The context whose scheduler serves a core: none while the core or its context is stopped. -/
def taskCtx (s : State) (L : Nat) : Option Nat :=
  match s.ctxOfCore L with
  | some c => if (s.core L).held || (s.ctx c).stopped || (s.ctx c).stopping then none else some c
  | none => none

/-- TASK_DISPATCH: one dispatch of a core, traced where a task is pinned (R147, R307). -/
def execTaskDispatch (s : State) : Host.Outcome State Fault Refusal :=
  .next (match s.ev with
    | .taskDispatch L =>
      match taskCtx s L with
      | none => s
      | some c =>
        let fetching (s : State) : List VAddr := ((s.core L).tasks.filter (·.phase == .fetching)).map (·.recAddr)
        let s' := dispatch s c L
        match (fetching s').find? fun r => !(fetching s).contains r with
        | some r => s'.trace L 0 6 0 r.toNat
        | none => s'
    | _ => s)

/-- The fetch of a core's task, if one is under way. -/
def fetchTask (s : State) (L : Nat) (r : VAddr) : Option State :=
  match (s.core L).task? r, s.ctxOfCore L with
  | some t, some c => if t.phase = .fetching ∧ !enginesHeld s L then some (fetchFootprint s c L t) else none
  | _, _ => none

/-- A task waits for a repaired mapping with its pins held. -/
def isFaulted (s : State) (L : Nat) (r : VAddr) : Bool := match (s.core L).task? r with | some t => t.phase == .faulted | none => false

/-- FOOTPRINT_FETCH_DONE. -/
def execFootprintFetchDone (s : State) : Host.Outcome State Fault Refusal :=
  .next (match s.ev with
    | .footprintFetchDone L r => match fetchTask s L r with | some s' => if isFaulted s' L r then s else s' | none => s
    | _ => s)

/-- FOOTPRINT_FETCH_FAULT. -/
def execFootprintFetchFault (s : State) : Host.Outcome State Fault Refusal :=
  .next (match s.ev with
    | .footprintFetchFault L r => match fetchTask s L r with | some s' => if isFaulted s' L r then s' else s | none => s
    | _ => s)

/-! ## Stealing (R151) -/

/-- Some deque of the core holds an entry. -/
def Core.hasEntries (c : Core) : Bool := c.deques.toList.any (!·.isEmpty)

/-- STEAL_ANNOUNCE: idle cores of the die try again. -/
def execStealAnnounce (s : State) : Host.Outcome State Fault Refusal :=
  .next (match s.ev with
    | .stealAnnounce L =>
      let s := s.modCore L fun c => { c with announced := c.hasEntries }
      { s with cores := s.cores.map fun (M, c) => if dieOf M = dieOf L then (M, { c with stealTried := [] }) else (M, c) }
    | _ => s)

/-- A core is idle. -/
def Core.idleCore (c : Core) : Bool :=
  c.slots.toList.all (·.isNone) && c.fibres.all fun (f, x) => f < 2 || !(x.status == .ready)

/-- Distance of two cores of a die. -/
def meshDist (a b : Nat) : Nat :=
  (max (rowOf a) (rowOf b) - min (rowOf a) (rowOf b)) + (max (colOf a) (colOf b) - min (colOf a) (colOf b))

/-- The victims of a thief, in the order in which it asks them. -/
def victims (s : State) (c thief : Nat) : List Nat :=
  let l := (s.cores.filter fun (M, k) => k.announced && dieOf M == dieOf thief && M != thief && (s.ctx c).owns (clusterOf M)).map (·.1)
  l.foldl (fun a x => insertBy (fun y z => decide (meshDist thief y < meshDist thief z) || (meshDist thief y == meshDist thief z && decide (y < z))) x a) []

/-- The victim that a thief asks next. -/
def nextVictim (s : State) (thief : Nat) : Option Nat :=
  match taskCtx s thief with
  | none => none
  | some c =>
    let k := s.core thief
    if !k.idleCore || k.stealIn.isSome then none else (victims s c thief).find? fun v => !k.stealTried.contains v

/-- STEAL_REQUEST: the victim removes its first entry whose charges fit the free bytes that the request states, and replies. -/
def execStealRequest (s : State) : Host.Outcome State Fault Refusal :=
  .next (match s.ev with
    | .stealRequest thief victim =>
      if nextVictim s thief ≠ some victim.val then s
      else
        let c := s.ctxNum thief
        let e := ((s.core victim).order true).find? fun x => chargesFit s c thief (queuedFootprint s c victim x.2.2.recAddr)
        let s := s.modCore thief fun k => { k with stealIn := some (e.map (·.2.2)), stealTried := k.stealTried ++ [victim.val] }
        match e with
        | some (p, _, e) => spillAll (s.modCore victim fun k => k.removeEntry p e.recAddr) victim
        | none => s
    | _ => s)

/-- STEAL_REPLY. -/
def execStealReply (s : State) : Host.Outcome State Fault Refusal :=
  .next (match s.ev with
    | .stealReply thief =>
      match (s.core thief).stealIn with
      | none => s
      | some none => s.modCore thief fun k => { k with stealIn := none }
      | some (some e) => spillAll (s.modCore thief fun k => { k with stealIn := none, stealTried := [] }.pushBottom e) thief
    | _ => s)

/-! ## Balancing (R148, R151) -/

/-- The neighbours of a core on the die mesh that its context owns, north, east, south, west. -/
def neighbours (s : State) (c L : Nat) : List Nat :=
  let d := dieOf L; let r := rowOf L; let k := colOf L
  let l := (if 0 < r then [leaf d (r - 1) k] else []) ++ (if k < 47 then [leaf d r (k + 1)] else [])
    ++ (if r < 15 then [leaf d (r + 1) k] else []) ++ (if 0 < k then [leaf d r (k - 1)] else [])
  l.filter fun M => (s.ctx c).owns (clusterOf M)

/-- The neighbour with the smallest depth of a deque, the first of equals. -/
def shallowest (s : State) (p : Nat) (l : List Nat) : Option Nat :=
  l.foldl (init := none) fun b M =>
    match b with
    | none => some M
    | some m => if ((s.core M).dq p).length < ((s.core m).dq p).length then some M else b

/-- Balances one deque of a core. -/
def balanceDeque (s : State) (c L p : Nat) : State :=
  let k := s.core L
  let thr := (k.bal.extractLsb' 0 8).toNat
  match shallowest s p (neighbours s c L), (k.dq p).getLast? with
  | some m, some e =>
    if thr ≠ 0 ∧ ((s.core m).dq p).length + thr < (k.dq p).length then
      (s.modCore L fun k => k.removeEntry p e.recAddr).modCore m fun k => { k with balIn := k.balIn ++ [e] }
    else s
  | _, _ => s

/-- Fails the queued entries that no core of the context could hold (R148). -/
def dropOversize (s : State) (c L : Nat) (l : List (Nat × Nat × DqEntry)) : State :=
  match l with
  | [] => s
  | (p, _, e) :: r =>
    let s := if !holdable s c (queuedFootprint s c L e.recAddr) then
        workOff (s.modCore L fun k => k.removeEntry p e.recAddr) c L [.fail (s.launchOf e.recAddr) e.recAddr 0x104 none] todoFuel
      else s
    dropOversize s c L r

/-- BALANCE_STEP. A thief that has asked every victim tries again with the period's depths. -/
def execBalanceStep (s : State) : Host.Outcome State Fault Refusal :=
  .next (match s.ev with
    | .balanceStep L =>
      match taskCtx s L with
      | none => s
      | some c =>
        let s := dropOversize s c L (s.core L).entries
        let s := [3, 2, 1, 0].foldl (fun s p => balanceDeque s c L p) s
        spillAll (s.modCore L fun k => { k with stealTried := [] }) L
    | _ => s)

/-- BALANCE_ENTRY_ARRIVE. -/
def execBalanceEntryArrive (s : State) : Host.Outcome State Fault Refusal :=
  .next (match s.ev with
    | .balanceEntryArrive L =>
      match (s.core L).balIn with
      | [] => s
      | e :: r => spillAll (s.modCore L fun k => { k with balIn := r }.pushTop e.prio.toNat e) L
    | _ => s)

end Sys2Proof.Machine
end

