-- ==== Sys2Proof/Machine/Queues.lean ====
section
/-! DEFINITION. Submission, completion and fault queues (spec/03_host_interface.md R83–R94, R102) and the CTX_ registers
that software sets (R81, R121, R126, R129, R157, R184, R219, R224, R282).
Log entries: 18, 38 (DEDUCED and DESIGN CHOICE); 1 (DESIGN CHOICE). -/

namespace Sys2Proof.Machine

/-! ## Access halves (R77) -/

/-- The bits of a slot that an access covers. -/
def Lane.mask : Lane → Word
  | .low => 0xFFFFFFFF
  | .high => 0xFFFFFFFF00000000
  | .both => BitVec.allOnes 64

/-! ## Packets (R87–R94) -/

def Ctx.sq (x : Ctx) (q : Nat) : SubQ := spGet x.sqs q {}
def Ctx.cq (x : Ctx) (q : Nat) : CompQ := spGet x.cqs q {}
def State.modSq (s : State) (c q : Nat) (f : SubQ → SubQ) : State :=
  s.modCtx c fun x => { x with sqs := spPut x.sqs q (f (x.sq q)) }

def Ctx.packet? (x : Ctx) (i : Nat) : Option Packet := x.packets.find? (·.id == i)
def State.setPacket (s : State) (c : Nat) (p : Packet) : State :=
  s.modCtx c fun x => { x with packets := x.packets.map fun y => if y.id = p.id then p else y }

/-- A body word: bytes [8i + 15 : 8i + 8] of the packet. -/
def Packet.w (p : Packet) (i : Nat) : Word := p.body.toList.getD i 0

/-- The device address that a body word holds. -/
def Packet.va (p : Packet) (i : Nat) : VAddr := (p.w i).setWidth 56

/-- Writes a packet's entry: none for an OK packet with QUIET (R87, R92). -/
def pktEntry (s : State) (c : Nat) (p : Packet) (status : Nat) (cause : Cause) (result : Nat) : State :=
  if p.quiet && status == 0 then s
  else
    let cq := ((s.ctx c).sq p.q).cq.toNat
    s.cqSend c cq (compEntry p.stamp.toNat p.kind.toNat status cause.toNat p.q p.tag.toNat result)

/-- LAUNCH, MAP, BOOK and CHECKPOINT: checks of R95, R99, R100 and R101 that make such a packet INVALID look at memory, and are made
when the packet may issue (DEDUCED, log entry 18). -/
def Packet.late (p : Packet) : Bool := p.kind == 1 || p.kind == 5 || p.kind == 6 || p.kind == 7

/-- HEAD and SEQ move past the packet at HEAD (R89). -/
def passHead (s : State) (c q : Nat) : State := s.modSq c q fun y => { y with head := y.head + 1, seq := y.seq + 1, tries := 0 }

/-- Completes a packet. One that HEAD still names, having waited for its checks, is passed. -/
def pktDone (s : State) (c : Nat) (p : Packet) (status : Nat) (cause : Cause) (result : Nat) : State :=
  let s := (pktEntry s c p status cause result).modCtx c fun x => { x with packets := x.packets.filter (·.id != p.id) }
  if p.late && !p.issued then passHead s c p.q else s

/-- Halts a queue with HEAD at the packet that it read last: RESUME reads it again (R90, R98). -/
def haltBefore (s : State) (c q : Nat) : State :=
  s.modSq c q fun y => { y with halt := true, head := y.head - 1, seq := y.seq - 1, tries := 0 }

/-- A packet that a check at issue finds malformed (R89, R93): in the one step HEAD stays at it. -/
def pktInvalid (s : State) (c : Nat) (p : Packet) (cause : Cause) (result : Nat) : State :=
  haltBefore (pktDone s c p 2 cause result) c p.q

/-- Completes a packet as its steps ended: STATUS 2 halts its queue. -/
def pktFail (s : State) (c : Nat) (p : Packet) (f : Nat × Cause × Nat) : State :=
  if f.1 = 2 then pktInvalid s c p f.2.1 f.2.2 else pktDone s c p f.1 f.2.1 f.2.2

/-- The event of a packet's kind. -/
def pktEvent (c : Nat) (p : Packet) : Option Event :=
  if h : c < 48 then
    let c' : Fin 48 := ⟨c, h⟩
    match p.kind.toNat with
    | 1 => some (.launchPacket c' p.id)
    | 2 => some (.copyPacket c' p.id)
    | 3 => some (.signalPacket c' p.id)
    | 4 => some (.waitPacket c' p.id)
    | 5 => some (.mapPacket c' p.id)
    | 6 => some (.bookPacket c' p.id none)
    | 7 => some (.checkpointPacket c' p.id)
    | 8 => some (.restorePacket c' p.id)
    | _ => none
  else none

/-- A packet may issue (R91, R94, R130): ORDER, SIGNAL, CHECKPOINT and RESTORE wait for every earlier packet of their
queue, LAUNCH for the cut of a checkpoint, CHECKPOINT and RESTORE for an earlier one. -/
def canIssue (s : State) (c : Nat) (p : Packet) : Bool :=
  let x := s.ctx c
  let kind := p.kind.toNat
  let earlier := x.packets.any fun y => y.q == p.q && decide (y.id < p.id)
  !p.issued && !(earlier && (p.order || kind == 3 || kind == 7 || kind == 8)) && decide ((x.cq (x.sq p.q).cq.toNat).held.length < 64)
    && !(kind == 1 && x.cutting) && !((kind == 7 || kind == 8) && (x.ckpt.isSome || x.drain.isSome))

/-- The packet of an event, where it issues now: the state with it issued. HEAD and SEQ move with a packet whose checks look at memory,
and moved with any other as it was read (R89). -/
def issuing (s : State) (c i kind : Nat) : Option (State × Packet) :=
  match (s.ctx c).packet? i with
  | some p =>
    if p.kind.toNat = kind ∧ canIssue s c p then
      let p' := { p with issued := true }
      some (if p.late then passHead (s.setPacket c p') c p.q else s.setPacket c p', p')
    else none
  | none => none

/-- A packet of an event that has issued. -/
def running (s : State) (c i kind : Nat) : Option Packet :=
  ((s.ctx c).packet? i).filter fun p => p.issued && p.kind.toNat == kind

/-! ## Reading a queue (R88, R89) -/

/-- Reserved bytes of a body: from byte `lo` of the body on. -/
def zeroFrom (p : Packet) (lo : Nat) : Bool := ((p.body.toList.flatMap fun w => leBytes 8 w.toNat).drop lo).all (· == 0)

/-- A byte range of the body as a number. -/
def Packet.num (p : Packet) (o n : Nat) : Nat := leNat (((p.body.toList.flatMap fun w => leBytes 8 w.toNat).drop o).take n)

/-- The fields of a body that are outside their ranges, or reserved and not zero (R95–R101). -/
def bodyOk (p : Packet) : Bool :=
  let va (i : Nat) : Bool := decide ((p.w i).toNat < 2 ^ 56)
  match p.kind.toNat with
  | 1 => va 0 && p.num 0 8 % 64 == 0 && decide (1 ≤ p.num 8 4) && decide (p.num 8 4 ≤ 2 ^ 20) && p.num 12 4 == 0 && va 2
      && p.num 16 8 % 4 == 0 && zeroFrom p 24
  | 2 => (p.num 24 1 % 2 == 1 || va 0) && (p.num 24 1 / 2 % 2 == 1 || va 1) && decide (1 ≤ p.num 16 8) && decide (p.num 16 8 ≤ 2 ^ 40)
      && decide (p.num 24 1 < 4) && zeroFrom p 25
  | 3 => (p.num 12 1 / 2 % 2 == 1 || va 0) && p.num 0 8 % 4 == 0 && decide (p.num 12 1 < 4) && zeroFrom p 13
  | 4 => va 0 && p.num 0 8 % 4 == 0 && zeroFrom p 16
  | 5 => va 0 && decide (1 ≤ p.num 8 4) && decide (p.num 8 4 ≤ 2 ^ 20) && decide (p.num 12 1 < 8) && p.num 13 3 == 0
      && p.num 0 8 % (2 ^ [12, 16, 21, 30].getD (p.num 12 1 % 4) 12) == 0 && zeroFrom p 24
  | 6 => va 0 && decide (1 ≤ p.num 8 2) && decide (p.num 8 2 ≤ 1024) && decide (p.num 10 1 < 8) && decide (p.num 11 1 < 2) && zeroFrom p 12
  | 7 => va 1 && decide (p.num 24 1 < 2) && zeroFrom p 25
  | 8 => va 1 && p.num 24 8 == 0 && p.num 40 8 == 0
  | _ => false

/-- Why a body that R95 to R98 refuse by itself is malformed: fields out of range, a copy from host to host, a copy onto itself, an
addition to host memory (R89). -/
def bodyCause (p : Packet) : Option Cause :=
  let kind := p.kind.toNat
  let flags := p.num 24 1
  if !bodyOk p then some 0x160
  else if kind = 2 ∧ flags = 3 then some 0x164
  else if kind = 2 ∧ flags = 0 ∧ overlap (p.va 0) (p.num 16 8) (p.va 1) (p.num 16 8) then some 0x165
  else if kind = 3 ∧ p.num 12 1 = 2 then some 0x166
  else none

/-- A packet's 64 bytes, split (R87); the reserved-field check of its header beside it. -/
def packetOf (b : List Byte) (id q : Nat) : Packet × Bool :=
  let h := leNat (b.take 8)
  let body : Vector Word 6 := Vector.ofFn fun i => BitVec.ofNat 64 (leNat ((b.drop (8 + 8 * i.val)).take 8))
  let p : Packet :=
    { id, q, stamp := BitVec.ofNat 16 h, kind := BitVec.ofNat 8 (h / 2 ^ 16), order := h / 2 ^ 27 % 2 == 1, quiet := h / 2 ^ 28 % 2 == 1,
      tag := BitVec.ofNat 32 (h / 2 ^ 32), body }
  (p, decide (1 ≤ p.kind.toNat) && decide (p.kind.toNat ≤ 8) && h / 2 ^ 24 % 8 == 1 && h / 2 ^ 29 % 8 == 0
    && leNat (b.drop 56) / 2 ^ 16 == 0)

/-- Bytes of host memory; its addresses run modulo 2^64. -/
def State.hostRead (s : State) (a n : Nat) : List Byte := s.bytes (hostKey (a % 2 ^ 64)) n
def State.hostWrite (s : State) (a : Nat) (bs : List Byte) : State := s.wr (hostKey (a % 2 ^ 64)) bs

/-- A queue reads its packet at HEAD: it is enabled, not halted, and no packet of it waits to issue, is a WAIT that is not satisfied, or
is a BOOK whose checks are not over (R89–R91). -/
def canRead (s : State) (c q : Nat) : Bool :=
  let x := s.ctx c
  let y := x.sq q
  y.en && !y.halt && y.head != y.tail && !(x.packets.any fun p => p.q == q && (!p.issued || p.kind == 4 || p.kind == 6))

/-- An entry of a queue that names no packet read: a kick-overrun has KIND 0 and no tag (R92). -/
def queueError (s : State) (c q kind tag status : Nat) (cause : Cause) : State :=
  let y := (s.ctx c).sq q
  let s := s.cqSend c y.cq.toNat (compEntry y.seq.toNat kind status cause.toNat q tag 0)
  s.modSq c q fun y => { y with halt := true, tries := 0 }

/-- One read of the packet at HEAD. The entry of a stale packet has KIND and USERTAG as they stand in the slot that was read, and that of
a host read error, which gave no packet, 0 in both (DESIGN CHOICE, log entry 18). -/
def readPacket (s : State) (c q : Nat) : State :=
  let y := (s.ctx c).sq q
  let b := s.hostRead (y.base.toNat / 4096 * 4096 + 64 * (y.head.toNat % 2 ^ y.log2.toNat)) 64
  let (p, ok) := packetOf b s.nextId q
  if p.stamp ≠ y.seq ∨ leNat ((b.drop 56).take 2) ≠ y.seq.toNat then
    if y.tries = 64 then queueError s c q p.kind.toNat p.tag.toNat 1 0x162
    else s.modSq c q fun y => { y with tries := y.tries + 1 }
  else match (if ok then bodyCause p else some 0x160) with
  | some cause => queueError s c q p.kind.toNat p.tag.toNat 2 cause
  | none =>
    let s := if p.late then s.modSq c q fun y => { y with tries := 0 } else passHead s c q
    let s := { s.modCtx c fun x => { x with packets := x.packets ++ [p] } with nextId := s.nextId + 1 }
    if canIssue s c p then (match pktEvent c p with | some e => s.raise e | none => s) else s

/-- SQ_PACKET_READ. `err`: the read ends in a PCIe error. -/
def execSqPacketRead (s : State) : Host.Outcome State Fault Refusal :=
  .next (match s.ev with
    | .sqPacketRead c q err =>
      if !canRead s c q then s
      else if err then queueError s c q 0 0 2 0x163
      else if ((s.ctx c).sq q).tries = 0 then readPacket s c q else s
    | _ => s)

/-- SQ_STAMP_RETRY. -/
def execSqStampRetry (s : State) : Host.Outcome State Fault Refusal :=
  .next (match s.ev with
    | .sqStampRetry c q => if canRead s c q && ((s.ctx c).sq q).tries != 0 then readPacket s c q else s
    | _ => s)

/-- The packet of a queue that waits to issue and now may. -/
def unblocked (s : State) (c q : Nat) : Option Packet := (s.ctx c).packets.find? fun p => p.q == q && canIssue s c p

/-- PACKET_ISSUE_UNBLOCK. -/
def execPacketIssueUnblock (s : State) : Host.Outcome State Fault Refusal :=
  .next (match s.ev with
    | .packetIssueUnblock c q =>
      match (unblocked s c q).bind (pktEvent c) with
      | some e => s.raise e
      | none => s
    | _ => s)

/-- KICK (R86): ignored unless it is a 4-byte write of an enabled queue's register. -/
def execKick (s : State) : Host.Outcome State Fault Refusal :=
  .next (match s.hostEv with
    | .kick off size v =>
      let c := off.toNat / 0x1000
      let q := off.toNat % 0x1000 / 64
      let y := (s.ctx c).sq q
      if size ≠ 4 ∨ off.toNat % 64 ≠ 0 ∨ 48 ≤ c ∨ !y.en then s
      else
        let s := s.modSq c q fun y => { y with tail := v }
        if !y.halt && decide (2 ^ y.log2.toNat < (v - y.head).toNat) then queueError s c q 0 0 2 0x161 else s
    | _ => s)

/-! ## Queue registers (R84, R85, R102) -/

/-- A write of CTX_SQCFG[q]. Enabling clears HALT; a packet that had been read and had not issued goes with EN. -/
def writeSq (s : State) (c q : Nat) (v mask : Word) : State :=
  let x := s.ctx c
  let y := x.sq q
  if y.en then
    let y := if writes1 v mask 2 then { y with halt := false, tries := 0 } else y
    if mask.getLsbD 0 && !v.getLsbD 0 then
      s.setCtx c { x with sqs := spPut x.sqs q { y with en := false, tries := 0 }
                          packets := x.packets.filter fun p => p.q != q || p.issued }
    else s.setCtx c { x with sqs := spPut x.sqs q y }
  else
    let w := merge y.cfg v mask (bitMask 10 3 ||| bitMask 63 16)
    let y : SubQ :=
      { y with cq := w.extractLsb' 3 4, log2 := w.extractLsb' 7 4, seq := w.extractLsb' 16 16, head := w.extractLsb' 32 32
               halt := y.halt && !writes1 v mask 2 }
    let y : SubQ :=
      if writes1 v mask 0 then
        if 3 ≤ y.log2.toNat ∧ (x.cq y.cq.toNat).en then { y with en := true, err := false, halt := false, tail := y.head, tries := 0 }
        else { y with err := true }
      else y
    s.setCtx c { x with sqs := spPut x.sqs q y }

/-- A write of CTX_CQCFG or CTX_FQCFG. One that sets EN and is rejected leaves the queue disabled, also where it was enabled (DESIGN
CHOICE, log entry 18). -/
def writeCq (y : CompQ) (v mask : Word) : CompQ :=
  let w := merge y.cfg v mask (bitMask 16 1)
  let z : CompQ := { y with log2 := w.extractLsb' 1 4, vec := w.extractLsb' 5 11, mask := w.getLsbD 16 }
  if !mask.getLsbD 0 then z
  else if !v.getLsbD 0 then { z with en := false }
  else if z.log2.toNat < 4 ∨ z.vec = 0 then { z with en := false, err := true }
  else { z with en := true, err := false, count := if y.en then y.count else y.head }

/-- Entries that waited go out while there is room. -/
def pumpCq (s : State) (c q : Nat) : State := s.cqPump c q ((s.ctx c).cq q).held
def pumpFq (s : State) (c : Nat) : State := s.fqPump c (s.ctx c).fqHeld

/-- A base register's address [63:12]. -/
def baseMask : Word := bitMask 63 12

/-- A write of a CTX_ register other than CTX_CFG, CTX_FCMD and CTX_GCTL. The rectangles, CTX_FSCFG and CTX_PTPOOL take no write while the
context is enabled, nor while a disable of it is under way and EN reads 0 already: the rules name EN alone (DESIGN CHOICE, log
entry 18). -/
def writeCtxPlain (s : State) (c reg idx : Nat) (v mask : Word) : State :=
  let x := s.ctx c
  let put (x : Ctx) : State := s.setCtx c x
  match reg with
  | 1 => if x.en then s else put { x with rect := x.rect.setIfInBounds idx (merge (x.rect.getD idx 0) v mask (bitMask 12 0)) }
  | 2 => s.modSq c idx fun y => { y with base := merge y.base v mask baseMask }
  | 3 => writeSq s c idx v mask
  | 4 => put { x with cqs := spPut x.cqs idx { x.cq idx with base := merge (x.cq idx).base v mask baseMask } }
  | 5 => pumpCq (put { x with cqs := spPut x.cqs idx (writeCq (x.cq idx) v mask) }) c idx
  | 6 =>
    let y := x.cq idx
    pumpCq (put { x with cqs := spPut x.cqs idx { y with head := (merge (y.head.setWidth 64) v mask (bitMask 31 0)).setWidth 32 } }) c idx
  | 7 => put { x with fq := { x.fq with base := merge x.fq.base v mask baseMask } }
  | 8 => pumpFq (put { x with fq := writeCq x.fq v mask }) c
  | 9 => pumpFq (put { x with fq := { x.fq with head := (merge (x.fq.head.setWidth 64) v mask (bitMask 31 0)).setWidth 32 } }) c
  | 10 =>
    let w := merge (x.retry.setWidth 64) v mask 0xF
    if w = 15 then s else put { x with retry := w.setWidth 4 }
  | 11 => put { x with dumpBase := merge x.dumpBase v mask (bitMask 55 12) }
  | 12 => put { x with dumpLen := merge x.dumpLen v mask (bitMask 47 12) }
  | 13 => put { x with ckList := merge x.ckList v mask (bitMask 63 6) }
  | 14 => if writes1 v mask 2 then put { x with ckFail := false } else s
  | 15 =>
    let w := merge x.pinq v mask (bitMask 8 0 ||| bitMask 21 16)
    if 256 < (w.extractLsb' 0 9).toNat ∨ 48 < (w.extractLsb' 16 6).toNat then s else put { x with pinq := w }
  | 16 => put { x with dqBase := merge x.dqBase v mask (bitMask 55 16) }
  | 17 =>
    let w := merge x.fscfg v mask (bitMask 55 16 ||| 7)
    if x.en then s else put { x with fscfg := if 4 < (w.extractLsb' 0 3).toNat then merge x.fscfg v mask (bitMask 55 16) else w }
  | 18 => if x.en then s else put { x with ptPool := merge x.ptPool v mask (bitMask 47 0) }
  | 19 =>
    let w := merge x.memq v mask (bitMask 11 0 ||| bitMask 29 16 ||| bitMask 44 32)
    if 1920 < (w.extractLsb' 0 12).toNat ∨ 8192 < (w.extractLsb' 16 14).toNat ∨ 4096 < (w.extractLsb' 32 13).toNat then s
    else put { x with memq := w }
  | 21 => put { x with deleg := (merge (x.deleg.setWidth 64) v mask (bitMask 22 0)).setWidth 23 }
  | 25 => if mask.getLsbD 0 then put { x with hcfg := v.getLsbD 0 } else s
  | _ => s

/-! ## Queue events -/

def execSqEnable (s : State) : Host.Outcome State Fault Refusal :=
  .next (match s.hostEv with | .sqEnable c q lane v => writeCtxPlain s c 3 q (v ||| 1) lane.mask | _ => s)
def execSqDisable (s : State) : Host.Outcome State Fault Refusal :=
  .next (match s.hostEv with | .sqDisable c q lane v => writeCtxPlain s c 3 q (v &&& ~~~1#64) lane.mask | _ => s)
def execSqResume (s : State) : Host.Outcome State Fault Refusal :=
  .next (match s.hostEv with | .sqResume c q => writeCtxPlain s c 3 q 4 4 | _ => s)
def execCqEnable (s : State) : Host.Outcome State Fault Refusal :=
  .next (match s.hostEv with | .cqEnable c q lane v => writeCtxPlain s c 5 q (v ||| 1) lane.mask | _ => s)
def execFqEnable (s : State) : Host.Outcome State Fault Refusal :=
  .next (match s.hostEv with | .fqEnable c lane v => writeCtxPlain s c 8 0 (v ||| 1) lane.mask | _ => s)
def execCqHeadWrite (s : State) : Host.Outcome State Fault Refusal :=
  .next (match s.hostEv with | .cqHeadWrite c q lane v => writeCtxPlain s c 6 q v lane.mask | _ => s)
def execFqHeadWrite (s : State) : Host.Outcome State Fault Refusal :=
  .next (match s.hostEv with | .fqHeadWrite c lane v => writeCtxPlain s c 9 0 v lane.mask | _ => s)
def execCtxPinqWrite (s : State) : Host.Outcome State Fault Refusal :=
  .next (match s.hostEv with | .ctxPinqWrite c lane v => writeCtxPlain s c 15 0 v lane.mask | _ => s)

end Sys2Proof.Machine
end

