-- ==== Sys2Proof/Machine/Stop.lean ====
section
/-! DEFINITION. Gang stops (spec/11_traps_and_preemption.md R291–R295), fatal faults and dumps
(spec/04_resilience_and_checkpoint.md R125–R128, R289), debug halts (spec/12_debug_and_profiling.md R303–R310), match
points (R300), and the host's and the urgent handler's actions on traps (R284, R285).
Log entries: 17, 33, 34, 35, 37 (DEDUCED); 9 (DEDUCED and DESIGN CHOICE); 6, 10 (DESIGN CHOICE). -/

namespace Sys2Proof.Machine

/-! ## Gang stops -/

/-- The order of merged reasons (R295): fatal, disable, checkpoint, host request. -/
def stopRank (r : Cause) : Nat := if r = 0x170 then 0 else if r = 0x158 then 1 else if r = 0x157 then 2 else 3

/-- The merged reason. -/
def mergedReason (l : List Cause) : Option Cause :=
  l.foldl (init := none) fun b r => match b with | none => some r | some q => if stopRank r < stopRank q then some r else b

/-- The reason code of a fibre that a stop vacates. -/
def stopReason (r : Cause) : Cause := if r = 0x157 ∨ r = 0x158 then r else 0x156

/-- A core stops: it latches its cycle and its counters, and its worker slots are vacated (R206, R291). -/
def stopCore (s : State) (L : Nat) (r : Cause) : State :=
  let s := s.modCore L fun c =>
    { c with stopped := true, gsCyc := BitVec.ofNat 64 (s.cycleOf L), latched := #v[c.msgTx, c.msgRx, c.xmTx, c.xmRx] }
  ((s.core L).slots.toList.filterMap id).foldl (fun s f => vacate s L f (stopReason r)) s

/-- A stop of a context (R291). A stop in progress or in force takes it up. -/
def gangStop (s : State) (c : Nat) (r : Cause) : State :=
  let x := s.ctx c
  if !x.en then s
  else
    let rs := if x.reasons.contains r then x.reasons else x.reasons ++ [r]
    let y : Ctx := { x with reasons := rs, reason := (mergedReason rs).getD r }
    if x.stopped || x.stopping then s.setCtx c y
    else (ctxLeaves s c).foldl (fun s L => stopCore s L r) (s.setCtx c { y with stopping := true, stopAt := s.dies.toList.map fun d => d.cycle.toNat })

def execGangStop (s : State) : Host.Outcome State Fault Refusal :=
  .next (match s.ev with | .gangStop c r => gangStop s c r | _ => s)
def execCtxGctlStop (s : State) : Host.Outcome State Fault Refusal :=
  .next (match s.hostEv with | .ctxGctlStop c => gangStop s c 0x156 | _ => s)

/-- A message to a core whose fence has ended in a fatal fault: its router port refuses it for good (R118; log entry 37). -/
def State.refuses (s : State) (m : Msg) : Bool :=
  (s.msgCore m).isNone && (s.localCore m.dst).any fun T => (s.core T).fenced && (s.core T).fenceCause == 0

/-- A message of the context is on its way: neither one that its target refuses for good, nor what a copy engine of another module
delivers. -/
def onItsWay (s : State) (c : Nat) (m : Msg) : Bool :=
  m.ctx == c && !s.refuses m && (match m.body with | .deliver _ => false | _ => true)

/-- Every message of the context and every result and access in flight in its cores has been applied (R291, R293): engine instructions
pause with their writes. -/
def drained (s : State) (c : Nat) : Bool :=
  !(s.msgs.any (onItsWay s c)) &&
    (s.ctxCores c).all fun L => (s.core L).wb.isEmpty && !s.readsOpen L (2 ^ 64) && !s.sendsOpen L false

/-- The sums of messages sent and received inside the module (R293), with those that a fenced core refuses for good. -/
def cutConsistent (s : State) (c : Nat) : Bool :=
  let sum (f : Core → Word) : Nat := (s.ctxCores c).foldl (fun n L => n + (f (s.core L)).toNat) 0
  let refused : Nat := s.msgs.countP fun m => m.ctx == c && m.body.writes && !s.foreign m && s.refuses m
  sum (·.msgTx) == sum (·.msgRx) + refused

/-- A fatal fault of a context, raised for the next step. -/
def State.fatalCtx (s : State) (c : Nat) (cause : Cause) (core : CoreId) : State :=
  if h : c < 48 then s.raise (.fatalFault ⟨c, h⟩ cause core) else s

/-- GANG_STOP_DRAINED. -/
def execGangStopDrained (s : State) : Host.Outcome State Fault Refusal :=
  .next (match s.ev with
    | .gangStopDrained c =>
      if !(s.ctx c).stopping || !drained s c then s
      else
        let s' := s.modCtx c fun x => { x with stopping := false, stopped := true }
        let s' := if (s.ctx c).disabling then s'.raise (.ctxDisable c) else s'
        if cutConsistent s c then s' else s'.fatalCtx c 0x178 noSrc
    | _ => s)

/-- The traps held on a core, in the order in which their instructions issued: fibre, shadow plane or not, trap. -/
def heldTraps (c : Core) : List (Nat × Bool × TrapInfo) :=
  let main := c.fibres.filterMap fun (f, x) => match x.trap with | some t => if t.delivery = .held then some (f, false, t) else none | none => none
  let sh := match c.shadowTrap with | some t => if t.delivery = .held then [(0, true, t)] else [] | none => []
  (main ++ sh).foldl (fun l x => insertBy (fun a b => decide (a.2.2.issued < b.2.2.issued)) x l) []

/-- Delivers a held trap. -/
def deliverHeld (s : State) (L : Nat) (x : Nat × Bool × TrapInfo) : State :=
  let t := { x.2.2 with delivery := if x.2.2.hcall then .host else deliveryOf s L x.1 x.2.2.cause }
  let s := s.modCore L fun c => if x.2.1 then { c with shadowTrap := some t } else c.modFib x.1 fun y => { y with trap := some t }
  deliver s L x.1 t

/-- A core goes on: the traps held during the stop are delivered (R287). -/
def resumeCore (s : State) (L : Nat) : State :=
  let s := s.modCore L fun c => { c with stopped := false }
  (heldTraps (s.core L)).foldl (fun s x => deliverHeld s L x) s

/-- One reason of a stop ends; with the last of them the context's cores go on (R294, R295). -/
def endStop (s : State) (c : Nat) (r : Cause) : State :=
  let x := s.ctx c
  let rs := x.reasons.filter (· != r)
  match mergedReason rs with
  | some q => s.setCtx c { x with reasons := rs, reason := q }
  | none =>
    let s := s.setCtx c { x with reasons := [], stopped := false, stopping := false }
    (s.ctxCores c).foldl resumeCore s

/-- CTX_GCTL_RESUME: ignored unless the reason is 0x156. -/
def execCtxGctlResume (s : State) : Host.Outcome State Fault Refusal :=
  .next (match s.hostEv with
    | .ctxGctlResume c => if (s.ctx c).reasons.isEmpty || (s.ctx c).reason != 0x156 then s else endStop s c 0x156
    | _ => s)

/-! ## Fatal faults (R125, R127) -/

/-- Completes an unfinished packet of a fatally stopped context. A CHECKPOINT whose copy is finished drains on. -/
def fatalPacket (s : State) (c : Nat) (p : Packet) : State :=
  if p.kind = 7 then
    if (s.ctx c).drain.any (·.pkt == p.id) then s
    else (pktDone (pktEntry s c p 3 0x174 1) c p 3 0x174 2).modCtx c fun x => { x with ckFail := true }
  else pktDone s c p 3 0x170 0

/-- Every unfinished packet of a context, and what it had begun. -/
def fatalPackets (s : State) (c : Nat) : State :=
  let s := (s.ctx c).packets.foldl (fun s p => fatalPacket s c p) s
  let s := s.modCtx c fun x => { x with ckpt := none, cutting := false, ckPhase := if x.drain.isSome then x.ckPhase else 0 }
  { s with launches := s.launches.filter fun l => match l.owner with | .packet k _ => k != c | .book .. => true }

/-- A further fatal fault of the context that is being dumped. -/
def secondary (s : State) (cause : Cause) (core : CoreId) (cycle : Nat) : State :=
  let d := s.dump
  { s with dump :=
      { d with second := d.second + 1
               seconds := if d.seconds.length < 64 then d.seconds ++ [(cause, core, cycle)] else d.seconds } }

/-- An event record of the dump engine, in the recorder of die 0 (log entry 9). -/
def dumpEvent (s : State) : State := s.event 0 noSrc 10 s.dump.ctx.toNat (detail3 s.dump.ctx.toNat s.dump.recs (dumpReg s 1).toNat)

/-- DIE_CYCLE of die 0, which times what belongs to no die. -/
def State.clock (s : State) : Nat := (s.die 0).cycle.toNat

/-- Queues a dump: in the order of the faults, those of one cycle in ascending context order (R127). -/
def State.queueDump (s : State) (c : Nat) (cause : Cause) (core : CoreId) : State :=
  let lt (a b : Nat × Cause × CoreId) : Bool := (s.ctx a.1).fatalAt == (s.ctx b.1).fatalAt && decide (a.1 < b.1)
  { s with dump := { s.dump with queue := insertBy lt (c, cause, core) s.dump.queue } }

/-- FATAL_FAULT. -/
def execFatalFault (s : State) : Host.Outcome State Fault Refusal :=
  .next (match s.ev with
    | .fatalFault c cause core =>
      let d := ((idLeaf core).map dieOf).getD 0
      let s := s.event d core 9 c (detail2 cause.toNat core.toNat)
      let s := fatalPackets (gangStop s c 0x170) c
      if s.dump.busy && s.dump.ctx.toNat == c.val then dumpEvent (secondary s cause core (s.die d).cycle.toNat)
      else if s.dump.queue.any (·.1 == c.val) then s
      else (s.modCtx c fun x => { x with fatalAt := s.clock }).queueDump c cause core
    | _ => s)

/-! ## Dumps (R126–R128, R289) -/

/-- Bytes cut or filled with zeros to a length. -/
def padTo (n : Nat) (b : List Byte) : List Byte := b.take n ++ List.replicate (n - b.length) 0

/-- The values of the 117 CORE_ registers of a core save image. -/
def imageRegs (s : State) (L : Nat) : List Byte :=
  (List.range 44).flatMap fun r =>
    if r = 16 ∨ r = 17 ∨ r = 18 ∨ r = 19 ∨ r = 35 ∨ r = 36 then []
    else (List.range (max 1 (((regLens 0)[r]?).getD 0))).flatMap fun i => leBytes 8 (coreReg s L {} r i).toNat

/-- The hardware-held entries of a deque, topmost first. -/
def imageDeque (c : Core) (p : Nat) : List Byte := padTo 1024 (((c.dq p).take (c.hw p)).reverse.flatMap (·.bytes))

/-- The core save image (R289). `flag`: a line read as poison. -/
def coreImage (s : State) (L : Nat) (reason : Cause) (flag : Bool) : List Byte :=
  let c := s.core L
  let w (v : Word) : List Byte := leBytes 8 v.toNat
  let head := leBytes 8 (s.coreId L 0).toNat ++ leBytes 8 flag.toNat ++ w c.gsCyc ++ c.latched.toList.flatMap w ++ leBytes 8 reason.toNat
    ++ leBytes 8 c.fibres.length
  let others := (c.fibres.filter fun e => 2 ≤ e.1 && !e.2.spilled).flatMap fun e => fibreContext s L e.1
  padTo 0x10000 (padTo 256 head ++ c.s.toList.flatMap w ++ padTo 256 (fibreContext s L 0)
    ++ padTo 256 (c.shadowA.toList.flatMap w ++ w c.shadowFl) ++ padTo 256 (fibreContext s L 1)
    ++ c.mb.toList.flatMap (fun m => padTo 128 (m.words.toList.flatMap w
        ++ leBytes 16 (Config.mailboxWord m.full m.fibre (m.task.getD 0).toNat).toNat))
    ++ padTo 768 (w c.tags ++ (List.range 64).flatMap fun i => w ((c.tagStatus i).setWidth 64))
    ++ padTo 1024 (imageRegs s L) ++ padTo 512 ((c.trapQ.take 256).flatMap fun f => leBytes 2 f)
    ++ [0, 1, 2, 3].flatMap (imageDeque c) ++ others)

/-- The record of one core: its bytes, and for each whether it is poison. -/
def coreRecord (s : State) (L : Nat) : List Byte × List Bool :=
  let tcm := if s.dump.tcm then s.bytes (tcmKey L 0) 0x40000 else []
  let flags := if s.dump.tcm then (List.range 0x40000).map fun i => s.poisoned (tcmKey L i) 1 else []
  (coreImage s L (s.ctx s.dump.ctx.toNat).reason (flags.any id) ++ tcm, List.replicate 0x10000 false ++ flags)

/-- Bytes of a core record. -/
def recordSize (s : State) : Nat := if s.dump.tcm then 0x50000 else 0x10000

/-- The dump of a stopped context: its bytes with their poison, the records in it, and whether it was truncated. -/
def dumpImage (s : State) : (List Byte × List Bool) × Nat × Bool :=
  let d := s.dump
  let c := d.ctx.toNat
  let cores := ctxLeaves s c
  let n := min cores.length ((d.len - 0x2000) / recordSize s)
  let trunc := decide (n < cores.length)
  let fields := [0x504D5544, 1, c, d.cause.toNat, d.core.toNat]
    ++ (List.range 8).map (fun i => (s.ctx c).stopAt.getD i 0) ++ [cores.length, n, trunc.toNat + 2 * d.tcm.toNat, d.second]
  let head := (List.range 4096).map (Config.dumpHeader fields)
  let sec := d.seconds.flatMap fun (a, b, t) => (List.range 64).map (Config.dumpSecondary [a.toNat, b.toNat, t])
  let recs := (cores.take n).map (coreRecord s)
  ((head ++ padTo 4096 sec ++ recs.flatMap (·.1), List.replicate 8192 false ++ recs.flatMap (·.2)), n, trunc)

/-- Writes bytes with their poison at a device address. -/
def writePoisoned (s : State) (p : Party) (va : VAddr) (b : List Byte) (pois : List Bool) : Chk State := do
  let ps ← resolveRange s p va b.length .write
  return copyInto s ps b pois

/-- DUMP_START. -/
def execDumpStart (s : State) : Host.Outcome State Fault Refusal :=
  .next (match s.ev with
    | .dumpStart =>
      match s.dump.queue with
      | (c, cause, core) :: r =>
        let x := s.ctx c
        if s.dump.busy || !x.stopped then s
        else dumpEvent { s with dump :=
          { s.dump with busy := true, ctx := BitVec.ofNat 6 c, queue := r, base := x.dumpBase.toNat, len := x.dumpLen.toNat, recs := 0
                        second := 0, seconds := [], cause, core } }
      | [] => s
    | _ => s)

/-- DUMP_COMPLETE: the dump is written up to its last whole record. -/
def execDumpComplete (s : State) : Host.Outcome State Fault Refusal :=
  .next (match s.ev with
    | .dumpComplete =>
      let d := s.dump
      let c := d.ctx.toNat
      if !d.busy then s
      else
        let (s, n, trunc) : State × Nat × Bool :=
          if d.len = 0 then (s, 0, false)
          else
            let (img, n, trunc) := dumpImage s
            match writePoisoned s (noCore c) (BitVec.ofNat 56 d.base) (img.1.take d.len) (img.2.take d.len) with
            | .ok s' => (s', n, trunc)
            | .error _ => (s, 0, true)
        let s := dumpEvent { s with dump := { d with busy := false, done := true, trunc := d.trunc || trunc, recs := n } }
        let s := s.fqSend c (nofibEntry s c 0x170 true noSrc 0 0 (BitVec.ofNat 64 d.base) (BitVec.ofNat 64 n) 0)
        if h : c < 48 then (if (s.ctx c).disabling then s.raise (.ctxDisable ⟨c, h⟩) else s) else s
    | _ => s)

/-! ## Actions on traps (R284, R285) -/

/-- A fibre of the context parked by a trap that goes to the host. -/
def hostParked (s : State) (c : Nat) (id : CoreId) (f : Nat) : Option Nat :=
  match s.localCore id with
  | some L =>
    let k := s.core L
    let t := if f = 0 ∧ k.shadowTrap.isSome then k.shadowTrap else if k.hasFib f then (k.fib f).trap else none
    if (s.ctx c).owns (clusterOf L) && t.any (fun t => t.delivery == .host) then some L else none
  | none => none

/-- A write of CTX_FCMD. -/
def fcmd (s : State) (c : Nat) (id : CoreId) (f act : Nat) : State :=
  match hostParked s c id f with
  | none => s.modCtx c fun x => { x with fcmdErr := true }
  | some L => resolveTrap (s.modCtx c fun x => { x with fcmdErr := false }) L f act false

def execCtxFcmdReplay (s : State) : Host.Outcome State Fault Refusal :=
  .next (match s.hostEv with | .ctxFcmdReplay c id f => fcmd s c id f.toNat 0 | _ => s)
def execCtxFcmdSkip (s : State) : Host.Outcome State Fault Refusal :=
  .next (match s.hostEv with | .ctxFcmdSkip c id f => fcmd s c id f.toNat 1 | _ => s)
def execCtxFcmdRestart (s : State) : Host.Outcome State Fault Refusal :=
  .next (match s.hostEv with | .ctxFcmdRestart c id f => fcmd s c id f.toNat 2 | _ => s)
def execCtxFcmdFail (s : State) : Host.Outcome State Fault Refusal :=
  .next (match s.hostEv with | .ctxFcmdFail c id f => fcmd s c id f.toNat 3 | _ => s)

/-- A write of CORE_TACT. -/
def tact (s : State) (L act : Nat) : State := writeCore s L none 20 0 (BitVec.ofNat 64 act) 3

def execCoreTactReplay (s : State) : Host.Outcome State Fault Refusal :=
  .next (match s.hostEv with | .coreTactReplay L => tact s L 0 | _ => s)
def execCoreTactSkip (s : State) : Host.Outcome State Fault Refusal :=
  .next (match s.hostEv with | .coreTactSkip L => tact s L 1 | _ => s)
def execCoreTactRestart (s : State) : Host.Outcome State Fault Refusal :=
  .next (match s.hostEv with | .coreTactRestart L => tact s L 2 | _ => s)
def execCoreTactFail (s : State) : Host.Outcome State Fault Refusal :=
  .next (match s.hostEv with | .coreTactFail L => tact s L 3 | _ => s)

/-! ## Debug halts (R303–R306) -/

/-- A cluster halts: one already halted ignores it. Its record, in its own ring, names the triggering fibre and its PC (R304, R307).
GANG also stops the context. -/
def haltAt (s : State) (k : Nat) (reason : Cause) (src : CoreId) (pc : VAddr) : State :=
  let x := s.cluster k
  if x.halted || x.halting then s
  else
    let s := s.traceAt k src 3 pc reason.toNat
    let s := s.modCluster k fun x => { x with halted := true, reason, src }
    let mark (c : Core) : Core :=
      { c with halted := true, fibres := c.fibres.map fun (f, x) => (f, { x with reason := if x.trap.isSome then x.reason else 0x159 }) }
    let s := (clusterCores k).foldl (fun s L => s.modCore L mark) s
    if x.dbgGang then match s.ownerOf k with | some c => gangStop s c 0x156 | none => s else s

/-- A halt that the fibre of a slot triggers; a halt by the host has none. -/
def haltCluster (s : State) (k : Nat) (reason : Cause) (src : CoreId) : State :=
  haltAt s k reason src (if reason = 0x145 then 0 else ((s.localCore src).map fun L => (s.core L).slotPc (src.toNat % 8)).getD 0)

def execClusterHalt (s : State) : Host.Outcome State Fault Refusal :=
  .next (match s.ev with | .clusterHalt k r src => haltCluster s k r src | _ => s)

/-- CLU_DBGCTL.HALT. No core triggers it: SRC is open. -/
def execCluDbgctlHalt (s : State) : Host.Outcome State Fault Refusal :=
  .next (match s.hostEv with
    | .cluDbgctlHalt k => haltCluster { s with free := s.free + 1 } k 0x145 (Config.haltSrc s.free)
    | _ => s)

/-- CLU_DBGCTL.RESUME. -/
def resumeCluster (s : State) (k : Nat) : State :=
  let x := s.cluster k
  if !x.halted && !x.halting then s
  else
    let s := s.modCluster k fun x => { x with halted := false, halting := false }
    let s := (clusterCores k).foldl (fun s L => s.modCore L fun c => { c with halted := false }) s
    s.trace (clusterCore k 0) 0 4 0 0

def execCluDbgctlResume (s : State) : Host.Outcome State Fault Refusal :=
  .next (match s.hostEv with | .cluDbgctlResume k => resumeCluster s k | _ => s)

/-- The plane that issues from a slot meets no breakpoint or watchpoint at its next instruction. -/
def skipBreak (c : Core) (slot : Nat) : Core :=
  if c.shadow slot then { c with shadowNoBreak := true }
  else match c.inSlot slot with | some f => c.modFib f fun x => { x with noBreak := true } | none => c

/-- A breakpoint or watchpoint hit: a trap, or a halt of the cluster before the instruction. -/
def debugHit (s : State) (L slot : Nat) (i : Issue) (cause : Cause) (halt : Bool) : State :=
  let s := s.trace L slot 2 i.pc cause.toNat
  if halt then haltAt (s.modCore L (skipBreak · slot)) (clusterOf L) cause (s.coreId L slot) i.pc
  else takeTrap s i cause 0 0 false false

/-- CLUSTER_BREAKPOINT. -/
def execClusterBreakpoint (s : State) : Host.Outcome State Fault Refusal :=
  .next (match s.ev with
    | .clusterBreakpoint L slot =>
      let i := chainIssue s L slot
      match (s.cluster (clusterOf L)).bp.toList.find? fun w => w.getLsbD 0 && w.extractLsb' 1 55 == i.pc.extractLsb' 1 55 with
      | some w => if (s.core L).slotReady (s.cycleOf L) slot then debugHit s L slot i 0x140 (w.getLsbD 56) else s
      | none => s
    | _ => s)

/-- CLUSTER_WATCHPOINT, at the instruction of the latch. -/
def execClusterWatchpoint (s : State) : Host.Outcome State Fault Refusal :=
  .next (match s.ev with
    | .clusterWatchpoint L slot g st =>
      let bit := if st then 57 else 56
      match (s.cluster (clusterOf L)).wp.toList.find? fun w => w.extractLsb' 3 53 == g && w.getLsbD bit with
      | some w =>
        if s.cur.core = L.val ∧ s.cur.slot = slot.val then debugHit s L slot s.cur (if st then 0x142 else 0x141) (w.getLsbD 58) else s
      | none => s
    | _ => s)

/-- PC_MATCH_FIRE (R300, R301). -/
def execPcMatchFire (s : State) : Host.Outcome State Fault Refusal :=
  .next (match s.ev with
    | .pcMatchFire L slot =>
      let c := s.core L
      match (c.inSlot slot), matchPoint c (c.slotPc slot) with
      | some f, some i =>
        if slot = 0 ∨ !c.slotReady (s.cycleOf L) slot ∨ (c.fib f).noMatch then s
        else
          let s := s.trace L slot 8 (c.slotPc slot) i
          if c.pmhnd.getD i 0 &&& 0xFFFFFFFFFFFFFE = 0 then takeTrap s (chainIssue s L slot) 0x147 0 0 false false
          else
            let q : Fin 16 := ⟨i % 16, by omega⟩
            let s := s.modCore L fun c => c.modFib f fun x => { x with status := .matched }
            if c.handler.isSome then s.modCore L fun c => { c with matchQ := c.matchQ ++ [(f, q, slot.val)] } else startHandler s L f q slot.val
      | _, _ => s
    | _ => s)

/-- A fibre has just completed the armed task attempt's counted instruction (R309). -/
def replayAt (s : State) (L : Nat) (f : Fibre) : Bool :=
  !f.counted && f.task.any (replayArmed s L · f.icount)
    && (match f.status with | .waiting .access | .waiting .status | .waiting (.reservation _) | .writeback => false | _ => true)

/-- The fibre of the core that has just completed its counted instruction. -/
def replayHit (s : State) (L : Nat) : Option Fibre := ((s.core L).fibres.find? fun e => replayAt s L e.2).map (·.2)

/-- REPLAY_STOP: SRC names the slot from which the fibre issued its counted instruction. -/
def execReplayStop (s : State) : Host.Outcome State Fault Refusal :=
  .next (match s.ev with
    | .replayStop L =>
      match replayHit s L with
      | some f => haltAt (disarmReplay s L) (clusterOf L) 0x146 (s.coreId L f.slot.toNat) f.pc
      | none => s
    | _ => s)

/-- TRACE_SAMPLE (R307). -/
def execTraceSample (s : State) : Host.Outcome State Fault Refusal :=
  .next (match s.ev with
    | .traceSample k =>
      let x := s.cluster k
      let L := clusterCore k (x.trNext % 128)
      (s.trace L 0 1 0 (s.core L).lastClass.toNat).modCluster k fun x => { x with trNext := (x.trNext + 1) % 128 }
    | _ => s)

end Sys2Proof.Machine
end

