-- ==== Sys2Proof/Machine/Faults.lean ====
section
/-! DEFINITION. Page migration (spec/08_memory_hierarchy.md R228–R230), the watchdog, hangs and state errors (R117, R280),
and fencing with remap to a spare (spec/04_resilience_and_checkpoint.md R118, R120; R250).
Log entries: 13, 37 (DEDUCED); 36 (DEDUCED and DESIGN CHOICE). -/

namespace Sys2Proof.Machine

/-! ## Page migration -/

/-- The leaf that maps an address: the address of its entry, its level and the entry. A walk that meets a poisoned line of a table
finds no mapping: R228 has no error for it (DESIGN CHOICE, log entry 36). -/
def leafOf (s : State) (va lvl t : Nat) : Option (Nat × Nat × Word) :=
  let a := t + 8 * ptIndex va lvl
  let e := s.rd64 a
  if s.poisoned a 8 || !pteV e || pteBad e lvl then none
  else if pteLeaf e then some (a, lvl, e)
  else match lvl with
    | 0 => none
    | n + 1 => leafOf s va n (ptePA e)

/-- A physical range meets the table pool of an enabled context. -/
def inPool (s : State) (pa n : Nat) : Bool :=
  s.ctxs.any fun (_, x) => x.en && decide (x.poolBase < pa + n) && decide (pa < x.poolBase + (x.ptPool.extractLsb' 0 12).toNat * 4096)

/-- A range lies in one memory range of R212, outside the reserved die store and every table pool. -/
def physOk (s : State) (pa n : Nat) : Bool :=
  (paRange pa).isSome && paRange pa == paRange (pa + n - 1) && !paReserved pa && !paReserved (pa + n - 1)
    && !inPool s pa n

/-- The checks of a GO: the move, or the error. -/
def migrationCheck (s : State) (d : Nat) : Except Nat Migration :=
  let x := s.die d
  let c := (x.migVa.extractLsb' 56 6).toNat
  let va : VAddr := x.migVa.setWidth 56
  let dst := (x.migDpa.extractLsb' 12 36).toNat * 4096
  match (if (s.ctx c).en ∧ va.toNat / 2 ^ 48 < 0xFD then leafOf s va.toNat 4 (s.ctx c).poolBase else none) with
  | none => .error 1
  | some (a, lvl, e) =>
    let n := ptSize lvl (ptePS e)
    let src := ptePA e
    if lvl = 2 then .error 2
    else if dst % n ≠ 0 ∨ !physOk s dst n ∨ homeDie dst = d then .error 3
    else if homeDie src ≠ d then .error 4
    else .ok { ctx := c, va, src, dst, size := n, leaf := if ptePS e then a / 128 * 128 else a }

/-- MIGRATION_GO: ignored while a move is in progress. -/
def migrationGo (s : State) (d : Nat) : State :=
  if (s.die d).mig.isSome then s
  else match migrationCheck s d with
    | .error e => s.modDie d fun x => { x with migDone := true, migErr := BitVec.ofNat 3 e }
    | .ok m => s.modDie d fun x => { x with mig := some m, migErr := 0 }

def execMigrationGo (s : State) : Host.Outcome State Fault Refusal :=
  .next (match s.hostEv with | .migrationGo d => migrationGo s d | _ => s)

/-- The reservation queue of a line at its source has drained (R229, step 2). -/
def lineDrained (s : State) (k : Nat) : Bool :=
  !(s.grants.any fun g => !g.away && (List.range 8).any fun i => g.covers (k / 8 + i))

/-- A store that an engine has yet to make, with the part of it that lies in a line moved to the line's new home. -/
def Put.move (p : Put) (k dst : Nat) : List Put :=
  let lo := k - p.key
  let hi := k + 64 - p.key
  let cut (key : Nat) (bs : List Byte) : List Put := if bs.isEmpty then [] else [{ key, bytes := bs }]
  if p.key + p.bytes.length ≤ k ∨ k + 64 ≤ p.key then [p]
  else
    cut p.key (p.bytes.take lo) ++ cut (max p.key k - k + dst) ((p.bytes.take hi).drop lo) ++ cut (p.key + hi) (p.bytes.drop hi)

/-- An engine instruction whose stores follow a moved line (R229, R230). -/
def EngineOp.move (o : EngineOp) (k dst : Nat) : EngineOp := { o with puts := o.puts.flatMap (·.move k dst) }

/-- A write that waits, with the part of it that lies in a line moved to the line's new home. -/
def WaitingWrite.move (w : WaitingWrite) (k dst : Nat) : List WaitingWrite :=
  let pois := w.pois.map fun l => if l = k / 64 then dst / 64 else l
  if w.add.isSome then [{ w with key := if w.key / 64 = k / 64 then w.key - k + dst else w.key }]
  else (({ key := w.key, bytes := w.bytes : Put }).move k dst).map fun p => { w with key := p.key, bytes := p.bytes, pois }

/-- The locks on a line follow it (R227, R230). -/
def moveLocks (s : State) (k dst : Nat) : State :=
  (s.cores.filter fun e => e.2.locks.contains (k / 64)).foldl (init := s) fun s (m, _) =>
    (s.modCore m fun c => { c with locks := c.locks.filter (· ≠ k / 64) }).modCore (lockCore s m dst) fun c =>
      { c with locks := insNat c.locks (dst / 64) }

/-- The waits on a line, the locks on it, the writes that wait at it and the stores that engines have yet to make in it follow it to its
new home. -/
def moveWaits (s : State) (k dst : Nat) : State :=
  let at_ (a : Nat) : Nat := if a / 64 = k / 64 then a - k + dst else a
  let st : Status → Status
    | .waiting (.counter a t) => .waiting (.counter (at_ a) t)
    | x => x
  let rsv (r : Rsv) : Rsv := { r with key := at_ r.key }
  let fib (e : Nat × Fibre) : Nat × Fibre := (e.1, { e.2 with status := st e.2.status, last := e.2.last.map rsv })
  let op (o : EngineOp) : EngineOp := o.move k dst
  let core (e : Nat × Core) : Nat × Core := (e.1, { e.2 with
    fibres := e.2.fibres.map fib, shadowSt := st e.2.shadowSt, vec := e.2.vec.map op, mat := e.2.mat.map op
    vecPaused := e.2.vecPaused.map op, matPaused := e.2.matPaused.map op })
  moveLocks { s with cores := s.cores.map core, watches := s.watches.map fun w => { w with key := at_ w.key }
                     heldWrites := s.heldWrites.flatMap (·.move k dst) } k dst

/-- MIGRATION_LINE_MOVE: the next line in ascending order. -/
def execMigrationLineMove (s : State) : Host.Outcome State Fault Refusal :=
  .next (match s.ev with
    | .migrationLineMove d =>
      match (s.die d).mig with
      | none => s
      | some m =>
        let k := m.src + m.moved
        if m.size ≤ m.moved ∨ !lineDrained s k then s
        else
          let bad := s.poisoned k 64
          let s := (s.snoop k 64).wr (m.dst + m.moved) (s.bytes k 64)
          let s := if bad then s.markPoison (m.dst + m.moved) 64 else s
          let s := moveWaits s k (m.dst + m.moved)
          s.modDie d fun x => { x with mig := some { m with moved := m.moved + 64, pois := m.pois || bad } }
    | _ => s)

/-- Bytes of valid leaves of a kind, changed (R224). -/
def Ctx.useBytes (x : Ctx) (k : MemKind) (f : Nat → Nat) : Ctx :=
  match k with
  | .dieStore => { x with useDs := f x.useDs }
  | .hbm => { x with useHbm := f x.useHbm }
  | .lp => { x with useLp := f x.useLp }

/-- The memory kind of an assigned physical address. -/
def paKind (pa : Nat) : MemKind := ((paRange pa).map (·.1)).getD .hbm

/-- The leaf of the page that moves still stands in the tables of its context (R219, R224): it may have been unmapped, or the context
disabled. -/
def leafStands (s : State) (m : Migration) : Bool :=
  (s.ctx m.ctx).en && !(s.ctx m.ctx).disabling && (leafOf s m.va.toNat 4 (s.ctx m.ctx).poolBase).any fun (a, lvl, e) =>
    ptePA e == m.src && ptSize lvl (ptePS e) == m.size && (if ptePS e then a / 128 * 128 else a) == m.leaf

/-- Rewrites the leaf of a moved page: 16 entries for a 64 KiB page. -/
def rewriteLeaf (s : State) (m : Migration) : State :=
  let e := s.rd64 m.leaf
  if !leafStands s m then s
  else
    let e' := (e &&& ~~~(bitMask 47 12)) ||| BitVec.ofNat 64 m.dst
    let s := s.wr m.leaf ((List.range (if ptePS e then 16 else 1)).flatMap fun _ => leBytes 8 e'.toNat)
    s.modCtx m.ctx fun x => (x.useBytes (paKind m.src) (· - m.size)).useBytes (paKind m.dst) (· + m.size)

/-- MIGRATION_DONE. -/
def execMigrationDone (s : State) : Host.Outcome State Fault Refusal :=
  .next (match s.ev with
    | .migrationDone d =>
      match (s.die d).mig with
      | none => s
      | some m =>
        if m.moved < m.size then s
        else (rewriteLeaf s m).modDie d fun x => { x with mig := none, migDone := true, migErr := if m.pois then 5 else 0 }
    | _ => s)

/-- A request at its new home, whose own line may be moving in turn. -/
def Grant.rehome (g : Grant) (s : State) (m : Migration) : Grant :=
  let at_ (k : Nat) : Nat := k - m.src + m.dst
  let op := g.op.map fun o => { o with key := at_ o.key }
  { g with gran := at_ (8 * g.gran) / 8, op, moved := g.moved + 1, away := s.movingAway (at_ (8 * g.gran)) }

/-- The fibre of a request that moves waits on the new granule; an LR's reservation names the new home. -/
def rehomeFibre (c : Core) (g h : Grant) (shadow : Bool) : Core :=
  let key (r : Rsv) : Rsv := if r.key / 8 = g.gran then { r with key := r.key - 8 * g.gran + 8 * h.gran } else r
  let c := c.modFib g.fibre fun x => { x with rsv := x.rsv.map key, last := x.last.map key }
  if shadow then { c with shadowSt := .waiting (.reservation h.gran) }
  else c.modFib g.fibre fun x => { x with status := .waiting (.reservation h.gran) }

/-- MOVED_REPLY: a fifth answer traps with moved-limit (R368). -/
def execMovedReply (s : State) : Host.Outcome State Fault Refusal :=
  .next (match s.ev with
    | .movedReply L f =>
      match s.grants.find? fun g => g.away && g.core == L.val && g.fibre == f.toNat with
      | none => s
      | some g =>
        match g.op, s.moves.find? fun m => m.covers false (8 * g.gran) with
        | some o, some m =>
          if 4 ≤ g.moved then trapQueued { s with grants := s.grants.erase g } g o 0x0AC (o.va.setWidth 64) 0
          else
            let h := g.rehome s m
            { s with grants := s.grants.erase g ++ [h] }.modCore L fun c => rehomeFibre c g h g.shadow
        -- the move has ended meanwhile: the source has forwarded the request
        | _, _ => s.setGrant g { g with away := false }
    | _ => s)

/-! ## Hangs (R117, R280) -/

/-- A core is fenced: it stops issuing, its reservations are revoked (R368), and the fence proceeds. -/
def fenceCore (s : State) (L : Nat) (cause : Cause) : State :=
  let s := revokeAll s (s.grants.filter fun g => g.core == L && g.granted && g.op.isNone)
  if h : L < 6144 then (s.modCore L fun c => { c with fenced := true, fenceCause := cause }).raise (.coreFence ⟨L, h⟩) else s

/-- The watchdog's lowest ready slot, where its period has run out. -/
def wdogSlot (s : State) (L : Nat) : Option Nat :=
  let c := s.core L
  if c.wdSince + 2 ^ (s.die (dieOf L)).wdog.toNat ≤ s.cycleOf L then c.pickable (s.cycleOf L) else none

/-- WATCHDOG_EXPIRY. -/
def execWatchdogExpiry (s : State) : Host.Outcome State Fault Refusal :=
  .next (match s.ev with
    | .watchdogExpiry L => match wdogSlot s L with | some slot => fenceCore s L (causeN (0x110 + 2 * slot)) | none => s
    | _ => s)

/-- CORE_STATE_ERROR. -/
def execCoreStateError (s : State) : Host.Outcome State Fault Refusal :=
  .next (match s.ev with
    | .coreStateError L port =>
      let s := if port then s.modCore L fun c => { c with portBad := true } else s
      if (s.core L).fenced then s else fenceCore s L 0x127
    | _ => s)

/-- A copy fails after its channel was granted (R417). -/
def CopyOp.fail (o : CopyOp) (cause : Cause) : CopyOp := { o with granted := true, failed := if o.failed = 0 then cause else o.failed }

/-- Abandons the engine operation of an instruction of core L, whose fibre traps. -/
def hangEngine (s : State) (L : Nat) (matrix : Bool) (o : EngineOp) (cause : Cause) : State :=
  trapFibre ((s.modCore L fun c => (if matrix then { c with mat := none } else { c with vec := none }).dtDrain).dropOps L)
    o.fibre o.shadow o.iss cause 0 0 true false

/-- ENGINE_HANG: of a vector or matrix instruction issued from a slot, or of the operation of a tag. -/
def execEngineHang (s : State) : Host.Outcome State Fault Refusal :=
  .next (match s.ev with
    | .engineHang L slot none =>
      let cause := causeN (0x111 + 2 * slot.val)
      let c := s.core L
      let mine (o : EngineOp) : Bool := !o.remote && o.iss.slot == slot.val
      if enginesHeld s L then s
      else match c.vec.filter mine, c.mat.filter mine with
        | some o, _ => hangEngine s L false o cause
        | none, some o => hangEngine s L true o cause
        | none, none => s
    | .engineHang L slot (some tag) =>
      let cause := causeN (0x111 + 2 * slot.val)
      let mine (o : CopyOp) : Bool := o.core == L.val && o.tag == tag && o.slot == slot.val && o.granted && o.sent.isNone
      if enginesHeld s L then s
      else if (s.cluster (clusterOf L)).copies.any mine then
        s.modCluster (clusterOf L) fun k => { k with copies := updFirst mine (·.fail cause) k.copies }
      else if (s.core L).stashes.any (·.tag == tag) then
        (s.modCore L fun c => { c with stashes := c.stashes.filter (·.tag != tag) }).setTag L tag cause true false
      else s
    | _ => s)

/-! ## Fencing (R118) -/

/-- The core's part in its context's tree (R70, R118). -/
def fenceTree (s : State) (c L : Nat) : State :=
  let s := s.modCore L fun k => { k with treeJoin := false, treeIn := [], treeOut := [], treeHeld := [] }
  match s.round? c with
  | some r =>
    if !r.members.contains L then s
    else if r.words.any (·.1 == L) then
      s.modCtx c fun x => { x with rounds := { r with gone := L :: r.gone } :: x.rounds.drop 1 }
    else endRound s c { r with lost := true, members := r.members.erase L }
  | none => s

/-- A fibre of the core cannot be restarted. -/
def Core.unrestartable (c : Core) : Bool := !c.idle || c.fibres.any fun (f, x) => 2 ≤ f && x.task.isNone

/-- The tasks that a fence restarts: those whose dispatch has begun, but for those whose retirement has (R118, R143). -/
def Core.toRestart (c : Core) : List VAddr := (c.tasks.filter fun t => t.phase != .restarting && t.retiring.isNone).map (·.recAddr)

/-- What the spare does not take up: engine operations, accumulators, locks, queued traps, and a PC-match handler, whose fibre and
those that wait for it are released (R301). -/
def Core.onSpare (c : Core) : Core :=
  let acc := c.acc.map fun a => { a with own := false }
  let free (e : Nat × Fibre) : Nat × Fibre := if e.2.status = .matched then (e.1, { e.2 with status := .ready, noMatch := true }) else e
  { c with vec := none, mat := none, vecPaused := [], matPaused := [], locks := [], trapQ := [], treg := Vector.replicate 9 none
           handler := none, shadowTrap := none, shadowSt := .ready, matchQ := [], fibres := c.fibres.map free, fence := 0
           acc, fenced := false, fenceCause := 0, portBad := false : Core }.dtDrain

/-- The spare takes up the logical core (R118, steps 2 to 6). -/
def takeSpare (s : State) (L : Nat) (spare : Nat) : State :=
  let k := clusterOf L
  let c := s.core L
  let phys := ((s.cluster k).l2pOf (inCluster L)).setWidth 8
  let s := s.coreEvent L 5 (detail3 c.fenceCause.toNat phys.toNat spare)
  let s := s.modCluster k fun x =>
    { x with spares := x.spares.erase spare, l2p := spPut x.l2p (inCluster L) (BitVec.ofNat 9 (256 + spare))
             copies := x.copies.map fun o => if o.core = L ∧ o.sent.isNone then o.fail 0x0DC else o }
  let s := (c.fibres.map (·.1)).foldl (fun s f => withdraw s L f) s
  let s := c.toRestart.foldl (fun s r => restartTask s L r) s
  let s := restartCourier (idleUrgent s L) L
  let s := (s.modCore L Core.onSpare).dropOps L
  let s := s.modCore L fun c => (c.modFib 0 fun x => { x with reason := 0x15F }).modFib 1 fun x => { x with reason := 0x15F }
  let s := s.modCore L fun c => { c with wdSince := s.cycleOf L }
  match s.ctxOfCore L with
  | some x => fenceTree s x L
  | none => s

/-- A fence that ends in a fatal fault: the core stays fenced, and is no part of the tree any more (R118). -/
def fenceFatal (s : State) (L : Nat) (cause : Cause) : State :=
  let s := s.modCore L fun c => { c with fenceCause := 0 }
  (match s.ctxOfCore L with | some x => fenceTree s x L | none => s).fatal L cause

/-- A write that the core has issued is not applied yet: a store, a message, or an atomic that holds its grant (R241, R250). -/
def fenceWaits (s : State) (L : Nat) : Bool :=
  s.sendsOpen L false || s.grants.any fun g => g.core == L && g.granted && g.op.isSome

/-- CORE_FENCE: the writes that the core has issued are applied before the spare takes up (R250). -/
def execCoreFence (s : State) : Host.Outcome State Fault Refusal :=
  .next (match s.ev with
    | .coreFence L =>
      let c := s.core L
      if !c.fenced || c.fenceCause == 0 then s
      else if c.portBad && s.sendsOpen L false then fenceFatal s L 0x127
      else if c.unrestartable then fenceFatal s L 0x172
      else match (s.cluster (clusterOf L)).spares with
        | [] => fenceFatal s L 0x171
        | spare :: _ => if fenceWaits s L then s else takeSpare s L spare
    | _ => s)

end Sys2Proof.Machine
end

