-- ==== Sys2Proof/Machine/Coll.lean ====
section
/-! DEFINITION. Collectives (spec/02_collectives.md R45–R65; spec/18_isa_matrix_and_engines.md R420) and the ends of
combining-tree rounds (R67–R71). Other modules of a mesh are outside the machine: what they send comes with the
events.
Log entries: 32 (DEDUCED and DESIGN CHOICE). -/

namespace Sys2Proof.Machine

/-! ## Descriptors (R45–R50) -/

/-- An axis of a mesh. -/
structure Axis where
  dim    : Nat
  size   : Nat
  stride : Nat
deriving DecidableEq, Repr

/-- A layout: the axes of each dimension, and the axes that hold partial sums. -/
structure Layout where
  lists   : List (List Nat)
  partials : List Nat
deriving DecidableEq, Repr

/-- A collective's descriptor, its fields as numbers. -/
structure CollDesc where
  raw   : List Byte
  axes  : List Axis
  src   : Layout
  dst   : Layout
  lens  : List Nat
  rank  : Nat
deriving DecidableEq, Repr

/-- A little-endian field of a descriptor. -/
def rawNum (b : List Byte) (o n : Nat) : Nat := leNat ((b.drop o).take n)
def CollDesc.num (x : CollDesc) (o n : Nat) : Nat := rawNum x.raw o n

/-- An axis word. -/
def axisOf (w : Nat) : Axis := { dim := w % 4, size := w / 4 % 128, stride := w / 512 % 128 }

/-- The entries of a dimension's list, up to the end mark. -/
def layoutList (w d : Nat) : List Nat := ((List.range 4).map fun k => w / 8 ^ (4 * d + k) % 8).takeWhile (· != 7)

/-- A layout word. -/
def layoutOf (w : Nat) : Layout :=
  { lists := (List.range 4).map (layoutList w), partials := (List.range 4).filter fun a => w / 2 ^ (48 + a) % 2 == 1 }

/-- A descriptor's 128 bytes. -/
def collDesc (b : List Byte) : CollDesc :=
  { raw := b, axes := (List.range (min 4 (rawNum b 8 1 % 8))).map fun a => axisOf (rawNum b (2 * a) 2)
    src := layoutOf (rawNum b 16 8), dst := layoutOf (rawNum b 24 8), lens := (List.range 4).map fun d => rawNum b (32 + 4 * d) 4
    rank := rawNum b 48 1 }

def CollDesc.etype (x : CollDesc) : Nat := x.num 49 1
def CollDesc.ringdst (x : CollDesc) : Bool := x.num 50 1 % 2 == 1
def CollDesc.id (x : CollDesc) : BitVec 32 := BitVec.ofNat 32 (x.num 52 4)
def CollDesc.srcVa (x : CollDesc) : VAddr := BitVec.ofNat 56 (x.num 56 8)
def CollDesc.dstVa (x : CollDesc) : VAddr := BitVec.ofNat 56 (x.num 64 8)
def CollDesc.donectr (x : CollDesc) : VAddr := BitVec.ofNat 56 (x.num 96 8)

/-- Bytes of an element. -/
def CollDesc.esz (x : CollDesc) : Nat := [4, 4, 2, 1, 8].getD x.etype 1

/-! ## Participants (R45, R46) -/

/-- The coordinate tuples of axes, the first axis major. -/
def tuples (l : List Axis) : List (List Nat) :=
  match l with
  | [] => [[]]
  | a :: r => (List.range a.size).flatMap fun i => (tuples r).map (i :: ·)

def CollDesc.coords (x : CollDesc) : List (List Nat) := tuples x.axes

/-- A physical coordinate: the base and the strides of the axes of its kind. -/
def CollDesc.along (x : CollDesc) (base dim : Nat) (q : List Nat) : Nat :=
  (x.axes.zip q).foldl (fun n (a, c) => if a.dim = dim then n + c * a.stride else n) base

/-- Module row, module column and die of a participant. -/
def CollDesc.place (x : CollDesc) (q : List Nat) : Nat × Nat × Nat :=
  (x.along (x.num 9 1 % 64) 0 q, x.along (x.num 10 1 % 64) 1 q, x.along (x.num 11 1 % 8) 2 q)

/-- The mesh is valid (R46). -/
def CollDesc.meshOk (s : State) (x : CollDesc) : Bool :=
  let n := x.num 8 1 % 8
  let ps := x.coords.map x.place
  decide (1 ≤ n) && decide (n ≤ 4) && x.num 8 1 / 8 == 0 && x.num 9 1 / 64 == 0 && x.num 10 1 / 64 == 0 && x.num 11 1 / 8 == 0
    && x.num 12 4 == 0 && x.axes.all (fun a => a.dim != 3 && a.size != 0)
    && ps.all (fun (r, c, d) => decide (r < 64) && decide (c < 64) && decide (d < 8) && inMesh s r c) && decide ps.Nodup

/-- The module of a participant, as its number (R7). -/
def CollDesc.moduleOf (x : CollDesc) (q : List Nat) : Nat := let (r, c, _) := x.place q; r * 64 + c

/-- The die of a participant on this module. -/
def CollDesc.dieOn (s : State) (x : CollDesc) (q : List Nat) : Option Nat :=
  if x.moduleOf q = s.modNum.toNat then some (x.place q).2.2 else none

/-- The participants of this module: coordinates and die. -/
def CollDesc.here (s : State) (x : CollDesc) : List (List Nat × Nat) := x.coords.filterMap fun q => (x.dieOn s q).map fun d => (q, d)

/-! ## Layouts (R47–R49) -/

/-- Size of an axis. -/
def CollDesc.size (x : CollDesc) (a : Nat) : Nat := (x.axes[a]?.map (·.size)).getD 1

/-- The product of the sizes of a list's axes. -/
def CollDesc.sizes (x : CollDesc) (l : List Nat) : Nat := l.foldl (fun n a => n * x.size a) 1

/-- The fields of a layout word keep their limits (R47). -/
def layoutFields (w : Nat) : Bool :=
  w / 2 ^ 52 == 0 && (List.range 4).all fun d =>
    let es := (List.range 4).map fun k => w / 8 ^ (4 * d + k) % 8
    es.all (fun e => e < 4 || e == 7) && (es.dropWhile (· != 7)).all (· == 7)

/-- A layout word is valid (R48). -/
def CollDesc.layoutOk (x : CollDesc) (w : Nat) : Bool :=
  let l := layoutOf w
  let named := l.lists.flatten ++ l.partials
  layoutFields w && decide named.Nodup && named.all (· < x.axes.length)
    && (List.range 4).all fun d => (decide (d < x.rank) || (l.lists.getD d []).isEmpty) && x.lens.getD d 1 % x.sizes (l.lists.getD d []) == 0

/-- The shard index of a participant along a dimension (R49). -/
def CollDesc.shardIdx (x : CollDesc) (l : List Nat) (q : List Nat) : Nat := l.foldl (fun n a => n * x.size a + q.getD a 0) 0

/-- Length of a shard along a dimension. -/
def CollDesc.shardLen (x : CollDesc) (l : Layout) (d : Nat) : Nat := x.lens.getD d 1 / x.sizes (l.lists.getD d [])

/-- Elements and bytes of a shard. -/
def CollDesc.elems (x : CollDesc) (l : Layout) : Nat := (List.range 4).foldl (fun n d => n * x.shardLen l d) 1
def CollDesc.bytes (x : CollDesc) (l : Layout) : Nat := x.elems l * x.esz

/-- The tensor indices of element i of a participant's shard: dimension 0 outermost. -/
def CollDesc.tensorIdx (x : CollDesc) (l : Layout) (q : List Nat) (i : Nat) : List Nat :=
  let n (d : Nat) : Nat := x.shardLen l d
  let inner : List Nat := [n 1 * n 2 * n 3, n 2 * n 3, n 3, 1]
  (List.range 4).map fun d => x.shardIdx (l.lists.getD d []) q * n d + i / inner.getD d 1 % n d

/-- A shard holds an index along every dimension. -/
def CollDesc.holds (x : CollDesc) (l : Layout) (q idx : List Nat) : Bool :=
  (List.range 4).all fun d => idx.getD d 0 / x.shardLen l d == x.shardIdx (l.lists.getD d []) q

/-- The place of an index in the shard that holds it. -/
def CollDesc.localIdx (x : CollDesc) (l : Layout) (idx : List Nat) : Nat :=
  (List.range 4).foldl (fun n d => n * x.shardLen l d + idx.getD d 0 % x.shardLen l d) 0

/-! ## Result (R53) -/

/-- The axes that a collective reduces. -/
def CollDesc.reduced (x : CollDesc) : List Nat := x.src.partials.filter fun a => !x.dst.partials.contains a

/-- The axes that a collective fills with zeros off coordinate 0. -/
def CollDesc.filled (x : CollDesc) : List Nat := x.dst.partials.filter fun a => !x.src.partials.contains a

/-- The participants whose values make an element of participant p's destination: those that hold it, with p's
coordinates on the axes that no source list names and the collective does not reduce. -/
def CollDesc.group (x : CollDesc) (p idx : List Nat) : List (List Nat) :=
  let fixed := (List.range x.axes.length).filter fun a => !x.src.lists.flatten.contains a && !x.reduced.contains a
  x.coords.filter fun q => x.holds x.src q idx && fixed.all fun a => q.getD a 0 == p.getD a 0

/-- The modules of a group. -/
def CollDesc.modules (x : CollDesc) (g : List (List Nat)) : List Nat := (g.map x.moduleOf).eraseDups

/-- A group's number, by the coordinates of its first member. -/
def CollDesc.groupNum (x : CollDesc) (g : List (List Nat)) : Nat :=
  ((g.headD []).zipIdx).foldl (fun n (c, a) => n * x.size a + c) 0

/-- Number of a 64-element block of a group. -/
def blockNum (group b : Nat) : Nat := group * 2 ^ 40 + b

/-- The participant of a die. -/
def Coll.part? (k : Coll) (d : Nat) : Option CollPart := k.parts.find? (·.die == d)

/-- The descriptor of a collective. -/
def Coll.desc (k : Coll) : CollDesc := collDesc ((k.parts.head?.map (·.desc)).getD [])

/-- An element of a participant's source. -/
def CollPart.elem (p : CollPart) (esz i : Nat) : Nat := leNat ((p.src.drop (esz * i)).take esz)

/-- The element, or an element of its block, of a participant's source is poisoned (R64). -/
def CollPart.bad (p : CollPart) (esz i n : Nat) : Bool := ((p.pois.drop (esz * i)).take (esz * n)).any id

/-- The sum of two leaves of a group. -/
def collAdd (etype : Nat) (a b : BitVec 32) : BitVec 32 := if etype = 0 then (fadd32 a b).1 else a + b

/-- TREESUM over leaves lo to lo + 2^k − 1, of the leaves present: index and value. -/
def treesum (etype : Nat) (l : List (Nat × BitVec 32)) (lo k : Nat) : Option (BitVec 32) :=
  match k with
  | 0 => (l.find? (·.1 == lo)).map (·.2)
  | k + 1 =>
    match treesum etype l lo k, treesum etype l (lo + 2 ^ k) k with
    | some a, some b => some (collAdd etype a b)
    | some a, none => some a
    | none, b => b

/-- This module's sum of element i of a group (R53, step 1). -/
def Coll.moduleSum (s : State) (k : Coll) (g : List (List Nat)) (i : Nat) : BitVec 32 :=
  let x := k.desc
  let l := g.filterMap fun q => (x.dieOn s q).bind fun d => (k.part? d).map fun p => (d, BitVec.ofNat 32 (p.elem x.esz i))
  (treesum x.etype l 0 3).getD 0

/-- What is known of an element: its value and whether it is poisoned; or its block's reduction is still awaited; or
another module sends it. -/
inductive Elem where
  | known (v : Nat) (pois : Bool)
  | awaited
  | sent
deriving DecidableEq, Repr

/-- Element i of the destination of the participant at coordinates p. -/
def Coll.elem (s : State) (k : Coll) (p : List Nat) (i : Nat) : Elem :=
  let x := k.desc
  let idx := x.tensorIdx x.dst p i
  if x.filled.any (fun a => p.getD a 0 != 0) then .known 0 false
  else
    let g := x.group p idx
    let j := x.localIdx x.src idx
    let mine := g.filterMap fun q => (x.dieOn s q).bind k.part?
    let b := j / 64
    let bad := mine.any fun q => q.bad x.esz (64 * b) 64
    if x.reduced.isEmpty then
      match (x.dieOn s (g.headD [])).bind k.part? with
      | some q => .known (q.elem x.esz j) (q.bad x.esz j 1)
      | none => .sent
    else if (x.modules g).length = 1 then
      if mine.isEmpty then .sent else .known (k.moduleSum s g j).toNat bad
    else match k.pass2.find? (·.1 == blockNum (x.groupNum g) b) with
      | some (_, ys) => .known (ys.getD (j % 64) 0).toNat bad
      | none => if mine.isEmpty then .sent else .awaited

/-! ## Starting (R51, R56, R420) -/

/-- The rings of a participant die. -/
def CollDesc.rings (x : CollDesc) (d : Nat) : List Ring :=
  let mask := x.num 72 16
  (List.range 128).filterMap fun i => if mask / 2 ^ i % 2 = 1 then some ⟨clusterCore (d * 6 + x.num 51 1) i, x.num 88 2⟩ else none

/-- The rings meet R56 for a start by core L. R56 lists three conditions; the model holds a named core outside the context, a descriptor
that fails R195 and an empty mask to break them too (DEDUCED, log entry 32). -/
def collRingsOk (s : State) (L : Nat) (rs : List Ring) : Bool :=
  let r0 := rs.headD ⟨0, 0⟩
  !rs.isEmpty && rs.all fun r =>
    inCtx s (s.ctxOfCore L) (clusterOf r.core) && ringValid s r && ringSsz s r == ringSsz s r0 && ringLog2n s r == ringLog2n s r0
      && ringNprod s r == 1 && idCore (ringProd s r 0) == idCore (s.coreId L 0) && (!ringStrict s r || ringLayout s r == 0)

/-- A reserved ETYPE or field (R50, R51). -/
def CollDesc.reservedOk (x : CollDesc) : Bool :=
  decide (x.etype ≤ 4) && decide (x.num 50 1 < 2) && (!x.ringdst || decide (x.num 51 1 ≤ 5)) && decide (1 ≤ x.rank) && decide (x.rank ≤ 4)
    && x.num 90 6 == 0 && x.num 104 24 == 0 && (List.range 4).all fun d => decide (d < x.rank) || x.lens.getD d 1 == 1

/-- The checks of a start on die d by core L, in the order of R420 and R51. -/
def collChecks (s : State) (L : Nat) (x : CollDesc) : Chk Unit := do
  let d := dieOf L
  need (x.meshOk s) 0x0E0
  need (x.layoutOk (x.num 16 8) && x.layoutOk (x.num 24 8)) 0x0E1
  need ((List.range x.rank).all fun i => x.lens.getD i 1 != 0) 0x0EE
  need (decide (x.bytes x.src ≤ 2 ^ 40) && decide (x.bytes x.dst ≤ 2 ^ 40)) 0x0EE
  need ((x.here s).any (·.2 == d)) 0x0E2
  need (!((s.ctx (s.ctxNum L)).colls.any fun k => k.id == x.id && k.parts.any fun p => p.die == d && !p.done)) 0x0E3
  if 16 ≤ collsOn s d then wait .collective
  need x.reservedOk 0x0E1
  need (x.reduced.isEmpty || decide (x.etype < 2)) 0x0E1
  if x.ringdst then need (collRingsOk s L (x.rings d)) 0x0E6
  else
    need (!overlap x.srcVa (x.bytes x.src) x.dstVa (x.bytes x.dst) || (x.srcVa == x.dstVa && x.bytes x.src == x.bytes x.dst)) 0x0E4

/-- A die joins the collective of its context and COLLID that still gathers its participants, or opens it. -/
def joinColl (l : List Coll) (id : BitVec 32) (p : CollPart) : List Coll :=
  let open_ (k : Coll) : Bool := k.id == id && !k.agreed && !(k.parts.any (·.die == p.die))
  if l.any open_ then updFirst open_ (fun k => { k with parts := k.parts ++ [p] }) l else l ++ [{ id, parts := [p] }]

/-- The start: of a participant of a collective whose descriptors have been found to differ, it ends at once (R52, R65). -/
def startColl (s : State) (c : Nat) (id : BitVec 32) (p : CollPart) : State :=
  if (s.ctx c).collLate.contains (id, p.die) then
    (s.modCtx c fun y => { y with collLate := y.collLate.erase (id, p.die) }).setTag p.core p.tag 0x0E5 true false
  else s.modCtx c fun y => { y with colls := joinColl y.colls id p }

/-- CSTART (R420): a release of the core's earlier accesses (R62). -/
def execCstart (o : OpM2) (s : State) : Host.Outcome State Fault Refusal :=
  finish s do
    let va := s.addrG o.s
    need (va.toNat % 64 = 0) 0x03D (va.setWidth 64)
    let ps ← resolveRange s (s.party s.L) va 128 .read
    piecesGo s ps false
    need (!piecesPoisoned s ps) 0x120
    let b := viewPieces s s.L ps
    let tag ← tagCheck s s.L (s.getG o.d)
    let x := collDesc b
    collChecks s s.L x
    writeGo s noGran true
    watchRange s va 128 true false
    let p : CollPart := { die := dieOf s.L, core := s.L, tag, desc := b, nf := s.nfCfg }
    return (startColl (takeTag s s.L tag none) s.myCtx x.id p).advance

/-! ## The end of a collective (R62, R65) -/

/-- The first collective of a context with a COLLID that satisfies a test. -/
def State.coll? (s : State) (c : Nat) (id : BitVec 32) (p : Coll → Bool) : Option Coll :=
  (s.ctx c).colls.find? fun k => k.id == id && p k

/-- Replaces a collective. -/
def State.setColl (s : State) (c : Nat) (k k' : Coll) : State :=
  s.modCtx c fun x => { x with colls := updFirst (· == k) (fun _ => k') x.colls }

def State.dropColl (s : State) (c : Nat) (k : Coll) : State := s.modCtx c fun x => { x with colls := x.colls.erase k }

/-- The engines of a collective's cores run. -/
def collRuns (s : State) (k : Coll) : Bool := k.parts.all fun p => !enginesHeld s p.core

/-- Ends a collective in failure on this module (R65); of one that is complete here nothing is left to fail. -/
def failColl (s : State) (c : Nat) (k : Coll) (cause : Cause) (addr : Word := 0) : State :=
  let open_ := k.parts.filter (!·.done)
  let s := open_.foldl (fun s p => s.setTag p.core p.tag cause true false addr) (s.dropColl c k)
  { s with collAbort := s.collAbort || !open_.isEmpty }

/-- A participant's module has entered reset or cannot be reached (R39, R65). -/
def abortColl (s : State) (c : Nat) (id : BitVec 32) : State :=
  ((s.ctx c).colls.filter (·.id == id)).foldl (fun s k => failColl s c k 0x0E8) s

/-- COLL_FAIL. -/
def execCollFail (s : State) : Host.Outcome State Fault Refusal :=
  .next (match s.ev with
    | .collFail c id cause => match s.coll? c id fun _ => true with | some k => failColl s c k cause | none => s
    | _ => s)

/-- The planner's steps (R54): each row of its table that applies counts once, and a gather with a slice of the same
axis as one. -/
def CollDesc.steps (x : CollDesc) : Nat :=
  let red := x.reduced
  let dims := List.range 4
  let L (l : Layout) (d : Nat) : List Nat := l.lists.getD d []
  let after (d : Nat) : List Nat := L x.src d ++ (L x.dst d).filter red.contains
  let scatter := !red.isEmpty && dims.all (fun d => (after d).isPrefixOf (L x.dst d)) && red.all fun a => x.dst.lists.flatten.contains a
  let cur (d : Nat) : List Nat := if scatter then after d else L x.src d
  let common (d : Nat) : List Nat := ((cur d).zip (L x.dst d)).takeWhile (fun (a, b) => a == b) |>.map (·.1)
  let gathered := dims.flatMap fun d => (cur d).drop (common d).length
  let sliced := dims.flatMap fun d => (L x.dst d).drop (common d).length
  let fused := gathered.any sliced.contains
  let count (b : Bool) : Nat := b.toNat
  count (!red.isEmpty) + count fused + count (gathered.any fun a => !sliced.contains a) + count (sliced.any fun a => !gathered.contains a)
    + count (!x.filled.isEmpty)

/-! ## What this module still does for others (R55, R61) -/

/-- The identifier that stands for a participant's die in messages. -/
def CollDesc.idOf (x : CollDesc) (q : List Nat) : CoreId := BitVec.ofNat 32 (x.moduleOf q * 65536 + (x.place q).2.2 * 8192)

/-- Every participant on another module has been sent its whole destination: its own ready-to-receives say how much. -/
def Coll.served? (s : State) (k : Coll) : Bool :=
  let x := k.desc
  k.asked.isEmpty && (x.coords.filter fun q => (x.dieOn s q).isNone).all fun q =>
    decide (x.bytes x.dst ≤ (k.served.filter (·.dst == x.idOf q)).foldl (fun n a => n + a.len) 0)

/-- The groups over several modules that this module is a member of. -/
def Coll.wideGroups (s : State) (k : Coll) : List (List (List Nat)) :=
  let x := k.desc
  if x.reduced.isEmpty then []
  else (((x.coords.filter fun q => (x.dieOn s q).isSome).map fun q => x.group q (x.tensorIdx x.src q 0)).eraseDups).filter fun g =>
    decide (2 ≤ (x.modules g).length)

/-- Every block of the module's groups has been through the gateway, and counts where it is not finite (R61). -/
def Coll.reduced? (s : State) (k : Coll) : Bool :=
  (k.wideGroups s).all fun g => (List.range ((k.desc.elems k.desc.src + 63) / 64)).all fun b =>
    k.pass2.any (·.1 == blockNum (k.desc.groupNum g) b)

/-- A collective whose destinations here are full goes once the other modules need nothing of it. -/
def tidyColl (s : State) (c : Nat) (k : Coll) : State :=
  if k.parts.all (·.done) && k.served? s && k.reduced? s then s.dropColl c k else s

/-- This module sends element i of the destination of a participant elsewhere: its group's first member is here, and the participant's
module has no part of its own in the sum. -/
def Coll.owed (s : State) (k : Coll) (q : List Nat) (i : Nat) : Bool :=
  let x := k.desc
  let g := x.group q (x.tensorIdx x.dst q i)
  !x.filled.any (fun a => q.getD a 0 != 0) && (x.dieOn s (g.headD [])).isSome
    && (x.reduced.isEmpty || !g.any fun m => x.moduleOf m == x.moduleOf q)

/-- Adds an element's bytes at an offset to runs of bytes, the last run first. -/
def addRun (l : List (Nat × List Byte)) (o : Nat) (b : List Byte) : List (Nat × List Byte) :=
  match l with
  | (k, r) :: t => if k + r.length = o then (k, r ++ b) :: t else (o, b) :: l
  | [] => [(o, b)]

/-- What this module has of a chunk, elements lo to lo + n − 1 of the destination of a participant elsewhere: runs of bytes and poisoned
lines. None while a reduction is awaited. -/
def Coll.outgoing (s : State) (k : Coll) (q : List Nat) (lo n : Nat) : Option (List (Nat × List Byte) × List Nat) :=
  let esz := k.desc.esz
  let es := ((List.range n).filter fun i => k.owed s q (lo + i)).map fun i => (i, k.elem s q (lo + i))
  if es.any (·.2 == .awaited) then none
  else
    let (runs, pois) := es.foldl (init := (([] : List (Nat × List Byte)), ([] : List Nat))) fun (runs, pois) (i, e) =>
      match e with
      | .known v b => (addRun runs (esz * i) (leBytes esz v), if b then insNat pois (esz * i / 64) else pois)
      | _ => (runs, pois)
    some (runs.reverse, pois)

/-- The sending engine writes a chunk that has been asked for (R55, step 2): none while it cannot yet. -/
def sendChunk (s : State) (c : Nat) (k : Coll) (a : CollAsk) : Option State :=
  let x := k.desc
  match x.coords.find? (x.idOf · == a.dst), k.parts.head? with
  | some q, some p =>
    let per := a.len / x.esz
    let lo := (if x.ringdst then a.len else 0x10000) / x.esz * a.chunk
    (k.outgoing s q lo (min per (x.elems x.dst - lo))).map fun (runs, pois) =>
      if runs.isEmpty then s else bookMsg s p.die c a.dst (.chunk k.id a.chunk a.addr runs pois)
  | _, _ => some s

/-- Serves what has been asked for, in order, as far as it is there. -/
def serveAsked (s : State) (c : Nat) (k : Coll) : State :=
  if !k.agreed || !collRuns s k then s
  else
    let (s, k') := k.asked.foldl (init := (s, { k with asked := [] })) fun (s, k') a =>
      match sendChunk s c k a with
      | some s => (s, { k' with served := k'.served ++ [a] })
      | none => (s, { k' with asked := k'.asked ++ [a] })
    let s := s.setColl c k k'
    tidyColl s c k'

/-- A ready-to-receive arrives from another module. -/
def readyArrive (s : State) (m : Msg) : State :=
  match m.body with
  | .ready b =>
    match s.coll? m.ctx (BitVec.ofNat 32 (rawNum b 0 4)) fun k => !k.served? s with
    | none => s
    | some k =>
      let k' := { k with asked := k.asked ++ [{ dst := m.src, chunk := rawNum b 5 3, addr := BitVec.ofNat 56 (rawNum b 8 8), len := rawNum b 16 4 }] }
      serveAsked (s.setColl m.ctx k k') m.ctx k'
  | _ => s

/-- COLL_COMPLETE: DONECTR counts as a release, then the tag is set. A counter that cannot be reached ends the
collective with its cause (R278). R62 states no alignment of DONECTR: the model counts in the four bytes where they lie (DESIGN CHOICE,
log entry 32). -/
def execCollComplete (s : State) : Host.Outcome State Fault Refusal :=
  .next (match s.ev with
    | .collComplete c id d =>
      let ready (k : Coll) : Bool := k.agreed && k.parts.any fun p => p.die == d.val && !p.done
      match s.coll? c id ready with
      | none => s
      | some k =>
        match k.part? d with
        | none => s
        | some p =>
          let x := collDesc p.desc
          let n := if x.ringdst then slotBytes s ((x.rings d).headD ⟨0, 0⟩) else 0x10000
          if enginesHeld s p.core || p.got.length * n < x.bytes x.dst || (x.donectr != 0 && counterHeld s c x.donectr) then s
          else
            match (if x.donectr = 0 then .ok s else countUp s c x.donectr) with
            | .error cause => failColl s c k cause (x.donectr.setWidth 64)
            | .ok s =>
              let s := s.setTag p.core p.tag 0 false false
              let k' := { k with parts := updFirst (fun q => q.die == d.val) (fun q => { q with done := true }) k.parts }
              let s := s.setColl c k k'
              if k'.parts.all (·.done) then tidyColl { s with collSteps := s.collSteps + BitVec.ofNat 8 x.steps } c k' else s
    | _ => s)

/-! ## Data (R52, R55–R61) -/

/-- The bytes of a descriptor that its participants compare. -/
def collCompared (b : List Byte) : List Byte := b.take 50 ++ (b.drop 52).take 4

/-- Reads a participant's source shard. -/
def readSource (s : State) (p : CollPart) : Chk CollPart := do
  let x := collDesc p.desc
  let ps ← resolveRange s (s.engineOf p.core) x.srcVa (x.bytes x.src) .read
  return { p with src := readPieces s ps, pois := poisonBytes s ps }

/-- Every participant that a descriptor names has started: the dies of this module, and `n` participants in all. -/
def Coll.started (s : State) (k : Coll) (n : Nat) (b : List Byte) : Bool :=
  let x := collDesc b
  (x.here s).all (fun q => k.parts.any (·.die == q.2)) && decide (x.coords.length ≤ n)

/-- The descriptors differ: the collective ends on every participant, those that have not started among them (R52). -/
def mismatchColl (s : State) (c : Nat) (k : Coll) : State :=
  let named := (k.parts.flatMap fun p => ((collDesc p.desc).here s).map (·.2)).eraseDups
  let late := named.filter fun d => !k.parts.any (·.die == d)
  (failColl s c k 0x0E5).modCtx c fun x => { x with collLate := x.collLate ++ late.map fun d => (k.id, d) }

/-- COLL_DESCRIPTOR_COMPARE: every participant that one of the descriptors names has started. `peers`: the descriptors of other
modules. The sources are read once all agree. -/
def execCollDescriptorCompare (s : State) : Host.Outcome State Fault Refusal :=
  .next (match s.ev with
    | .collDescriptorCompare c id peers =>
      match s.coll? c id (!·.agreed) with
      | none => s
      | some k =>
        let all := k.parts.map (·.desc) ++ peers
        if !all.any (k.started s all.length) || !collRuns s k then s
        else if (all.map collCompared).any (· != (all.map collCompared).headD []) then mismatchColl s c k
        else match k.parts.mapM (readSource s) with
          | .ok ps =>
            let k' := { k with parts := ps, agreed := true }
            serveAsked (s.setColl c k k') c k'
          | .error e => failColl s c k (stopCause e) (stopAddr e)
    | _ => s)

/-- The chunks of a participant's destination, by bytes of a chunk. -/
def chunkCount (bytes n : Nat) : Nat := (bytes + n - 1) / n

/-- The 32 bytes of a ready-to-receive message (R55). -/
def readyBytes (id step chunk : BitVec 32) (va : VAddr) (len : Nat) : List Byte :=
  leBytes 4 id.toNat ++ leBytes 1 step.toNat ++ leBytes 3 chunk.toNat ++ leBytes 8 va.toNat ++ leBytes 4 len ++ leBytes 12 0

/-- The other modules of a collective's mesh. -/
def CollDesc.otherModules (s : State) (x : CollDesc) : List Nat := ((x.coords.map x.moduleOf).filter (· != s.modNum.toNat)).eraseDups

/-- Sends ready-to-receive for a chunk to the sending engines of other modules (R55); those of this module see it at once. R55 says
neither which engines hear it nor how its step counts: the model sends it to every other module of the mesh, under the identifier of its
die 0, with the planner's last step, which writes the destination, steps counted from 0 (DESIGN CHOICE, log entry 32). A chunk for
rings has the length of a slot (R56). -/
def sendReady (s : State) (c : Nat) (x : CollDesc) (d chunk n : Nat) : State :=
  let len := if x.ringdst then n else min n (x.bytes x.dst - n * chunk)
  let va : VAddr := if x.ringdst then 0 else x.dstVa + BitVec.ofNat 56 (n * chunk)
  let body : MsgBody := .ready (readyBytes x.id (BitVec.ofNat 32 (x.steps - 1)) (BitVec.ofNat 32 chunk) va len)
  (x.otherModules s).foldl (init := s) fun s m => bookMsg s d c (BitVec.ofNat 32 (m * 65536)) body

/-- COLL_READY_TO_RECEIVE: a chunk in memory, or one for which every named ring has a free slot; or one that another module is ready
for, which its sending engine here then writes. -/
def execCollReadyToReceive (s : State) : Host.Outcome State Fault Refusal :=
  .next (match s.ev with
    | .collReadyToReceive _ _ _ _ (some m) => if idModule m.src = s.modNum.toNat then s else readyArrive s m
    | .collReadyToReceive c id d chunk none =>
      let ok (k : Coll) : Bool := k.agreed && k.parts.any fun p => p.die == d.val && !p.done && !p.got.contains chunk && !p.ready.contains chunk
      match s.coll? c id ok with
      | none => s
      | some k =>
        match k.part? d with
        | none => s
        | some p =>
          let x := collDesc p.desc
          let rs := x.rings d
          let n := if x.ringdst then slotBytes s (rs.headD ⟨0, 0⟩) else 0x10000
          let room := !x.ringdst || (rs.all (fun r => decide (p.ready.length < freeSlots s r 0)) && chunk == p.got.length + p.ready.length)
          if chunk < chunkCount (x.bytes x.dst) n ∧ room ∧ !enginesHeld s p.core then
            (sendReady s c x d.val chunk n).setColl c k { k with parts := updFirst (fun q => q.die == d.val) (fun q => { q with ready := q.ready ++ [chunk] }) k.parts }
          else s
    | _ => s)

/-- The bytes of elements lo to lo + n − 1 of a destination, with their poison: what this module knows, and over the
rest what other modules send. None while a reduction is awaited. -/
def Coll.piece (s : State) (k : Coll) (p : List Nat) (lo n : Nat) (data : List Byte) (pois : List Nat) : Option (List Byte × List Bool) :=
  let esz := k.desc.esz
  let es := (List.range n).map fun i => (i, k.elem s p (lo + i))
  if es.any (·.2 == .awaited) then none
  else
    let sent (i : Nat) : Bool := pois.contains (esz * i / 64)
    let byte (e : Nat × Elem) : List Byte × List Bool :=
      match e.2 with
      | .known v b => (leBytes esz v, List.replicate esz (b || sent e.1))
      | _ => (leBytes esz (leNat ((data.drop (esz * e.1)).take esz)), List.replicate esz (sent e.1))
    let l := es.map byte
    some (l.flatMap (·.1), l.flatMap (·.2))

/-- Lines poisoned by a collective (R64, R115). -/
def collPoison (s : State) (ls : List Nat) : State :=
  if ls.isEmpty then s else { ls.foldl (fun s l => s.poisonLine (l * 64) 64 2) s with collPois := true }

/-- Writes a chunk into the next free slot of a ring and credits it (R57). -/
def chunkToRing (s : State) (r : Ring) (b : List Byte) (pois : List Bool) : Chk State := do
  let i := ringHead s r + cursor s r 0
  let ps ← slotPieces s r 2 i .write
  let s := collPoison (applyPuts s none (layoutPuts ps 0 0 b)) (flaggedLines (pieceKey ps) pois)
  match credit s r (ringProd s r 0) (slotBytes s r) (pois.any id) none with
  | .ok s => return s
  | .error c => trapA c (BitVec.ofNat 64 r.off)

/-- Writes a chunk into every ring of a die. -/
def chunkToRings (s : State) (rs : List Ring) (b : List Byte) (pois : List Bool) : Chk State :=
  match rs with
  | [] => .ok s
  | r :: rest => do chunkToRings (← chunkToRing s r b pois) rest b pois

/-- A reservation holds back what a chunk writes (R241): the ring's descriptor and slot, or the destination. -/
def chunkHeld (s : State) (p : CollPart) (rs : List Ring) (va : VAddr) (n : Nat) : Bool :=
  let held (r : Chk (List (Loc × Nat))) : Bool := match r with | .ok ps => ps.any fun (l, m) => s.heldRange none l.key m | .error _ => false
  if rs.isEmpty then held (resolveRange s (s.engineOf p.core) va n .write)
  else rs.any fun r => ringHeld s none r || held (slotPieces s r 2 (ringHead s r + cursor s r 0) .write)

/-- COLL_CHUNK_ARRIVE. -/
def execCollChunkArrive (s : State) : Host.Outcome State Fault Refusal :=
  .next (match s.ev with
    | .collChunkArrive c id d chunk data pl =>
      let ok (k : Coll) : Bool := k.agreed && k.parts.any fun p => p.die == d.val && p.ready.contains chunk
      match s.coll? c id ok with
      | none => s
      | some k =>
        match k.part? d, ((k.desc).here s).find? (·.2 == d.val) with
        | some p, some (q, _) =>
          let x := collDesc p.desc
          let rs := x.rings d
          let n := if x.ringdst then slotBytes s (rs.headD ⟨0, 0⟩) else 0x10000
          let per := n / x.esz
          if enginesHeld s p.core ∨ (x.ringdst ∧ chunk ≠ p.got.length) then s
          else match k.piece s q (per * chunk) (min per (x.elems x.dst - per * chunk)) data pl with
            | none => s
            | some (b, pois) =>
              if chunkHeld s p (if x.ringdst then rs else []) (x.dstVa + BitVec.ofNat 56 (n * chunk)) b.length then s
              else
              let res := if x.ringdst then chunkToRings s rs (b ++ List.replicate (n - b.length) 0) pois
                else (resolveRange s (s.engineOf p.core) (x.dstVa + BitVec.ofNat 56 (n * chunk)) b.length .write).map fun ps =>
                  collPoison (writePieces s none ps b) (flaggedLines (pieceKey ps) pois)
              match res with
              | .error e => failColl s c k (stopCause e) (stopAddr e)
              | .ok s =>
                let took (q : CollPart) : CollPart := { q with ready := q.ready.erase chunk, got := q.got ++ [chunk] }
                s.setColl c k { k with parts := updFirst (fun q => q.die == d.val) took k.parts }
        | _, _ => s
    | _ => s)

/-! ## The gateway (R58–R61) -/

/-- The group and the block that a number names, where it spans modules and this one has a part of it. -/
def Coll.block? (s : State) (k : Coll) (n : Nat) : Option (List (List Nat) × Nat) :=
  let x := k.desc
  let b := n % 2 ^ 40
  let g? := ((x.coords.filter fun q => (x.dieOn s q).isSome).map fun q => x.group q (x.tensorIdx x.src q 0)).find? fun g => x.groupNum g == n / 2 ^ 40
  g?.bind fun g => if b * 64 < x.elems x.src ∧ 2 ≤ (x.modules g).length ∧ !x.reduced.isEmpty then some (g, b) else none

/-- The module's sums of a block, padded with +0.0. -/
def Coll.blockSums (s : State) (k : Coll) (g : List (List Nat)) (b : Nat) : List (BitVec 32) :=
  (List.range 64).map fun j => if 64 * b + j < k.desc.elems k.desc.src then k.moduleSum s g (64 * b + j) else 0

/-- The policy of a collective: COLL_NF when its first participant started. -/
def Coll.nf (k : Coll) : BitVec 2 := (k.parts.head?.map (·.nf)).getD 0

/-- One module's part of pass one, with its policy bits. -/
def modulePass (xs : List (BitVec 32)) (skip : Bool) : BitVec 8 × BitVec 8 × BitVec 32 :=
  let (e, f, n) := passOne xs
  (BitVec.ofNat 8 e, BitVec.ofNat 8 (f + policyBits skip), n)

/-- GATEWAY_PASS_ONE: with what the group's other modules found. -/
def execGatewayPassOne (s : State) : Host.Outcome State Fault Refusal :=
  .next (match s.ev with
    | .gatewayPassOne c id n peers =>
      match s.coll? c id fun k => k.agreed && k.desc.etype == 0 && !(k.pass1.any (·.1 == n)) with
      | none => s
      | some k =>
        match k.block? s n with
        | none => s
        | some (g, b) =>
          if peers.length + 1 ≠ (k.desc.modules g).length ∨ !collRuns s k then s
          else
            let all := modulePass (k.blockSums s g b) (k.nf.getLsbD 0) :: peers
            let e := all.foldl (fun m t => max m t.1.toNat) 0
            let f := all.foldl (fun m t => m ||| t.2.1) 0
            let m := all.foldl (fun m t => max m t.2.2.toNat) 0
            if f.getLsbD 6 && f.getLsbD 7 then failColl s c k 0x0E7
            else s.setColl c k { k with pass1 := k.pass1 ++ [(n, BitVec.ofNat 8 e, f, BitVec.ofNat 32 m)] }
    | _ => s)

/-- The count and the records of a non-finite block. -/
def countNonFinite (s : State) (c : Nat) (k : Coll) (b : Nat) : State :=
  let s := { s with nfCnt := if s.nfCnt = BitVec.allOnes 32 then s.nfCnt else s.nfCnt + 1 }
  if k.nf.getLsbD 1 then k.parts.foldl (fun s p => s.event p.die noSrc 8 c (detail2 k.id.toNat b)) s else s

/-- GATEWAY_PASS_TWO. `peers`: the other modules' integers of the block, or their sums where the type is INT32. -/
def execGatewayPassTwo (s : State) : Host.Outcome State Fault Refusal :=
  .next (match s.ev with
    | .gatewayPassTwo c id n peers =>
      match s.coll? c id fun k => k.agreed && !(k.pass2.any (·.1 == n)) && (k.desc.etype == 1 || k.pass1.any (·.1 == n)) with
      | none => s
      | some k =>
        match k.block? s n with
        | none => s
        | some (g, b) =>
          let P := (k.desc.modules g).length
          let xs := k.blockSums s g b
          let put (s : State) (ys : List (BitVec 32)) : State :=
            let k' := { k with pass2 := k.pass2 ++ [(n, ys)] }
            serveAsked (s.setColl c k k') c k'
          if !collRuns s k then s
          else if k.desc.etype = 1 then
            if peers.length + 1 ≠ P then s
            else put s (xs.zipIdx.map fun (x, j) => peers.foldl (fun a p => a + p.getD j 0) x)
          else match k.pass1.find? (·.1 == n) with
            | none => s
            | some (_, E, F, N) =>
              if F.extractLsb' 0 3 ≠ 0 then put (countNonFinite s c k b) (List.replicate 64 (nonFinite F.toNat N))
              else if peers.length + 1 ≠ P then s
              else
                let q := 24 - clog2 P
                let sum (x : BitVec 32) (j : Nat) : Int := peers.foldl (fun a p => a + (p.getD j 0).toInt) (quantise q E.toNat x)
                put s (xs.zipIdx.map fun (x, j) => dequantise q E.toNat (sum x j))
    | _ => s)

/-! ## The combining tree's events (R67, R70, R71) -/

/-- TREE_ROUND_COMPLETE. -/
def execTreeRoundComplete (s : State) : Host.Outcome State Fault Refusal :=
  .next (match s.ev with
    | .treeRoundComplete c => match s.round? c with | some r => if roundDone r then endRound s c r else s | none => s
    | _ => s)

/-- TREE_RESULT_DELIVER. -/
def execTreeResultDeliver (s : State) : Host.Outcome State Fault Refusal :=
  .next (match s.ev with
    | .treeResultDeliver L =>
      s.modCore L fun c =>
        match c.treeHeld with
        | e :: r => if c.treeOut.length < 4 then { c with treeOut := c.treeOut ++ [e], treeHeld := r } else c
        | [] => c
    | _ => s)

end Sys2Proof.Machine
end

