-- ==== Sys2Proof/Machine/Context.lean ====
section
/-! DEFINITION. Enabling and disabling contexts (spec/03_host_interface.md R81, R82, R104; spec/08 R219; R287, R292, R306)
and the CTX_ registers as a whole.
Log entries: 33 (DEDUCED); 18 (DEDUCED and DESIGN CHOICE). -/

namespace Sys2Proof.Machine

/-! ## Cores without fibres (R37, R82) -/

/-- The fibres of a core that has just been cleared: the urgent one idle at CORE_UVEC, the courier at its entry. -/
def Core.freshFibres (c : Core) : List (Nat × Fibre) :=
  [(0, { pc := c.uvec.setWidth 56 })
  , (1, { pc := (c.courier.extractLsb' 0 56) &&& ~~~1#56
          status := if c.defaultCourier then .waiting (.mailboxFull 0) else .ready })]

/-- A core without fibres, tasks, deques and engine operations. -/
def Core.cleared (c : Core) : Core :=
  let c : Core := { c with courier := c.courierNext.getD c.courier, courierNext := none }
  { c with
    fibres := c.freshFibres, slots := Vector.replicate 6 none, wb := [], idle := true
    shadowSt := .ready, shadowWake := none, shadowTrap := none, shadowPend := none, shadowNoBreak := false, shadowDue := 0, fence := 0, handler := none
    trapQ := [], treg := Vector.replicate 9 none, matchQ := []
    acc := c.acc.map fun a => { a with own := false }
    vec := none, mat := none, vecPaused := [], matPaused := [], matQ := [], stashes := []
    tasks := [], deques := Vector.replicate 4 [], dqHw := Vector.replicate 4 0, announced := false, stealIn := none
    stealTried := [], balIn := [], courierCmd := none, courierTask := none, courierDead := false
    treeIn := [], treeOut := [], treeHeld := [], fenced := false, stopped := false : Core }.dtDrain

/-- The atomics of a core that hold their grants complete; its other reservations end (R368). -/
def settleGrants (s : State) (L : Nat) : State :=
  let fs := 4096 :: (s.core L).fibres.map (·.1)
  let s := fs.foldl (fun s f => s.endReservations L f) s
  (s.grants.filter fun g => g.core == L).foldl (init := s) fun s g =>
    match g.op with
    | some o =>
      match atomicResult s o with
      | .ok (bs, _, _) => (s.homeWrite (some L) o.key bs).endGrant g
      | .error _ => s.endGrant g
    | none => s.endGrant g

/-- A copy is cut off (R417): its rings are credited with poison, and its tag is set. -/
def abortCopy (s : State) (o : CopyOp) : State :=
  let (s, fail) := copyFinish s (o.fail 0x0DC)
  copyOver s o fail

/-- The copies and the STASH and RESTORE operations of a core are cut off. -/
def abortEngines (s : State) (L : Nat) : State :=
  let mine := (s.cluster (clusterOf L)).copies.filter (·.core == L)
  let s := s.modCluster (clusterOf L) fun k => { k with copies := k.copies.filter (·.core != L) }
  let s := mine.foldl abortCopy s
  (s.core L).stashes.foldl (fun s o => s.setTag L o.tag 0x0DC true false) s

/-- Clears a core. -/
def clearCore (s : State) (L : Nat) : State := ((settleGrants (abortEngines s L) L).modCore L Core.cleared).dropOps L

/-! ## Disabling (R82) -/

/-- Completes an unfinished packet with ABORTED: a CHECKPOINT with each entry that it has not written. -/
def abortPacket (s : State) (c : Nat) (p : Packet) : State :=
  if p.kind = 7 then
    let s := if (s.ctx c).drain.any (·.pkt == p.id) then s else pktEntry s c p 4 0x16F 1
    pktDone s c p 4 0x16F 2
  else pktDone s c p 4 0x16F 0

/-- The books of a context are emptied (R164). -/
def emptyBooks (s : State) (c : Nat) : State :=
  (List.range 8).foldl (init := s) fun s d =>
    if (s.book d).state ≠ .empty ∧ (s.book d).ctx.toNat = c then (emptyBook s d).modBook d fun b => { b with flight := [] } else s

/-- Ends the collectives of a context. -/
def abortColls (s : State) (c : Nat) : State := (s.ctx c).colls.foldl (fun s k => failColl s c k 0x0E8) s

/-- The dump engine has work for the context. -/
def dumpPending (s : State) (c : Nat) : Bool := (s.dump.busy && s.dump.ctx.toNat == c) || s.dump.queue.any (·.1 == c)

/-- The effect of clearing EN on a stopped context. -/
def disableCtx (s : State) (c : Nat) : State :=
  let clusters := (s.ctx c).clusters
  let s := abortColls s c
  let s := (s.ctxCores c).foldl clearCore s
  let s := (s.ctx c).packets.foldl (fun s p => abortPacket s c p) (emptyBooks s c)
  let s := clusters.foldl resumeCluster s
  let s := { s with launches := s.launches.filter (·.ctx != c), todos := s.todos.filter (·.1 != c) }
  let sqOff (e : Nat × SubQ) : Nat × SubQ := (e.1, { e.2 with en := false, tries := 0 })
  let cqOff (e : Nat × CompQ) : Nat × CompQ := (e.1, { e.2 with en := false })
  s.modCtx c fun x =>
    { x with
      en := false, stopped := false, stopping := false, reasons := [], packets := [], rounds := [], collLate := [], ckpt := none, drain := none
      ckPhase := 0, cutting := false, fqHeld := x.fqHeld.filter (·.nofib)
      sqs := x.sqs.map sqOff
      cqs := x.cqs.map cqOff
      fq := { x.fq with en := false } }

/-- The windows of the peer-write aperture onto a context close (R104). -/
def shutWins (s : State) (c : Nat) : State :=
  let shut (e : Nat × PwWin) : Nat × PwWin :=
    (e.1, if (e.2.win.extractLsb' 1 6).toNat = c then { e.2 with win := e.2.win &&& ~~~1#64 } else e.2)
  { s with pwWins := s.pwWins.map shut }

/-- CTX_DISABLE: the stop, and once the context has stopped and is in no dump, the rest. -/
def ctxOff (s : State) (c : Nat) : State :=
  if !(s.ctx c).en then s
  else
    let s := shutWins (gangStop s c 0x158) c
    if (s.ctx c).stopped && !dumpPending s c then disableCtx s c else s

def execCtxDisable (s : State) : Host.Outcome State Fault Refusal :=
  .next (match s.hostEv with | .ctxDisable c => ctxOff s c | _ => s)

/-! ## Enabling (R82, R219) -/

/-- A rectangle in use is malformed. -/
def rectBad (r : Word) : Bool :=
  r.getLsbD 0 && (decide ((r.extractLsb' 4 3).toNat < (r.extractLsb' 1 3).toNat) || (r.getLsbD 7 && !r.getLsbD 8)
    || decide ((r.extractLsb' 11 2).toNat < (r.extractLsb' 9 2).toNat) || (r.extractLsb' 11 2).toNat == 3)

/-- The conditions of R82 and R219 on a write that sets EN. -/
def mayEnable (s : State) (c : Nat) : Bool :=
  let x := s.ctx c
  let pages := (x.ptPool.extractLsb' 0 12).toNat
  let a := x.poolBase
  x.rect.toList.any (·.getLsbD 0) && !x.rect.toList.any rectBad && x.clusters.all (fun k => (s.ownerOf k).isNone)
    && pages != 0 && (paRange a).isSome && paRange a == paRange (a + pages * 4096 - 1)
    && !paReserved a && !paReserved (a + pages * 4096 - 1)

/-- CTX_ENABLE: the pool is taken as empty, and the message counters of the context's cores begin again (R292). -/
def ctxOn (s : State) (c : Nat) : State :=
  if (s.ctx c).en then s
  else if !mayEnable s c then s.modCtx c fun x => { x with err := true }
  else
    let s := s.wr (s.ctx c).poolBase (List.replicate 4096 0)
    let s := s.modCtx c fun x => { x with en := true, err := false, ptUsed := [], useDs := 0, useHbm := 0, useLp := 0 }
    (s.ctxCores c).foldl (fun s L => s.modCore L fun k => { k with msgTx := 0, msgRx := 0, xmTx := 0, xmRx := 0 }) s

def execCtxEnable (s : State) : Host.Outcome State Fault Refusal :=
  .next (match s.hostEv with | .ctxEnable c lane v => if lane.mask.getLsbD 0 && v.getLsbD 0 then ctxOn s c else s | _ => s)

/-! ## CTX_ registers -/

/-- A write of a CTX_ register. CTX_FCMD acts on the bits that the access covers (R77). -/
def writeCtx (s : State) (c reg idx : Nat) (v mask : Word) : State :=
  match reg with
  | 0 => if !mask.getLsbD 0 then s else if v.getLsbD 0 then ctxOn s c else ctxOff s c
  | 22 => let w := v &&& mask; fcmd s c (w.extractLsb' 0 32) (w.extractLsb' 32 12).toNat (w.extractLsb' 44 2).toNat
  | 23 =>
    let s := if writes1 v mask 0 then gangStop s c 0x156 else s
    if writes1 v mask 1 ∧ !(s.ctx c).reasons.isEmpty ∧ (s.ctx c).reason = 0x156 then endStop s c 0x156 else s
  | _ => writeCtxPlain s c reg idx v mask

end Sys2Proof.Machine
end

