-- ==== Sys2Proof/Machine/Sha.lean ====
section
/-! DEFINITION. SHA-512 (spec/03_host_interface.md R108, R111; spec/04_resilience_and_checkpoint.md R129): the manual names the hash
and leaves its text to the standard.
Log entries: 8 (DESIGN CHOICE and PRESUMED). -/

namespace Sys2Proof.Machine

/-! ## Constants -/

/-- The largest r under 2 ^ n with r ^ k at most x, one bit at a time from the top. -/
def rootBits (k x n : Nat) (r : Nat := 0) : Nat :=
  match n with
  | 0 => r
  | n + 1 => rootBits k x n (if (r + 2 ^ n) ^ k ≤ x then r + 2 ^ n else r)

/-- The first 64 bits behind the point of the k-th root of p. -/
def rootFraction (k p : Nat) : Word := BitVec.ofNat 64 (rootBits k (p * 2 ^ (64 * k)) 70)

/-- The primes under 410: the first 80. -/
def shaPrimes : List Nat := (List.range 410).filter fun p => 2 ≤ p && (List.range 21).all fun d => decide (d < 2) || decide (p ≤ d) || decide (p % d ≠ 0)

/-- The round constants. -/
def shaRounds : List Word := shaPrimes.map (rootFraction 3)

/-- The words the hash starts from. -/
def shaStart : List Word := (shaPrimes.take 8).map (rootFraction 2)

/-! ## One block -/

/-- The exclusive or of a word turned right by each count. -/
def spins (w : Word) (l : List Nat) : Word := l.foldl (fun x n => x ^^^ w.rotateRight n) 0

/-- The working words, first named first, and the next 16 schedule words. -/
structure ShaLane where
  work : List Word
  next : List Word
deriving DecidableEq, Repr

/-- A round: every working word moves one place on, with the fourth raised and a new first one, and the schedule gives up its head
for the word 16 places on. -/
def ShaLane.turn (x : ShaLane) (k : Word) : ShaLane :=
  let v (i : Nat) : Word := x.work.getD i 0
  let m (i : Nat) : Word := x.next.getD i 0
  let rise := v 7 + spins (v 4) [14, 18, 41] + (v 6 ^^^ (v 4 &&& (v 5 ^^^ v 6))) + k + m 0
  let top := rise + spins (v 0) [28, 34, 39] + ((v 0 &&& (v 1 ||| v 2)) ||| (v 1 &&& v 2))
  let grown := m 0 + (spins (m 1) [1, 8] ^^^ (m 1 >>> 7)) + m 9 + (spins (m 14) [19, 61] ^^^ (m 14 >>> 6))
  { work := top :: (x.work.take 7).modify 3 (· + rise), next := x.next.tail ++ [grown] }

/-- The words after a block of 16 words: all rounds, added to what stood before. -/
def shaBlock (h ws : List Word) : List Word :=
  List.zipWith (· + ·) h (shaRounds.foldl ShaLane.turn { work := h, next := ws }).work

/-! ## Byte strings -/

/-- The big-endian value of bytes. -/
def beNat (bs : List Byte) : Nat := bs.foldl (fun n b => 256 * n + b.toNat) 0

/-- n pieces of k bytes. -/
def pieces8 (k n : Nat) (bs : List Byte) : List (List Byte) :=
  match n with
  | 0 => []
  | n + 1 => bs.take k :: pieces8 k n (bs.drop k)

/-- The padding: a one bit, zeros to 16 bytes short of a block, and the bit count. -/
def shaPad (bs : List Byte) : List Byte :=
  bs ++ 0x80 :: List.replicate ((239 - bs.length % 128) % 128) 0 ++ (leBytes 16 (8 * bs.length)).reverse

/-- SHA-512 of a byte string; its first byte is the digest's most significant one. -/
def sha512 (bs : List Byte) : BitVec 512 :=
  let p := shaPad bs
  let block (b : List Byte) : List Word := (pieces8 8 16 b).map fun w => BitVec.ofNat 64 (beNat w)
  (((pieces8 128 (p.length / 128) p).map block).foldl shaBlock shaStart).foldl (fun d w => d <<< 64 ||| w.setWidth 512) 0

/-- A digest as a byte string, in the standard's order, and back. -/
def digestBytes (d : BitVec 512) : List Byte := (leBytes 64 d.toNat).reverse
def digestOf (bs : List Byte) : BitVec 512 := BitVec.ofNat 512 (leNat bs.reverse)

end Sys2Proof.Machine
end

