-- ==== Sys2Proof/Machine/Link.lean ====
section
/-! DEFINITION. Resets and boot (spec/01_module_and_links.md R37–R40, spec/03_host_interface.md R107–R109), the Fensy
links (R26–R33), budgets (R34–R36), rail throttling (R42) and the scrubber (R25).
Log entries: 25, 35 (DEDUCED); 40, 41 (DEDUCED and DESIGN CHOICE); 8 (DESIGN CHOICE and PRESUMED). -/

namespace Sys2Proof.Machine

/-! ## Reset requests (R40, R107) -/

/-- A request merges with a pending one. -/
def askReset (s : State) (cold : Bool) : State := { s with reset? := some (cold || s.reset?.getD false) }

def execPerstAssert (s : State) : Host.Outcome State Fault Refusal := .next (askReset s true)
def execPcieHotReset (s : State) : Host.Outcome State Fault Refusal := .next (askReset s false)

/-- MOD_RST is no DEV_ register: in recovery its writes do nothing (R109). -/
def execModRstWarm (s : State) : Host.Outcome State Fault Refusal := .next (if s.recovery then s else askReset s false)
def execModRstCold (s : State) : Host.Outcome State Fault Refusal := .next (if s.recovery then s else askReset s true)

/-- A pending reset may start: no dump and no page move is under way (R38, R40). -/
def mayReset (s : State) : Bool := !s.dump.busy && s.dump.queue.isEmpty && s.moves.isEmpty

/-! ## Warm reset (R37, R38) -/

/-- A core after a warm reset. -/
def Core.warm (c : Core) : Core :=
  let c : Core :=
    { Core.atReset with
      split := c.split, vgrp := c.vgrp, bal := c.bal, preempt := c.preempt, uvec := c.uvec, courier := c.courierNext.getD c.courier
      pmpc := c.pmpc, pmhnd := c.pmhnd, inbox := c.inbox, dtab0 := c.dtab0, dtab1 := c.dtab1 }
  { c with fibres := c.freshFibres }

/-- A context after a warm reset. One that is being disabled shows EN 0 (R82), which is kept. -/
def Ctx.warm (x : Ctx) : Ctx :=
  let sq (e : Nat × SubQ) : Nat × SubQ := (e.1, { base := e.2.base })
  let cq (e : Nat × CompQ) : Nat × CompQ := (e.1, { base := e.2.base })
  { en := x.en && !x.disabling, err := x.err, rect := x.rect, sqs := x.sqs.map sq, cqs := x.cqs.map cq, fq := { base := x.fq.base }
    retry := x.retry, dumpBase := x.dumpBase, dumpLen := x.dumpLen, ckList := x.ckList, pinq := x.pinq, dqBase := x.dqBase
    fscfg := x.fscfg, ptPool := x.ptPool, ptUsed := x.ptUsed, memq := x.memq, useDs := x.useDs, useHbm := x.useHbm
    useLp := x.useLp, deleg := x.deleg, hcfg := x.hcfg }

/-- A cluster after a warm reset. -/
def Cluster.warm (k : Cluster) : Cluster :=
  { l2p := k.l2p, spares := k.spares, bp := k.bp, wp := k.wp, dbgGang := k.dbgGang, dbgOwn := k.dbgOwn
    trcfg := k.trcfg &&& ~~~1#64, trbase := k.trbase, rptask := k.rptask &&& ~~~1#64 }

/-- The whole module after a warm reset. Writes that waited at their homes are applied; those of engine instructions, which a reset
ends, are not. R37 and R38 list no messages in flight: those
inside the module are dropped, and those to other modules that stand on no link yet survive and are sent afterwards, as after a cold
reset; and what failures have left to do (`State.todos`) ends with the tasks and launches that it concerns (DESIGN CHOICE, log
entry 41). -/
def warmReset (s : State) : State :=
  let s := (List.range 8).foldl clearLinks s
  let s := { s with grants := [], heldWrites := s.heldWrites.filter (·.op.isNone) }.letThrough
  let shut (e : Nat × PwWin) : Nat × PwWin := (e.1, { e.2 with win := e.2.win &&& ~~~1#64 })
  let die (x : Die) : Die := { x with book := {}, amps := 0, throttled := false, throtAt := none, resetAt := x.cycle.toNat }
  let core (e : Nat × Core) : Nat × Core := (e.1, { e.2.warm with wdSince := s.cycleOf e.1 })
  let ctx (e : Nat × Ctx) : Nat × Ctx := (e.1, e.2.warm)
  let cluster (e : Nat × Cluster) : Nat × Cluster := (e.1, e.2.warm)
  { s with
    cores := s.cores.map core, clusters := s.clusters.map cluster, dies := s.dies.map die, ctxs := s.ctxs.map ctx
    bErr := 0, reset? := none, pwrDie := 0, nfCnt := 0, collSteps := 0, collPois := false, collAbort := false
    dump := { tcm := s.dump.tcm, done := s.dump.done, trunc := s.dump.trunc, ctx := s.dump.ctx }
    cxlWin := s.cxlWin &&& ~~~1#64, pwWins := s.pwWins.map shut, pwDrop := 0
    mgmt := { partRec := s.mgmt.partRec, boot := s.mgmt.boot, meas := s.mgmt.meas, flash := s.mgmt.flash }
    msgs := [], grants := [], watches := [], launches := [], todos := [], agenda := [], focus := 0, cur := {} }

/-- WARM_RESET. -/
def execWarmReset (s : State) : Host.Outcome State Fault Refusal :=
  .next (if s.reset? = some false ∧ mayReset s then warmReset s else s)

/-! ## Cold reset and boot (R37, R108) -/

/-- The partition record as it loads: VALID 0 where its rectangle leaves the 64 × 64 modules or does not hold the
module (R27). -/
def loadPart (r : Word) (modNum : Nat) : Word :=
  let f (lo n : Nat) : Nat := (r.extractLsb' lo n).toNat
  let row := modNum / 64; let col := modNum % 64
  let ok := decide (1 ≤ f 12 7) && decide (1 ≤ f 19 7) && decide (f 0 6 + f 12 7 ≤ 64) && decide (f 6 6 + f 19 7 ≤ 64)
    && decide (f 0 6 ≤ row) && decide (row < f 0 6 + f 12 7) && decide (f 6 6 ≤ col) && decide (col < f 6 6 + f 19 7)
  if ok then r else r &&& ~~~(1#64 <<< 26)

/-- The module after a cold reset: memories are zero, and what the firmware keeps in flash is loaded again. Host memory
and what has left the part are not the part's; messages to other modules survive as at a warm reset (log entry 41). -/
def coldReset (s : State) : State :=
  let s := (List.range 8).foldl clearLinks s
  let cluster (e : Nat × Cluster) : Nat × Cluster := (e.1, { l2p := e.2.l2p, spares := e.2.spares })
  let die (x : Die) : Die := { stack := x.stack, fused := x.fused }
  { State.reset with
    mem := s.mem.filter fun c => 2 ^ 64 ≤ c.1
    poison := s.poison.filter fun l => 2 ^ 58 ≤ l
    clusters := s.clusters.map cluster, dies := s.dies.map die
    modNum := s.modNum, part := loadPart s.mgmt.partRec s.modNum.toNat, mgmt := { partRec := s.mgmt.partRec, flash := s.mgmt.flash }
    outMsgs := s.outMsgs, linked := s.linked, msix := s.msix, hostData := s.hostData, hostBytes := s.hostBytes, hostPois := s.hostPois
    nextId := s.nextId, free := s.free }

/-- COLD_RESET. -/
def execColdReset (s : State) : Host.Outcome State Fault Refusal :=
  .next (if s.reset? = some true ∧ mayReset s then coldReset s else s)

/-- DEV_BOOT of a booted slot. -/
def bootWord (slot : Nat) (key : Fin 4) (f : FwSlot) : Word :=
  fields [(1, 0), (slot, 2), (key.val, 3), (f.svn.toNat, 8), (Config.minSvn.toNat, 16)]

/-- The key slot, not marked revoked, whose fused hash is that of the slot's vendor key. -/
def FwSlot.keySlot (f : FwSlot) : Option (Fin 4) :=
  (List.finRange 4).find? fun i => !Config.keyRevoked i && Config.keyHash i == sha512 f.key

/-- The check of R108, with the key slot that verifies the image. -/
def FwSlot.check (f : FwSlot) : Option (Fin 4) :=
  if Config.vendorOk (sha512 f.image) f.sig f.key && decide (Config.minSvn.toNat ≤ f.svn.toNat) then f.keySlot else none

/-- The key slot of a firmware slot that is accepted: one that is marked bootable and passes the check (R108). -/
def FwSlot.accept (f : FwSlot) : Option (Fin 4) := if f.bootable then f.check else none

/-- An image as an update writes it: marked bootable only where it passes the same check (R108). -/
def FwSlot.update (f : FwSlot) : FwSlot := { f with bootable := f.check.isSome }

/-- The module is booting: its firmware has not been verified since cold reset (R109). -/
def State.booting (s : State) : Bool := s.mgmt.boot.extractLsb' 0 2 == 0

/-- The measurements of a firmware slot. -/
def FwSlot.measure (f : FwSlot) : List Byte := (List.finRange 4).flatMap fun i => digestBytes (sha512 (Config.measured f.image i))

/-- The boot from slots A and B: the first that is accepted; vector 0 tells the host (R85, R108). -/
def bootFrom (s : State) (flash : Vector (Option FwSlot) 2) : State :=
  let pick (slot : Nat) (f : Option FwSlot) : Option (Word × List Byte) := do
    let x ← f
    let key ← x.accept
    return (bootWord slot key x, x.measure)
  let (boot, meas) := ((pick 0 flash[0]).orElse fun _ => pick 1 flash[1]).getD (fields [(2, 0), (Config.minSvn.toNat, 16)], [])
  { s with mgmt := { s.mgmt with boot, meas, flash } }.irq 0

/-- FIRMWARE_BOOT. The event brings what the package flash has received for slots A and B, if anything. While the module boots, it
reads the slots; once it runs, what has come for the slot not booted is an update of it (R108; log entry 40). -/
def execFirmwareBoot (s : State) : Host.Outcome State Fault Refusal :=
  .next (match s.ev with
    | .firmwareBoot a b =>
      if s.booting then bootFrom s #v[a.orElse fun _ => s.mgmt.flash[0], b.orElse fun _ => s.mgmt.flash[1]]
      else if s.recovery then s
      else
        let i : Fin 2 := if s.mgmt.boot.getLsbD 2 then 0 else 1
        match #v[a, b][i] with
        | none => s
        | some x => { s with mgmt := { s.mgmt with flash := s.mgmt.flash.set i.val (some x.update) i.isLt } }
    | _ => s)

/-! ## Links (R26–R33) -/

/-- One bit through the register of the CRC-32 with polynomial 0x04C1_1DB7 (R28). -/
def crcBit (r : BitVec 32) (b : Bool) : BitVec 32 := if r.msb != b then (r <<< 1) ^^^ 0x04C11DB7#32 else r <<< 1

/-- The bits of a byte in the order in which they enter. -/
def crcBits (low : Bool) (b : Byte) : List Bool :=
  (List.range 8).map fun i => b.getLsbD (if low then i else 7 - i)

/-- The CRC-32 of bytes (R28); its start value, bit order and final word are the part's (log entry 8). -/
def crc32 (bs : List Byte) : BitVec 32 :=
  let r := bs.foldl (fun r b => (crcBits Config.crcLow b).foldl crcBit r) Config.crcStart
  (if Config.crcLow then r.reverse else r) ^^^ Config.crcFinal

/-- The bytes of a flit that its CRC covers. -/
def Flit.covered (f : Flit) : List Byte :=
  leBytes 120 f.payload.toNat ++ leBytes 2 (f.seq.toNat + f.ftype.toNat * 4096) ++ leBytes 2 (f.ack.toNat + f.nak.toNat * 4096)

/-- The edge of a port faces a module of the partition (R26). -/
def edgeInside (s : State) (p : Nat) : Bool :=
  let row := s.modNum.toNat / 64; let col := s.modNum.toNat % 64
  match p / 4 with
  | 0 => decide (1 ≤ row) && inMesh s (row - 1) col
  | 1 => inMesh s row (col + 1)
  | 2 => inMesh s (row + 1) col
  | _ => decide (1 ≤ col) && inMesh s row (col - 1)

/-- A port-down event record. -/
def portEvent (s : State) (p : Fin 16) : State := s.event (Config.portDie p).val noSrc 1 0xFF p.val

/-- LINK_TRAINING: the ends compare their partition records (R27). A port that R30 took down stays down until the next cold
reset, as its lane swap does (R32). -/
def execLinkTraining (s : State) : Host.Outcome State Fault Refusal :=
  .next (match s.ev with
    | .linkTraining p peer =>
      let x := s.port p.val
      if x.up || x.failed || !s.part.getLsbD 26 || !edgeInside s p.val then s
      else if peer = s.part then s.setPort p.val { x with up := true }
      else portEvent s p
    | _ => s)

/-- A flit with its CRC. -/
def Flit.seal (f : Flit) : Flit := { f with crc := crc32 f.covered }

/-- The receiver's answer to a flit (R28, R29): a flit with no payload of its own, which no replay buffer keeps. -/
def ackFlit (x : Port) (seq : BitVec 12) (nak : Bool) : Flit :=
  Flit.seal { payload := 0, seq := x.txSeq, ftype := Config.flitType + 1, ack := seq, nak := if nak then 1 else 0, crc := 0 }

/-- The port answers. -/
def Port.answer (x : Port) (seq : BitVec 12) (nak : Bool) : Port :=
  { x with acks := x.acks ++ [(seq, nak)], out := x.out ++ [ackFlit x seq nak] }

/-- The receiver's part in link retry: the port after a flit, and whether the flit's own acknowledgement counts. -/
def receiveFlit (x : Port) (f : Flit) (keep : Bool) : Port × Bool :=
  if crc32 f.covered ≠ f.crc then (x.answer x.rxSeq true, false)
  else if f.ftype = Config.flitType + 1 then (x, true)
  else if f.seq = x.rxSeq + 1 then
    ({ x with rxSeq := f.seq, rx := if keep then x.rx ++ [f] else x.rx }.answer f.seq false, true)
  else if (x.rxSeq - f.seq).toNat < 2048 then (x, true)
  else (x.answer x.rxSeq true, false)

/-- FLIT_RECEIVE. -/
def execFlitReceive (s : State) : Host.Outcome State Fault Refusal :=
  .next (match s.ev with
    | .flitReceive p f =>
      if !(s.port p.val).up then s
      else
        let (x, ok) := receiveFlit (s.port p.val) f true
        let s := s.setPort p.val x
        if !ok then s else if f.nak = 1 then s.raise (.flitNakReceive p f.ack) else s.raise (.flitAckReceive p f.ack)
    | _ => s)

/-- FLIT_RECEIVE_IN_RESET (R39): acknowledged, its payload discarded. -/
def execFlitReceiveInReset (s : State) : Host.Outcome State Fault Refusal :=
  .next (match s.ev with
    | .flitReceiveInReset p f =>
      if !(s.port p.val).up || s.reset?.isNone then s else s.setPort p.val (receiveFlit (s.port p.val) f false).1
    | _ => s)

/-- The replay buffer after an acknowledgement of a sequence number. -/
def acked (l : List Flit) (seq : BitVec 12) : List Flit :=
  if l.any (·.seq == seq) then (l.dropWhile (·.seq != seq)).drop 1 else l

/-- The replay buffer keeps the flits that have no acknowledgement yet. -/
def Port.keep (x : Port) (l : List Flit) : Port := { x with replay := l, load := x.load.drop (x.replay.length - l.length) }

/-- FLIT_ACK_RECEIVE. -/
def execFlitAckReceive (s : State) : Host.Outcome State Fault Refusal :=
  .next (match s.ev with
    | .flitAckReceive p seq =>
      let x := s.port p.val
      let l := acked x.replay seq
      s.setPort p.val (if l.length < x.replay.length then { x.keep l with tries := 0, stale := 0 } else x)
    | _ => s)

/-- FLIT_NAK_RECEIVE: every flit after the named one is resent; when the sixteenth replay of one flit has failed too, the port
goes down (R30). The receiver refuses every flit behind the one it misses (R29): the answers to those that stood on the link before
a replay are met by that replay, and count as no failure of it (log entry 41). -/
def execFlitNakReceive (s : State) : Host.Outcome State Fault Refusal :=
  .next (match s.ev with
    | .flitNakReceive p seq =>
      let x := s.port p.val
      if !x.up then s
      else
        let l := acked x.replay seq
        let onward := decide (l.length < x.replay.length)
        let tries := if onward then 1 else x.tries + 1
        if l.isEmpty then s.setPort p.val { x.keep l with tries := 0, stale := 0 }
        else if !onward && 0 < x.stale then s.setPort p.val { x with stale := x.stale - 1 }
        else if 17 ≤ tries then (s.setPort p.val { x with tries }).raise (.portDown p)
        else
          let retry := if x.retry = BitVec.allOnes 16 then x.retry else x.retry + 1
          s.setPort p.val { x.keep l with out := x.out ++ l, tries, stale := l.length - 1, retry }
    | _ => s)

/-- A flit that carries a payload on a port (R28). -/
def mkFlit (x : Port) (payload : BitVec 960) : Flit :=
  Flit.seal { payload, seq := x.txSeq, ftype := Config.flitType, ack := x.rxSeq, nak := 0, crc := 0 }

/-- Puts a payload on a port. -/
def Port.send (x : Port) (payload : BitVec 960) : Port :=
  let f := mkFlit x payload
  { x with txSeq := x.txSeq + 1, replay := x.replay ++ [f], out := x.out ++ [f] }

/-- A port puts what a port that went down left it on its link, while its replay buffer of 512 flits has room (R29, R30). -/
def Port.sendMoved (x : Port) : Port :=
  let n := 512 - x.replay.length
  (x.moved.take n).foldl Port.send { x with moved := x.moved.drop n }

/-- The traffic of an edge has another route: a mesh of more than one row and column leads round it (R31). -/
def hasDetour (s : State) : Bool :=
  s.part.getLsbD 26 && decide (2 ≤ (s.part.extractLsb' 12 7).toNat) && decide (2 ≤ (s.part.extractLsb' 19 7).toNat)

/-- The first port that is up from a preferred one of an edge on, then of the other edges where they lead round (R30, R31). -/
def usePort (s : State) (edge first : Nat) : Option (Fin 16) :=
  ((List.range (if hasDetour s then 16 else 4)).map fun i =>
    (⟨((edge + i / 4) % 4) * 4 + (first + i % 4) % 4, by omega⟩ : Fin 16)).find? fun p => (s.port p.val).up

/-- The port of the traffic whose own port is `own`, with the state that keeps it there: one that is up, until it goes down. -/
def pairPort (s : State) (own : Fin 16) : State × Option (Fin 16) :=
  let at_ := (s.port own.val).via.getD own
  if (s.port at_.val).up then (s, some at_)
  else match usePort s (own.val / 4) (own.val % 4) with
    | none => (s, none)
    | some q => (s.setPort own.val { s.port own.val with via := some q }, some q)

/-- What one port carried goes by another from now on. -/
def State.reroute (s : State) (p q : Fin 16) : State :=
  (List.finRange 16).foldl (fun s i =>
    let x := s.port i.val
    if x.via.getD i = p then s.setPort i.val { x with via := some q } else s) s

/-- PORT_DOWN: the flits that it had sent without an acknowledgement go by another port, and all later traffic of the port goes there
behind them. An edge that cannot be reached any more is a fatal fault (R31). -/
def execPortDown (s : State) : Host.Outcome State Fault Refusal :=
  .next (match s.ev with
    | .portDown p =>
      let x := s.port p.val
      if !x.up ∨ x.tries < 17 then s
      else
        let s := portEvent (s.setPort p.val { x with up := false, failed := true, replay := [], moved := [], load := [], tries := 0, stale := 0 }) p
        match usePort s (p.val / 4) (p.val % 4) with
        | some q =>
          let s := s.reroute p q
          let y := s.port q.val
          s.setPort q.val { y with moved := y.moved ++ x.replay.map Flit.payload ++ x.moved, load := y.load ++ x.load }.sendMoved
        | none => (s.ctxs.filter (·.2.en)).foldl (fun s e => s.fatalCtx e.1 0x130 noSrc) s
    | _ => s)

/-- The port that all traffic of one core to another has as its own: SLOT has no part in it (R9, R31). -/
def ownPort (m : Msg) : Fin 16 :=
  let e := Config.routeEdge (idCore m.src) (idCore m.dst); let i := Config.routePort (idCore m.src) (idCore m.dst)
  ⟨e.val * 4 + i.val, by omega⟩

/-- Messages to other modules leave by their ports, in order, while the replay buffers have room (R29, R31). -/
def linkSend (s : State) (fuel : Nat) : State :=
  match fuel with
  | 0 => s
  | n + 1 =>
    match s.outMsgs[s.linked]? with
    | none => s
    | some m =>
      match pairPort s (ownPort m) with
      | (s, none) => s
      | (s, some p) =>
        let x := s.port p.val
        if 512 ≤ x.replay.length ∨ !x.moved.isEmpty then s
        else linkSend { s.setPort p.val { x.send (Config.flitPayload s.linked) with load := x.load ++ [m.id] } with linked := s.linked + 1 } n

/-- What stands behind replay buffers goes on, then what is newer. -/
def linkTick (s : State) : State :=
  let s := { s with ports := s.ports.map Port.sendMoved }
  linkSend s s.outMsgs.length

/-- DESTINATION_IN_RESET_REPORT (R39): a message of this part that a module in reset has discarded. A status, and what an engine
sends beside its own report, is reported by nobody. -/
def execDestinationInResetReport (s : State) : Host.Outcome State Fault Refusal :=
  .next (match s.ev with
    | .destinationInResetReport i =>
      match (s.outMsgs.take s.linked).find? (·.id == i) with
      | none => s
      | some m =>
        let s := { s with outMsgs := s.outMsgs.erase m, linked := s.linked - 1 }
        let report (addr : Word) : State :=
          s.fqSend m.ctx (nofibEntry s m.ctx 0x131 false m.src m.fibre m.pc addr (BitVec.ofNat 64 m.dst.toNat) ((idLeaf m.src).map dieOf |>.getD 0))
        match m.body with
        | .append _ | .mmrc .. => (match s.localCore m.src with | some L => giveStatus s L m.fibre 0x131 | none => s)
        | .store va _ _ => report (va.setWidth 64)
        | .siginc off _ | .credit off .. | .notice _ off _ | .link off .. | .ask off _ | .answer off .. => report (off.setWidth 64)
        | .ready b => abortColl s m.ctx (BitVec.ofNat 32 (leNat (b.take 4)))
        | .chunk id .. => abortColl s m.ctx id
        | .deliver d => (match s.localCore m.src with | some L => copyReport s L d.id (some (0x131, 0)) | none => s)
        | .settle .. | .digest .. | .status .. | .refused .. | .copied .. | .held .. => s
    | _ => s)

/-- LANE_MARGIN_MEASURE (R32): a weak lane's replacement is trained, once in a port's life between cold resets. -/
def execLaneMarginMeasure (s : State) : Host.Outcome State Fault Refusal :=
  .next (match s.ev with
    | .laneMarginMeasure p lane m =>
      let x := s.port p.val
      if !x.up then s
      else
        let weak := decide (m.toNat < s.lmthr.toNat) && !x.degr && x.training.isNone
        s.setPort p.val { x with margins := spPut x.margins lane.val m, training := if weak then some lane else x.training }
    | _ => s)

/-- LANE_SWAP. -/
def execLaneSwap (s : State) : Host.Outcome State Fault Refusal :=
  .next (match s.ev with
    | .laneSwap p =>
      let x := s.port p.val
      match x.training with
      | none => s
      | some lane =>
        let m := (spGet x.margins lane.val (0 : BitVec 8)).toNat
        let s := s.setPort p.val
          { x with degr := true, swap := BitVec.ofNat 5 lane.val, training := none, margins := spDel x.margins lane.val }
        s.event (Config.portDie p).val noSrc 2 0xFF (detail3 p.val lane.val m)
    | _ => s)

/-! ## Budgets (R34–R36) -/

/-- BUDGET_PERIOD_START of a class: its usage counts return to zero, and waiting writes take effect. -/
def execBudgetPeriodStart (s : State) : Host.Outcome State Fault Refusal :=
  .next (match s.ev with
    | .budgetPeriodStart cls =>
      let mine (i : Nat) : Bool := i / 8 == cls.val
      { s with used := s.used.filter fun e => !mine e.1
               budget := (s.budgetNext.filter fun e => mine e.1).foldl (fun m e => spPut m e.1 e.2) s.budget
               budgetNext := s.budgetNext.filter fun e => !mine e.1 }
    | _ => s)

/-- A write of MOD_BUDGET. -/
def writeBudget (s : State) (i : Nat) (v mask : Word) : State :=
  if mask &&& bitMask 12 0 = 0 then s
  else
    let old := s.shareSet i
    let new := ((merge (BitVec.ofNat 64 old) v mask (bitMask 12 0)).extractLsb' 0 13).toNat
    let others := ((List.range 7).filter fun a => a != i % 8).foldl (fun n a => n + s.shareSet (i / 8 * 8 + a)) 0
    if old < new ∧ 4096 < others + new then { s with bErr := BitVec.ofNat 7 (1 + i / 8 * 2 + i % 8 * 16) }
    else { s with budgetNext := s.budgetNext.filter (·.1 != i) ++ [(i, BitVec.ofNat 13 new)] }

/-- MOD_BUDGET_WRITE. -/
def execModBudgetWrite (s : State) : Host.Outcome State Fault Refusal :=
  .next (match s.hostEv with | .modBudgetWrite cls act lane v => writeBudget s (cls.val * 8 + act.val) v lane.mask | _ => s)

/-! ## Power and ECC (R25, R42) -/

/-- The current at which a die's rail throttles (R41). -/
def railLimit : Nat := 2000

/-- RAIL_THROTTLE: the current has reached the limit (a lower one is no such event). -/
def execRailThrottle (s : State) : Host.Outcome State Fault Refusal :=
  .next (match s.ev with
    | .railThrottle d amps =>
      if amps.toNat < railLimit then s
      else (s.modDie d fun x => { x with amps, throttled := true, throtAt := some x.cycle.toNat }).event d noSrc 12 0xFF amps.toNat
    | _ => s)

/-- RAIL_THROTTLE_END: the current has fallen below the limit. -/
def execRailThrottleEnd (s : State) : Host.Outcome State Fault Refusal :=
  .next (match s.ev with
    | .railThrottleEnd d =>
      if !(s.die d).throttled then s else s.modDie d fun x => { x with throttled := false, throtAt := some x.cycle.toNat }
    | _ => s)

/-- The home key and the die of a location that carries ECC. -/
def eccHome (a : EccAt) : Option (Nat × Nat) :=
  match a with
  | .phys pa => (paRange pa.toNat).map fun _ => (pa.toNat, homeDie pa.toNat)
  | .tcm L off => some (tcmKey L off.toNat, dieOf L)
  | .scratch k off => some (scratchKey k off.toNat, k / 6)

/-- SCRUB_READ (R25, R115): the ECC check of a read, by the scrubber or by any other read of the part's memories. A corrected error
is written back and recorded, an uncorrectable one poisons its line. The physical address of a record is that of DRAM and die store;
of TCM and scratchpad, which have none, it is the home key (log entry 35). -/
def execScrubRead (s : State) : Host.Outcome State Fault Refusal :=
  .next (match s.ev with
    | .scrubRead a r =>
      match eccHome a, r with
      | some (k, d), .corrected syn => s.event d noSrc 3 0xFF (detail2 k syn.toNat)
      | some (k, _), .uncorrectable => s.poisonLine (k / 64 * 64) 64 0
      | _, _ => s
    | _ => s)

end Sys2Proof.Machine
end

