-- ==== Sys2Proof/Machine/Host.lean ====
section
/-! DEFINITION. The host's side of the link (spec/03_host_interface.md R74–R80, R104–R106): BAR0 registers, the CXL
window and the peer-write aperture, with the writes of the CLU_, DIE_, MOD_, COLL_, DUMP_, BOOK_ and DEV_ registers.
Log entries: 29 (DEDUCED); 42 (DEDUCED and DESIGN CHOICE). -/

namespace Sys2Proof.Machine

/-! ## The layout of BAR0 (R75, R77, R83, R169, R228) -/

/-- Where an 8-byte slot of BAR0 leads. -/
inductive Slot where
  /-- A register of a block of R437. -/
  | reg (i : Inst) (blk reg idx : Nat)
  | csel (d : Nat)
  | cdata (d : Nat)
  /-- DEV_ATTCMD, DEV_MBXADDR, DEV_MBXCMD and DEV_MBXSTAT. -/
  | mbx (n : Nat)
  /-- Word `w` of event record `i` of a die. -/
  | record (d i w : Nat)

/-- Index of an offset in an array of slots. -/
def arrAt (off base stride n : Nat) : Option Nat :=
  if base ≤ off ∧ (off - base) % stride = 0 ∧ (off - base) / stride < n then some ((off - base) / stride) else none

/-- A register by the start of its array, in a list of REG, base, stride and length. -/
def findReg (off : Nat) (l : List (Nat × Nat × Nat × Nat)) : Option (Nat × Nat) :=
  l.findSome? fun (reg, base, stride, n) => (arrAt off base stride n).map fun i => (reg, i)

def devMap : List (Nat × Nat × Nat × Nat) :=
  [(0, 0x10, 8, 1), (1, 0x1000, 8, 1), (2, 0x2000, 16, 64), (3, 0x2008, 16, 64), (4, 0x2400, 8, 1), (5, 0x3000, 8, 1),
   (6, 0x3100, 8, 8), (7, 0x3140, 8, 1)]
def mbxMap : List (Nat × Nat × Nat × Nat) := [(0, 0x3148, 8, 1), (1, 0x3200, 8, 1), (2, 0x3208, 8, 1), (3, 0x3210, 8, 1)]
def dumpMap : List (Nat × Nat × Nat × Nat) := [(0, 0x4000, 8, 1), (1, 0x4008, 8, 1), (2, 0x4010, 8, 1)]
def modMap : List (Nat × Nat × Nat × Nat) :=
  [(0, 0x10000, 8, 16), (1, 0x10080, 8, 1), (2, 0x10100, 8, 40), (3, 0x10240, 8, 1), (4, 0x10248, 8, 1), (5, 0x10250, 8, 1),
   (6, 0x10258, 8, 1)]
def collMap : List (Nat × Nat × Nat × Nat) := [(0, 0x20000, 8, 1), (1, 0x20008, 8, 1), (2, 0x20010, 8, 1)]
def ctxMap : List (Nat × Nat × Nat × Nat) :=
  [(0, 0, 8, 1), (1, 0x10, 8, 4), (2, 0x1000, 16, 64), (3, 0x1008, 16, 64), (4, 0x1400, 16, 16), (5, 0x1408, 16, 16),
   (6, 0x1500, 8, 16), (7, 0x1600, 8, 1), (8, 0x1608, 8, 1), (9, 0x1610, 8, 1), (26, 0x1618, 8, 1), (10, 0x2000, 8, 1),
   (11, 0x2010, 8, 1), (12, 0x2018, 8, 1), (13, 0x2020, 8, 1), (14, 0x2028, 8, 1), (15, 0x2030, 8, 1), (16, 0x2038, 8, 1),
   (17, 0x2040, 8, 1), (18, 0x2048, 8, 1), (19, 0x2050, 8, 1), (20, 0x2058, 8, 1), (21, 0x2060, 8, 1), (22, 0x2068, 8, 1),
   (23, 0x2070, 8, 1), (24, 0x2078, 8, 1), (25, 0x2080, 8, 1)]
def dieMap : List (Nat × Nat × Nat × Nat) :=
  [(0, 0, 8, 1), (1, 8, 8, 1), (2, 0x10, 8, 1), (3, 0x18, 8, 1), (4, 0x20, 8, 1), (5, 0x28, 8, 1), (6, 0x230000, 8, 1),
   (7, 0x230008, 8, 1), (8, 0x230010, 8, 1)]
def cluMap : List (Nat × Nat × Nat × Nat) :=
  [(0, 0, 8, 128), (1, 0x400, 8, 1), (2, 0x408, 8, 8), (3, 0x448, 8, 4), (4, 0x468, 8, 1), (5, 0x470, 8, 1), (6, 0x478, 8, 1),
   (7, 0x480, 8, 1), (8, 0x488, 8, 1), (9, 0x490, 8, 1), (10, 0x498, 8, 1)]
def bookMap : List (Nat × Nat × Nat × Nat) :=
  [(0, 0, 8, 1), (1, 8, 8, 1), (2, 0x10, 8, 1), (3, 0x18, 8, 1), (4, 0x20, 8, 1), (5, 0x28, 8, 1), (6, 0x40, 8, 4), (7, 0x80, 8, 8)]

/-- A register of a block at an offset. -/
def regAt (i : Inst) (blk off : Nat) (l : List (Nat × Nat × Nat × Nat)) : Option Slot :=
  (findReg off l).map fun (reg, idx) => .reg i blk reg idx

/-- A die region (R77). -/
def dieSlot (d off : Nat) : Option Slot :=
  if off = 0x30 then some (.csel d)
  else if off = 0x38 then some (.cdata d)
  else if 0x10000 ≤ off ∧ off < 0x16000 then regAt { die := d, clu := d * 6 + (off - 0x10000) / 0x1000 } 1 (off % 0x1000) cluMap
  else if 0x200000 ≤ off ∧ off < 0x220000 then some (.record d ((off - 0x200000) / 32) (off % 32 / 8))
  else if 0x220000 ≤ off ∧ off < 0x230000 then regAt { die := d } 5 (off - 0x220000) bookMap
  else regAt { die := d } 2 off dieMap

/-- The slot at an offset of BAR0, a multiple of 8; none where it is unassigned (R75). -/
def barSlot (off : Nat) : Option Slot :=
  if off < 0x1000000 then
    (regAt {} 8 off devMap).orElse fun _ => ((findReg off mbxMap).map fun (n, _) => .mbx n).orElse fun _ =>
      (regAt {} 7 off dumpMap).orElse fun _ => (regAt {} 3 off modMap).orElse fun _ => regAt {} 6 off collMap
  else if off < 0x1300000 then regAt { ctx := (off - 0x1000000) / 0x10000 } 4 (off % 0x10000) ctxMap
  else if 0x2000000 ≤ off ∧ off < 0x4000000 then dieSlot ((off - 0x2000000) / 0x400000) ((off - 0x2000000) % 0x400000)
  else none

/-- A slot holds a DEV_ register. -/
def Slot.isDev : Slot → Bool
  | .reg _ 8 _ _ | .mbx _ => true
  | _ => false

/-- The slot that answers at an offset: in recovery only the DEV_ registers do (R109). -/
def State.slotAt (s : State) (off : Nat) : Option Slot :=
  (barSlot (off / 8 * 8)).filter fun x => x.isDev || !s.recovery

/-! ## Reads -/

/-- DIE_CSEL.ERR: the selection names no register, or a fibre view (R77). -/
def Die.cselErr (x : Die) : Bool :=
  let reg := (x.csel.extractLsb' 10 8).toNat
  decide (768 ≤ (x.csel.extractLsb' 0 10).toNat) || !idxOk 0 reg (x.csel.extractLsb' 18 8).toNat || (decide (44 ≤ reg) && decide (reg ≤ 46))

/-- The core and register that a die's DIE_CSEL selects. -/
def Die.selected (x : Die) (d : Nat) : Option (Nat × Nat × Nat) :=
  if x.cselErr then none
  else some (d * 768 + (x.csel.extractLsb' 0 10).toNat, (x.csel.extractLsb' 10 8).toNat, (x.csel.extractLsb' 18 8).toNat)

/-- The 32 bytes of an event record (R122). -/
def EvRec.bytes (r : EvRec) : List Byte :=
  leBytes 8 r.cycle.toNat ++ leBytes 4 r.src.toNat ++ leBytes 2 r.code.toNat ++ leBytes 1 r.sev.toNat ++ leBytes 1 r.ctx.toNat
    ++ leBytes 16 r.detail.toNat

/-- DEV_ATTCMD, DEV_MBXADDR, DEV_MBXCMD and DEV_MBXSTAT (R111, R112). -/
def Mgmt.word (m : Mgmt) (n : Nat) : Word :=
  match n with
  | 0 => fields [(m.attDone.toNat, 1)]
  | 1 => m.mbxAddr
  | 3 => fields [(m.mbxBusy.toNat, 0), (m.mbxDone.toNat, 1), (m.mbxErr.toNat, 2), (m.mbxLen.toNat, 16)]
  | _ => 0

/-- What a slot reads as. -/
def slotRead (s : State) (x : Slot) : Word :=
  match x with
  | .reg i blk reg idx => regVal s i blk reg idx
  | .csel d => fields [((s.die d).csel.toNat, 0), ((s.die d).cselErr.toNat, 26)]
  | .cdata d =>
    match (s.die d).selected d with
    | some (L, reg, idx) => coreReg s L {} reg idx
    | none => BitVec.allOnes 64
  | .mbx n => s.mgmt.word n
  | .record d i w =>
    match (s.die d).evRecs.find? (·.1 == i) with
    | some (_, r) => BitVec.ofNat 64 (leNat ((r.bytes.drop (8 * w)).take 8))
    | none => 0

/-- A read clears the RC fields that it covers. -/
def slotClear (s : State) (x : Slot) (mask : Word) : State :=
  match x with
  | .reg i blk reg idx => regClear s i blk reg idx mask
  | .cdata d =>
    match (s.die d).selected d with
    | some (L, reg, idx) => regClear s { core := L } 0 reg idx mask
    | none => s
  | _ => s

/-- A half's bits at its place in a read's result. -/
def Lane.value (l : Lane) (v : Word) : Word :=
  match l with | .low => v &&& 0xFFFFFFFF | .high => v >>> 32 | .both => v

/-- A host read of a slot. -/
def hostReadSlot (s : State) (x : Slot) (l : Lane) : State :=
  { slotClear s x l.mask with hostData := l.value (slotRead s x), hostPois := false }

/-! ## Writes -/

/-- The replay stop of a cluster takes new values: a fibre that has completed its instructions so far meets it only with a later one
(R309). One whose last instruction is still on its way completes it yet. -/
def armReplay (s : State) (k : Nat) (f : Cluster → Cluster) : State :=
  let past (x : Fibre) : Fibre :=
    match x.status with
    | .waiting .access | .waiting .status | .waiting (.reservation _) | .writeback => x
    | _ => { x with counted := true }
  (clusterCores k).foldl (init := s.modCluster k f) fun s L => s.modCore L fun c => { c with fibres := c.fibres.map fun e => (e.1, past e.2) }

/-- CLU_ registers (R303, R304, R308, R309). -/
def writeClu (s : State) (k reg idx : Nat) (v mask : Word) : State :=
  let set (f : Cluster → Cluster) : State := s.modCluster k f
  match reg with
  | 2 => set fun x => { x with bp := x.bp.setIfInBounds idx (merge (x.bp.getD idx 0) v mask (bitMask 56 0)) }
  | 3 => set fun x => { x with wp := x.wp.setIfInBounds idx (merge (x.wp.getD idx 0) v mask (bitMask 58 3)) }
  | 4 =>
    let s := set fun x =>
      { x with dbgGang := if mask.getLsbD 2 then v.getLsbD 2 else x.dbgGang, dbgOwn := if mask.getLsbD 3 then v.getLsbD 3 else x.dbgOwn }
    if h : k < 48 then
      let s := if writes1 v mask 1 then s.raise (.cluDbgctlResume ⟨k, h⟩) else s
      if writes1 v mask 0 then s.raise (.cluDbgctlHalt ⟨k, h⟩) else s
    else s
  | 6 =>
    set fun x =>
      let w := merge x.trcfg v mask (bitMask 14 0)
      { x with trcfg := if 10 ≤ (w.extractLsb' 10 5).toNat then w else merge x.trcfg v mask (bitMask 9 0) }
  | 7 => set fun x => { x with trbase := merge x.trbase v mask (bitMask 55 0) }
  | 8 => set fun x => { x with trpos := merge x.trpos v mask (bitMask 55 34) &&& ~~~(v &&& mask &&& bitMask 33 32) }
  | 9 => armReplay s k fun x => { x with rptask := merge x.rptask v mask (bitMask 55 6 ||| 1) }
  | 10 => armReplay s k fun x => { x with rpcnt := merge x.rpcnt v mask (bitMask 51 0) }
  | _ => s

/-- DIE_ registers (R117, R124, R228, R368). -/
def writeDie (s : State) (d reg : Nat) (v mask : Word) : State :=
  let set (f : Die → Die) : State := s.modDie d f
  match reg with
  | 2 =>
    let w := merge ((s.die d).wdog.setWidth 64) v mask 0x1F
    set fun x => { x with wdog := if 16 ≤ w.toNat then w.setWidth 5 else x.wdog }
  | 4 =>
    set fun x =>
      let e := (merge (x.evCfg.setWidth 64) v mask 5).setWidth 3
      { x with evCfg := if writes1 v mask 1 then e &&& 5 else e }
  | 5 =>
    let w := merge ((s.die d).rsvTmo.setWidth 64) v mask 0x1F
    set fun x => { x with rsvTmo := if 8 ≤ w.toNat ∧ w.toNat ≤ 24 then w.setWidth 5 else x.rsvTmo }
  | 6 => set fun x => { x with migVa := merge x.migVa v mask (bitMask 61 0) }
  | 7 => set fun x => { x with migDpa := merge x.migDpa v mask (bitMask 47 12) }
  | 8 =>
    let s := if writes1 v mask 2 then set fun x => { x with migDone := false } else s
    if writes1 v mask 0 then migrationGo s d else s
  | _ => s

/-- MOD_ registers (R33, R36, R40, R42). -/
def writeMod (s : State) (reg idx : Nat) (v mask : Word) : State :=
  match reg with
  | 1 => { s with lmthr := (merge (s.lmthr.setWidth 64) v mask 0xFF).setWidth 8 }
  | 2 => writeBudget s idx v mask
  | 3 => if writes1 v mask 0 then { s with bErr := s.bErr &&& ~~~1#7 } else s
  | 4 => if writes1 v mask 1 then askReset s true else if writes1 v mask 0 then askReset s false else s
  | 5 => { s with pwrDie := ((merge (BitVec.ofNat 64 (s.pwrDie.toNat * 4096)) v mask (bitMask 14 12)).extractLsb' 12 3) }
  | _ => s

/-- BOOK_CTL (R164): a write of more than one bit is ignored. -/
def writeBookCtl (s : State) (d : Nat) (v mask : Word) : State :=
  match ((v &&& mask).extractLsb' 0 3).toNat with
  | 1 => bookGo s d
  | 2 => bookPause s d
  | 4 => bookClear s d
  | _ => s

/-- DEV_CXLWIN (R79). -/
def writeCxlWin (w v mask : Word) : Word :=
  if w.getLsbD 0 then (if mask.getLsbD 0 && !v.getLsbD 0 then w &&& ~~~1#64 else w)
  else
    let n := merge w v mask (bitMask 16 1)
    let size := (n.extractLsb' 4 7).toNat
    if !writes1 v mask 0 then n
    else if size = 0 ∨ 64 < size ∨ 64 < (n.extractLsb' 11 6).toNat + size then n ||| (1 <<< 17)
    else (n ||| 1) &&& ~~~(1#64 <<< 17)

def PwWin.en (x : PwWin) : Bool := x.win.getLsbD 0
def PwWin.ctx (x : PwWin) : Nat := (x.win.extractLsb' 1 6).toNat
def PwWin.boff (x : PwWin) : Nat := (x.win.extractLsb' 8 16).toNat
def PwWin.len (x : PwWin) : Nat := (x.win.extractLsb' 24 16).toNat

/-- Two windows overlap in BAR4. -/
def PwWin.meets (x y : PwWin) : Bool := decide (x.boff < y.boff + y.len) && decide (y.boff < x.boff + x.len)

/-- A window that may be enabled (R104). -/
def pwOk (s : State) (w : Nat) (x : PwWin) : Bool :=
  x.len != 0 && decide (x.boff + x.len ≤ 65536) && (s.ctx x.ctx).en && !(s.ctx x.ctx).disabling
    && !s.pwWins.any fun e => e.1 != w && e.2.en && e.2.meets x

/-- DEV_PWWIN[w]. -/
def writePwWin (s : State) (w : Nat) (v mask : Word) : State :=
  let x := spGet s.pwWins w {}
  let put (win : Word) : State := { s with pwWins := spPut s.pwWins w { x with win } }
  if x.en then (if mask.getLsbD 0 && !v.getLsbD 0 then put (x.win &&& ~~~1#64) else s)
  else
    let n := merge x.win v mask (bitMask 6 1 ||| bitMask 39 8)
    if !writes1 v mask 0 then put n
    else if pwOk s w { x with win := n } then put ((n ||| 1) &&& ~~~(1#64 <<< 7)) else put (n ||| (1 <<< 7))

/-- DEV_PWVA[w]. -/
def writePwVa (s : State) (w : Nat) (v mask : Word) : State :=
  let x := spGet s.pwWins w {}
  if x.en then s else { s with pwWins := spPut s.pwWins w { x with va := merge x.va v mask (bitMask 55 20) } }

/-- DEV_ registers with a number (R79, R104, R111). -/
def writeDev (s : State) (reg idx : Nat) (v mask : Word) : State :=
  match reg with
  | 1 => { s with cxlWin := writeCxlWin s.cxlWin v mask }
  | 2 => writePwWin s idx v mask
  | 3 => writePwVa s idx v mask
  | 6 => { s with mgmt := { s.mgmt with attn := s.mgmt.attn.setIfInBounds idx (merge (s.mgmt.attn.getD idx 0) v mask (BitVec.allOnes 64)) } }
  | 7 => { s with mgmt := { s.mgmt with attAddr := merge s.mgmt.attAddr v mask (bitMask 63 6) } }
  | _ => s

/-- The mailbox's event for a command code (R112). -/
def mbxEvent (cmd : BitVec 8) : Event :=
  match cmd.toNat with
  | 1 => .mbxReadIdentityCert
  | 2 => .mbxReadCheckpointCert
  | 3 => .mbxReadAuthorityCert
  | 4 => .mbxWritePartitionRecord
  | _ => .mbxInvalidCommand cmd

/-- DEV_ATTCMD and the mailbox (R111, R112). -/
def writeMbx (s : State) (n : Nat) (v mask : Word) : State :=
  let m := s.mgmt
  match n with
  | 0 => if writes1 v mask 0 then s.raise .devAttcmdGo else s
  | 1 => { s with mgmt := { m with mbxAddr := merge m.mbxAddr v mask (bitMask 63 6) } }
  | 2 => if m.mbxBusy || (mask &&& 0xFF) == 0 then s else s.raise (mbxEvent ((v &&& mask).setWidth 8))
  | _ => if writes1 v mask 1 then { s with mgmt := { m with mbxDone := false } } else s

/-- A write of a register of a block. -/
def writeReg (s : State) (i : Inst) (blk reg idx : Nat) (v mask : Word) : State :=
  match blk with
  | 1 => writeClu s i.clu reg idx v mask
  | 2 => writeDie s i.die reg v mask
  | 3 => writeMod s reg idx v mask
  | 4 => writeCtx s i.ctx reg idx v mask
  | 5 => if reg = 5 then writeBookCtl s i.die v mask else s
  | 6 =>
    match reg with
    | 0 => { s with nfCfg := (merge (s.nfCfg.setWidth 64) v mask 3).setWidth 2 }
    | 2 => { s with collPois := s.collPois && !writes1 v mask 16, collAbort := s.collAbort && !writes1 v mask 17 }
    | _ => s
  | 7 =>
    match reg with
    | 0 => { s with dump := { s.dump with tcm := if mask.getLsbD 0 then v.getLsbD 0 else s.dump.tcm } }
    | 1 => { s with dump := { s.dump with done := s.dump.done && !writes1 v mask 1, trunc := s.dump.trunc && !writes1 v mask 2 } }
    | _ => s
  | 8 => writeDev s reg idx v mask
  | _ => s

/-- A host write of a slot. -/
def slotWrite (s : State) (x : Slot) (v mask : Word) : State :=
  match x with
  | .reg i blk reg idx => writeReg s i blk reg idx v mask
  | .csel d => s.modDie d fun y => { y with csel := (merge (y.csel.setWidth 64) v mask (bitMask 25 0)).setWidth 26 }
  | .cdata d =>
    match (s.die d).selected d with
    | some (L, reg, idx) => hostWriteCore s L reg idx v mask
    | none => s
  | .mbx n => writeMbx s n v mask
  | .record .. => s

/-- A value written, at its place in the slot. -/
def Lane.place (l : Lane) (v : Word) : Word := match l with | .high => v <<< 32 | _ => v

/-! ## BAR0 and BAR2 accesses -/

/-- BAR_REGISTER_WRITE; `v` holds the bits of a 4-byte write at its low end. -/
def execBarRegisterWrite (s : State) : Host.Outcome State Fault Refusal :=
  .next (match s.ev with
    | .barRegisterWrite off lane v =>
      match s.slotAt off.toNat with
      | some x => slotWrite s x (lane.place v) lane.mask
      | none => s
    | _ => s)

/-- RC_REGISTER_READ: a read of a register, RC fields or not. -/
def execRcRegisterRead (s : State) : Host.Outcome State Fault Refusal :=
  .next (match s.ev with
    | .rcRegisterRead off lane =>
      match s.slotAt off.toNat with
      | some x => hostReadSlot s x lane
      | none => s
    | _ => s)

/-- An access that R76 accepts: of 4 or 8 bytes, aligned, at an assigned offset. A kick is a 4-byte write (R86): any other access to
its offset, every read among them, is one to an unassigned offset (DESIGN CHOICE, log entry 42). -/
def barAssigned (s : State) (bar off size : Nat) (write : Bool) : Bool :=
  if bar = 0 then (size == 4 || size == 8) && off % size == 0 && (s.slotAt off).isSome
  else write && size == 4 && off % 64 == 0 && decide (off < 0x30000) && !s.recovery

/-- BAR_UNASSIGNED_ACCESS, of BAR0 and BAR2 (0 and 1): a read returns all ones, a write is ignored. -/
def execBarUnassignedAccess (s : State) : Host.Outcome State Fault Refusal :=
  .next (match s.ev with
    | .barUnassignedAccess bar off size w =>
      if bar = 2 ∨ barAssigned s bar.val off size w.isSome then s
      else match w with
        | some _ => s
        | none => { s with hostData := BitVec.allOnes 64, hostPois := false }
    | _ => s)

/-- DIE_CDATA_ACCESS. -/
def execDieCdataAccess (s : State) : Host.Outcome State Fault Refusal :=
  .next (match s.ev with
    | .dieCdataAccess d lane w =>
      match w, s.recovery with
      | some _, true => s
      | none, true => { s with hostData := BitVec.allOnes 64, hostPois := false }
      | some v, false => slotWrite s (.cdata d) (lane.place v) lane.mask
      | none, false => hostReadSlot s (.cdata d) lane
    | _ => s)

def execDevCxlwinEnable (s : State) : Host.Outcome State Fault Refusal :=
  .next (match s.ev with | .devCxlwinEnable lane v => writeDev s 1 0 (v ||| 1) lane.mask | _ => s)
def execDevPwwinEnable (s : State) : Host.Outcome State Fault Refusal :=
  .next (match s.ev with | .devPwwinEnable w lane v => writeDev s 2 w.val (v ||| 1) lane.mask | _ => s)

/-! ## The CXL window (R78–R80) -/

/-- The physical address of an offset in the active window. -/
def cxlPa (w : Word) (off : Nat) : Option Nat :=
  if w.getLsbD 0 ∧ off < (w.extractLsb' 4 7).toNat * 2 ^ 30 then
    some (0x10000000000 + (w.extractLsb' 1 3).toNat * 0x1000000000 + (w.extractLsb' 11 6).toNat * 2 ^ 30 + off)
  else none

/-- HOST_CXL_ACCESS: applied at the line's home. A read, of up to a whole line, sees the host's own earlier writes that wait there, and
the host may cache the line; the requesters' writes of the aperture it sees when they are applied (R106). -/
def execHostCxlAccess (s : State) : Host.Outcome State Fault Refusal :=
  .next (match s.ev with
    | .hostCxlAccess off size w =>
      match cxlPa s.cxlWin off with
      | none => s
      | some pa =>
        let k := s.forward pa
        match w with
        | some b => if b.length ≤ 64 - off % 64 then s.homeWrite hostParty k b else s
        | none =>
          if 64 - off % 64 < size then s
          else
            let b := s.view nCores k size
            { s with hostData := BitVec.ofNat 64 (leNat b), hostBytes := b, hostPois := s.poisoned k size, hostLines := insNat s.hostLines (k / 64) }
    | _ => s)

/-! ## The peer-write aperture (R105, R106) -/

/-- The active window that holds an offset of BAR4. -/
def State.pwAt (s : State) (off : Nat) : Option PwWin :=
  (s.pwWins.find? fun e => e.2.en && decide (e.2.boff * 2 ^ 20 ≤ off) && decide (off < (e.2.boff + e.2.len) * 2 ^ 20)).map (·.2)

/-- The home of a byte in a context's mapped memory, for a write. -/
def peerHome (s : State) (c : Nat) (va : Nat) : Option Nat :=
  if va % 2 ^ 56 / 2 ^ 48 < 0xFD then
    match translate s (some c) (BitVec.ofNat 56 va) .write with
    | .ok (pa, _) => if (paRange pa).isSome then some (s.forward pa) else none
    | .error _ => none
  else none

/-- Writes the pieces of a request, in ascending order; the second part is the first discarded byte. -/
def peerPieces (s : State) (c : Nat) (ep : Bool) (l : List (Nat × Nat)) (b : List Byte) : State × Option Nat :=
  match l with
  | [] => (s, none)
  | (va, n) :: r =>
    match peerHome s c va with
    | some k =>
      let ls := if ep then linesOf k n else []
      peerPieces (poisonEvents (s.homeWrite peerParty k (b.take n) ls) ls 3) c ep r (b.drop n)
    | none =>
      let (s, _) := peerPieces s c ep r (b.drop n)
      (s, some va)

/-- PEER_WRITE. -/
def execPeerWrite (s : State) : Host.Outcome State Fault Refusal :=
  .next (match s.ev with
    | .peerWrite req off data ep =>
      match s.pwAt off.toNat with
      | none => { s with pwDrop := if s.pwDrop = BitVec.allOnes 32 then s.pwDrop else s.pwDrop + 1 }
      | some x =>
        let va : VAddr := BitVec.ofNat 56 ((x.va.extractLsb' 20 36).toNat * 2 ^ 20 + off.toNat - x.boff * 2 ^ 20)
        match peerPieces s x.ctx ep (s.rangePieces va data.length) data with
        | (s, none) => s
        | (s, some a) => s.fqSend x.ctx (nofibEntry s x.ctx 0x05F false noSrc 0 0 (BitVec.ofNat 64 a) (req.setWidth 64) 0)
    | _ => s)

/-- PEER_READ: Unsupported Request; nothing changes in the part. -/
def execPeerRead (s : State) : Host.Outcome State Fault Refusal := .next s

end Sys2Proof.Machine
end

