-- ==== Sys2Proof/Machine/Packets.lean ====
section
/-! DEFINITION. Packets (spec/03_host_interface.md R95–R100): LAUNCH, COPY, SIGNAL, WAIT, MAP (spec/08_memory_hierarchy.md
R219–R226) and BOOK.
Log entries: 17 (DEDUCED); 27, 38 (DEDUCED and DESIGN CHOICE). -/

namespace Sys2Proof.Machine

/-! ## LAUNCH (R95) -/

/-- A record of an array can be read and names another context. -/
def anyForeign (s : State) (c : Nat) (va : VAddr) (n : Nat) : Bool :=
  (List.range n).any fun i => match recRead s c (recAt va i) .read with | .ok t => t.ctx != c | .error _ => false

/-- LAUNCH_PACKET: the packet issues, or its launch goes on pushing. -/
def execLaunchPacket (s : State) : Host.Outcome State Fault Refusal :=
  .next (match s.ev with
    | .launchPacket c i =>
      match issuing s c i 1 with
      | some (s, p) =>
        if anyForeign s c (p.va 0) (p.num 8 4) then pktInvalid s c p 0x101 0
        else openLaunch s c (.packet c i) (p.va 0) (p.num 8 4)
      | none =>
        match s.launches.find? fun l => l.owner == .packet c i && !l.unread.isEmpty with
        | some l => pushLaunch s l
        | none => s
    | _ => s)

/-- A store of a core of the context is still on its way to its home. -/
def storesOpen (s : State) (c : Nat) : Bool :=
  s.heldWrites.any (fun w => w.core.any fun L => decide (L < nCores) && s.ctxNum L == c) || s.msgs.any fun m => m.body.writes && m.ctx == c

/-- The packet of a launch that is over; DONEA is a release of what its failed tasks stored too (R95). -/
def overPacket (s : State) (l : Launch) : Option (Nat × Packet) :=
  match l.owner with
  | .packet c i => if l.ended && (l.failed == 0 || !storesOpen s c) then (running s c i 1).map fun p => (c, p) else none
  | .book .. => none

/-- LAUNCH_COMPLETE: DONEA counts, and the packet completes. Where tasks failed and the increment of DONEA fails too, CAUSE is that of the
lowest-indexed failed task, as R95 has it, and not the increment's own (R474 states no order; DESIGN CHOICE, log entry 38). -/
def execLaunchComplete (s : State) : Host.Outcome State Fault Refusal :=
  .next (match s.ev with
    | .launchComplete i =>
      match s.launch? i with
      | none => s
      | some l =>
        match overPacket s l with
        | none => s
        | some (c, p) =>
          let fin (s : State) : State :=
            let s := s.dropLaunch i
            match l.firstFail with
            | some (_, cause) => pktDone s c p 3 cause l.failed
            | none => pktDone s c p 0 0 0
          if p.w 2 = 0 then fin s
          else if counterHeld s c (p.va 2) then s
          else match countUp s c (p.va 2) with
            | .ok s' => fin s'
            | .error cause => pktDone (s.dropLaunch i) c p 3 ((l.firstFail.map (·.2)).getD cause) l.failed
    | _ => s)

/-! ## COPY (R96) -/

/-- One side of a copy: the pieces up to the first failing byte, and that byte's index with its cause. -/
structure Side where
  parts : List (Loc × Nat) := []
  fail  : Option (Nat × Cause) := none

/-- Resolves the pieces of a device range until one fails. -/
def sideFrom (s : State) (c : Nat) (k : Kind) (l : List (Nat × Nat)) (at_ : Nat) : Side :=
  match l with
  | [] => {}
  | (va, n) :: r =>
    match resolve s (noCore c) (BitVec.ofNat 56 va) k with
    | .ok x => let y := sideFrom s c k r (at_ + n); { y with parts := (x, n) :: y.parts }
    | .error e => { fail := some (at_, stopCause e) }

/-- A side of a COPY packet: in host memory, or in device memory. -/
def sideOf (s : State) (c : Nat) (host : Bool) (a : Word) (n : Nat) (k : Kind) : Side :=
  if host then { parts := [(⟨hostKey a.toNat, .mapped true⟩, n)] } else sideFrom s c k (s.rangePieces (a.setWidth 56) n) 0

/-- The first `n` bytes of resolved pieces. -/
def firstBytes (ps : List (Loc × Nat)) (n : Nat) : List (Loc × Nat) :=
  match ps with
  | [] => []
  | (l, m) :: r => if n = 0 then [] else (l, min m n) :: firstBytes r (n - m)

/-- Bytes of a side before the 4 KiB page of its byte `i`, and the whole pages among them. -/
def pageStop (a : Word) (i : Nat) : Nat × Nat :=
  let start := (a.toNat + i) / 4096 * 4096
  (start - a.toNat, start / 4096 - (a.toNat + 4095) / 4096)

/-- What a COPY moves: the pieces of its source and destination, and where it stops at the page of the first failing byte: the
cause, and the whole pages before it. -/
def pktCopyPlan (s : State) (c : Nat) (p : Packet) : List (Loc × Nat) × List (Loc × Nat) × Option (Cause × Nat) :=
  let n := p.num 16 8
  let src := sideOf s c (p.num 24 1 % 2 == 1) (p.w 0) n .read
  let dst := sideOf s c (p.num 24 1 / 2 % 2 == 1) (p.w 1) n .write
  let stop : Option (Nat × Nat × Cause) :=
    match src.fail, dst.fail with
    | none, none => none
    | some (i, x), none => some ((pageStop (p.w 0) i).1, (pageStop (p.w 0) i).2, x)
    | none, some (j, x) => some ((pageStop (p.w 1) j).1, (pageStop (p.w 1) j).2, x)
    | some (i, x), some (j, y) =>
      if i ≤ j then some ((pageStop (p.w 0) i).1, (pageStop (p.w 0) i).2, x) else some ((pageStop (p.w 1) j).1, (pageStop (p.w 1) j).2, y)
  let m := match stop with | some (m, _, _) => min m n | none => n
  (firstBytes src.parts m, firstBytes dst.parts m, stop.map fun (_, pages, x) => (x, pages))

/-- A reservation holds back a part of a COPY's destination (R241). -/
def pktCopyHeld (s : State) (c : Nat) (p : Packet) : Bool := (pktCopyPlan s c p).2.1.any fun (l, m) => s.heldRange none l.key m

/-- The whole copy of a packet: bytes move in ascending order (R96). -/
def copyBody (s : State) (c : Nat) (p : Packet) : State × Option (Cause × Nat) :=
  let (ss, ds, stop) := pktCopyPlan s c p
  (copyInto s ds (readPieces s ss) (poisonBytes s ss), stop)

/-- COPY_PACKET: it issues; what is wrong with its body alone is found when it is read (R89). -/
def execCopyPacket (s : State) : Host.Outcome State Fault Refusal :=
  .next (match s.ev with
    | .copyPacket c i =>
      match issuing s c i 2 with
      | none => s
      | some (s, p) =>
        let flags := p.num 24 1
        if flags = 3 then pktInvalid s c p 0x164 0
        else if flags = 0 ∧ overlap (p.va 0) (p.num 16 8) (p.va 1) (p.num 16 8) then pktInvalid s c p 0x165 0
        else s
    | _ => s)

/-- COPY_PACKET_DONE: the bytes, and the entry once they are visible (R94): the copy waits while a reservation holds any of them
back. -/
def execCopyPacketDone (s : State) : Host.Outcome State Fault Refusal :=
  .next (match s.ev with
    | .copyPacketDone c i =>
      match running s c i 2 with
      | none => s
      | some p =>
        if pktCopyHeld s c p then s
        else match copyBody s c p with
        | (s, none) => pktDone s c p 0 0 0
        | (s, some (cause, pages)) => pktDone s c p 3 cause pages
    | _ => s)

/-! ## SIGNAL (R97) -/

/-- The effect of a SIGNAL: the counter's new value, or the cause. -/
def signalBody (s : State) (c : Nat) (p : Packet) : Except Cause (State × Nat) :=
  let v := p.num 8 4
  if p.num 12 1 / 2 % 2 = 1 then .ok (s.hostWrite (p.w 0).toNat (leBytes 4 v), v)
  else match resolveRange s (noCore c) (p.va 0) 4 .atomic with
    | .error e => .error (stopCause e)
    | .ok ps =>
      if p.num 12 1 % 2 = 1 then .ok (writePieces s none ps (leBytes 4 v), v)
      else if piecesPoisoned s ps then .error 0x122
      else
        let n := (leNat (readPieces s ps) + v) % 2 ^ 32
        .ok (writePieces s none ps (leBytes 4 n), n)

/-- SIGNAL_PACKET: the packet issues; its update waits while the counter is held (R241). -/
def execSignalPacket (s : State) : Host.Outcome State Fault Refusal :=
  .next (match s.ev with
    | .signalPacket c i =>
      match (issuing s c i 3).orElse fun _ => (running s c i 3).map fun p => (s, p) with
      | none => s
      | some (s, p) =>
        let host := p.num 12 1 / 2 % 2 = 1
        if host ∧ p.num 12 1 % 2 = 0 then pktInvalid s c p 0x166 0
        else if ¬host ∧ counterHeld s c (p.va 0) then s
        else match signalBody s c p with
          | .ok (s, v) => pktDone s c p 0 0 v
          | .error cause => pktDone s c p 3 cause 0
    | _ => s)

/-! ## WAIT (R98) -/

/-- The state of a WAIT: satisfied, unsatisfied, or failed. -/
def waitState (s : State) (c : Nat) (p : Packet) : Except Cause Bool :=
  match resolveRange s (noCore c) (p.va 0) 4 .read with
  | .error e => .error (stopCause e)
  | .ok ps =>
    if piecesPoisoned s ps then .error 0x120
    else .ok (!(BitVec.ofNat 32 (leNat (readPieces s ps)) - BitVec.ofNat 32 (p.num 8 4)).msb)

/-- A WAIT ends: satisfied or failed. -/
def waitEnds (s : State) (c : Nat) (p : Packet) : State :=
  match waitState s c p with
  | .ok true => pktDone s c p 0 0 0
  | .ok false => s
  | .error cause => pktDone s c p 3 cause 0

/-- Cycles of a number of microseconds (R14). -/
def usCycles (n : Nat) : Nat := 1900 * n

/-- WAIT_PACKET: the first look at the counter. -/
def execWaitPacket (s : State) : Host.Outcome State Fault Refusal :=
  .next (match s.ev with
    | .waitPacket c i =>
      match issuing s c i 4 with
      | none => s
      | some (s, p) =>
        let p := { p with mark := s.clock }
        waitEnds (s.setPacket c p) c p
    | _ => s)

/-- WAIT_PACKET_SATISFIED. -/
def execWaitPacketSatisfied (s : State) : Host.Outcome State Fault Refusal :=
  .next (match s.ev with
    | .waitPacketSatisfied c i => match running s c i 4 with | some p => waitEnds s c p | none => s
    | _ => s)

/-- The timeout of a WAIT has passed. -/
def waitExpired (s : State) (p : Packet) : Bool := p.num 12 4 != 0 && decide (p.mark + usCycles (p.num 12 4) ≤ s.clock)

/-- WAIT_PACKET_TIMEOUT. -/
def execWaitPacketTimeout (s : State) : Host.Outcome State Fault Refusal :=
  .next (match s.ev with
    | .waitPacketTimeout c i =>
      match running s c i 4 with
      | some p => if waitExpired s p then haltBefore (pktDone s c p 5 0x167 0) c p.q else s
      | none => s
    | _ => s)

/-! ## MAP (R99, R219–R224) -/

/-- What a MAP packet asks for. -/
structure MapReq where
  va    : Nat
  count : Nat
  lvl   : Nat
  ps64  : Bool
  unmap : Bool
  ents  : List Word

def MapReq.size (m : MapReq) : Nat := ptSize m.lvl m.ps64
def MapReq.page (m : MapReq) (i : Nat) : Nat := m.va + i * m.size

def mapReq (s : State) (p : Packet) : MapReq :=
  let ctl := p.num 12 1
  let n := p.num 8 4
  { va := p.num 0 8, count := n, lvl := [0, 0, 1, 2].getD (ctl % 4) 0, ps64 := ctl % 4 == 1, unmap := ctl / 4 == 1
    ents := if ctl / 4 = 1 then [] else (chunks 8 n (s.hostRead (p.w 2).toNat (8 * n))).map fun b => BitVec.ofNat 64 (leNat b) }

/-- A supplied entry is in order (R221, R223). -/
def entryValid (s : State) (m : MapReq) (e : Word) : Bool :=
  pteV e && !pteLeaf e && !ptePS e && e.extractLsb' 7 5 == 0 && e.extractLsb' 48 16 == 0 && !(pteW e && !pteR e)
    && ptePA e % m.size == 0 && physOk s (ptePA e) m.size

/-- The table that holds a page's entry, walking from a level down; none where a table is missing, an error at a larger
leaf. -/
def tableAt (s : State) (va lvl t stop : Nat) : Except Unit (Option Nat) :=
  match lvl with
  | 0 => .ok (some t)
  | n + 1 =>
    if lvl ≤ stop then .ok (some t)
    else
      let e := s.rd64 (t + 8 * ptIndex va lvl)
      if !pteV e then .ok none else if pteLeaf e then .error () else tableAt s va n (ptePA e) stop

/-- The entries of a page at its level: one, or 16. -/
def MapReq.slots (m : MapReq) (t va : Nat) : List Nat :=
  (List.range (if m.ps64 then 16 else 1)).map fun i => t + 8 * (ptIndex va m.lvl + i)

/-- A page meets a map-overlap; where it does not, its present leaf if it has one. -/
def pageLeaf (s : State) (root : Nat) (m : MapReq) (va : Nat) : Except Unit (Option Word) :=
  match tableAt s va 4 root m.lvl with
  | .error _ => .error ()
  | .ok none => .ok none
  | .ok (some t) =>
    let es := ((m.slots t va).map s.rd64).filter pteV
    let bad (e : Word) : Bool :=
      if pteLeaf e then ptePS e != m.ps64
      else (List.range 512).any fun i => pteV (s.rd64 (ptePA e + 8 * i))
    if es.any bad then .error () else .ok (es.find? pteLeaf)

/-- Every page's present leaf, in order; an error at a map-overlap. -/
def pageLeaves (s : State) (root : Nat) (m : MapReq) : Except Unit (List (Option Word)) :=
  (List.range m.count).mapM fun i => pageLeaf s root m (m.page i)

/-- The lowest free page of a pool. -/
def freePage (x : Ctx) : Option Nat :=
  (List.range (x.ptPool.extractLsb' 0 12).toNat).find? fun i => i != 0 && !x.ptUsed.contains i

/-- The table of a page's level, with the missing tables made; none where the pool is full. -/
def makeTables (s : State) (c va lvl t stop : Nat) : Option (State × Nat) :=
  match lvl with
  | 0 => some (s, t)
  | n + 1 =>
    if lvl ≤ stop then some (s, t)
    else
      let a := t + 8 * ptIndex va lvl
      let e := s.rd64 a
      if pteV e then makeTables s c va n (ptePA e) stop
      else match freePage (s.ctx c) with
        | none => none
        | some i =>
          let pa := (s.ctx c).poolBase + 4096 * i
          let s := s.modCtx c fun x => { x with ptUsed := insNat x.ptUsed i }
          let s := (s.wr pa (List.replicate 4096 0)).wrN a 8 (pa + 1)
          makeTables s c va n pa stop

/-- Writes the leaf of each page. -/
def mapPages (s : State) (c root : Nat) (m : MapReq) (l : List (Nat × Word)) : Option State :=
  match l with
  | [] => some s
  | (i, e) :: r =>
    match makeTables s c (m.page i) 4 root m.lvl with
    | none => none
    | some (s, t) =>
      let leaf := e.toNat + 32 + (if m.ps64 then 64 else 0)
      mapPages ((m.slots t (m.page i)).foldl (fun s a => s.wrN a 8 leaf) s) c root m r

/-- Clears the leaf of each page. -/
def unmapPages (s : State) (root : Nat) (m : MapReq) (l : List (Nat × Option Word)) : State :=
  match l with
  | [] => s
  | (_, none) :: r => unmapPages s root m r
  | (i, some _) :: r =>
    match tableAt s (m.page i) 4 root m.lvl with
    | .ok (some t) => unmapPages ((m.slots t (m.page i)).foldl (fun s a => s.wrN a 8 0) s) root m r
    | _ => unmapPages s root m r

/-- The use of a context after its old leaves went and new ones came. -/
def useAfter (x : Ctx) (m : MapReq) (old : List (Option Word)) : Ctx :=
  let x := (old.filterMap id).foldl (fun x e => x.useBytes (paKind (ptePA e)) (· - m.size)) x
  m.ents.foldl (fun x e => x.useBytes (paKind (ptePA e)) (· + m.size)) x

/-- A quota would be exceeded (R223, R224). -/
def overQuota (x y : Ctx) : Bool :=
  let q (lo n unit : Nat) : Nat := (x.memq.extractLsb' lo n).toNat * unit
  (decide (q 0 12 (2 ^ 20) < y.useDs) && decide (x.useDs < y.useDs))
    || (decide (q 16 14 (2 ^ 26) < y.useHbm) && decide (x.useHbm < y.useHbm))
    || (decide (q 32 13 (2 ^ 30) < y.useLp) && decide (x.useLp < y.useLp))

/-- The checks and the work of a MAP packet. -/
def mapBody (s : State) (c : Nat) (m : MapReq) : Except Cause State :=
  let x := s.ctx c
  let root := x.poolBase
  if 0xFD * 2 ^ 48 < m.va + m.count * m.size ∨ !m.ents.all (entryValid s m) then .error 0x16A
  else match pageLeaves s root m with
    | .error _ => .error 0x16B
    | .ok old =>
      let y := useAfter x m old
      let use (s : State) : State := s.modCtx c fun z => { z with useDs := y.useDs, useHbm := y.useHbm, useLp := y.useLp }
      if m.unmap then .ok (use (unmapPages s root m ((List.range m.count).zip old)))
      else match mapPages s c root m ((List.range m.count).zip m.ents) with
        | none => .error 0x16C
        | some s' => if overQuota x y then .error 0x16D else .ok (use s')

/-- A trap of a translation fault whose address lies in the range. -/
def inFault (m : MapReq) (t : Option TrapInfo) : Bool :=
  t.any fun t => isTranslation t.cause && !t.eng && decide (m.va ≤ t.addr.toNat) && decide (t.addr.toNat < m.va + m.count * m.size)

/-- Replays the fibres of a core, and resumes its dispatches, that wait for the range (R99, R226). -/
def replayCore (s : State) (m : MapReq) (L : Nat) : State :=
  let c := s.core L
  let fs := ((c.fibres.filter fun e => inFault m e.2.trap).map (·.1)).filter fun f => !(f == 0 && c.shadowTrap.isSome)
  let fs := if inFault m c.shadowTrap then 0 :: fs else fs
  let s := fs.foldl (fun s f => resolveTrap s L f 0 false) s
  let wake (t : Task) : Task :=
    if m.va ≤ t.waitVa.toNat ∧ t.waitVa.toNat < m.va + m.count * m.size then
      match t.phase with
      | .dispatching => { t with phase := .resuming }
      | .faulted => { t with phase := .fetching }
      | _ => t
    else t
  s.modCore L fun c => { c with tasks := c.tasks.map wake }

/-- MAP_PACKET. -/
def execMapPacket (s : State) : Host.Outcome State Fault Refusal :=
  .next (match s.ev with
    | .mapPacket c i =>
      match issuing s c i 5 with
      | none => s
      | some (s, p) =>
        let m := mapReq s p
        match mapBody s c m with
        | .error cause => pktInvalid s c p cause 0
        | .ok s => (s.ctxCores c).foldl (fun s L => replayCore s m L) (pktDone s c p 0 0 0)
    | _ => s)

/-! ## BOOK (R100, R161) -/

/-- The rings of other modules that a ring table in reach names: core, offset and direction. They are asked first. -/
def bookAsks (s : State) (c : Nat) (image : VAddr) : List (CoreId × BitVec 18 × Bool) :=
  match readVa s (noCore c) image 192 with
  | .ok (h, _) =>
    (((chunks 16 8 (h.drop 64)).take (leNat ((h.drop 8).take 1))).filterMap ringEntryOf).filterMap fun e =>
      if idModule e.core = s.modNum.toNat then none else some (e.core, e.off.setWidth 18, e.down)
  | .error _ => []

/-- A BOOK that is loaded completes once the links that it wrote are visible (R94). -/
def bookFinish (s : State) (c : Nat) (p : Packet) : State :=
  if s.heldWrites.any (·.core.isNone) then s else pktDone s c p 0 0 (p.mark - 1)

/-- BOOK_PACKET: the packet issues, and asks the rings of other modules; or their answers are in, and it loads; or it is loaded. -/
def execBookPacket (s : State) : Host.Outcome State Fault Refusal :=
  .next (match s.ev with
    | .bookPacket c i remote =>
      let load (s : State) (p : Packet) : State :=
        match bookLoad s c (p.num 10 1) (p.va 0) (p.num 8 2) (p.num 11 1 == 1) (remote.getD []) with
        | .ok (s', r) => let p := { p with mark := r + 1 }; bookFinish (s'.setPacket c p) c p
        | .error e => pktFail s c p e
      match issuing s c i 6, remote with
      | some (s, p), none =>
        (match bookMay s c (p.num 10 1), bookAsks s c (p.va 0) with
          | .error e, _ => pktFail s c p e
          | .ok _, [] => load s p
          | .ok _, l => l.foldl (fun s e => bookMsg s (p.num 10 1) c e.1 (.ask e.2.1 e.2.2)) s)
      | some (s, p), some _ => load s p
      | none, _ =>
        match running s c i 6 with
        | some p => if p.mark ≠ 0 then bookFinish s c p else if remote.isSome then load s p else s
        | none => s
    | _ => s)

end Sys2Proof.Machine
end

