-- ==== Sys2Proof/Machine/Ckpt.lean ====
section
/-! DEFINITION. CHECKPOINT and RESTORE (spec/04_resilience_and_checkpoint.md R129–R134, spec/03_host_interface.md R101),
attestation and the management mailbox (R111, R112).
Log entries: 9, 27, 38, 39, 40 (DEDUCED and DESIGN CHOICE); 10 (DESIGN CHOICE). -/

namespace Sys2Proof.Machine

/-! ## The region list -/

/-- The regions of a context's list (R129), with whether each keeps its field limits. -/
def regionList (s : State) (c : Nat) : Except Cause (List (Shard × Bool)) :=
  let w := (s.ctx c).ckList
  let n := (w.extractLsb' 56 8).toNat
  match readVa s (noCore c) (BitVec.ofNat 56 ((w.extractLsb' 6 50).toNat * 64)) (64 * n) with
  | .error e => .error (stopCause e)
  | .ok (b, pois) =>
    if pois then .error 0x120
    else .ok ((chunks 64 n b).map fun e =>
      let at_ (o n : Nat) : Nat := leNat ((e.drop o).take n)
      let x : Shard :=
        { id := BitVec.ofNat 64 (at_ 16 8), va := BitVec.ofNat 56 (at_ 0 8), len := at_ 8 8, off := 0, layout := BitVec.ofNat 64 (at_ 24 8)
          rgroup := BitVec.ofNat 32 (at_ 32 4), ridx := BitVec.ofNat 16 (at_ 36 2), owner := BitVec.ofNat 16 (at_ 36 2)
          flags := BitVec.ofNat 8 (at_ 38 1), digest := 0 }
      (x, decide (at_ 0 8 < 2 ^ 56) && at_ 0 8 % 64 == 0 && at_ 8 8 % 64 == 0 && decide (64 ≤ at_ 8 8) && decide (at_ 8 8 ≤ 2 ^ 40)
        && layoutFields (at_ 24 8) && decide (at_ 38 1 < 4) && (e.drop 39).all (· == 0)))

/-! ## The context shard (R130): words, in an order of bytes that the manual leaves open (log entry 10) -/

/-- The registers of a core that configure it (R437 numbers) and the lengths of their arrays. -/
def coreConfig : List (Nat × Nat) :=
  [(0, 1), (1, 1), (2, 1), (5, 1), (7, 1), (10, 1), (11, 1), (14, 1), (29, 1), (30, 16), (31, 16), (33, 1), (40, 1)]

/-- The CTX_ registers of a context's shard: all of them (R130). -/
def ctxConfig : List (Nat × Nat) := (regLens 4).zipIdx.map fun (n, r) => (r, max 1 n)

/-- A restore loads each register as a write of its word would (DESIGN CHOICE, log entry 39), so that what a write cannot change in an
enabled context stays as it is; the completion queues before the submission queues that name them. CTX_CFG stays, since the context is
enabled, and CTX_CKSTAT, whose FAIL a write would clear. -/
def ctxLoads (regs : List ((Nat × Nat) × Word)) : List ((Nat × Nat) × Word) :=
  (regs.filter fun x => x.1.1 != 0 && x.1.1 != 3 && x.1.1 != 14) ++ regs.filter fun x => x.1.1 == 3

/-- Registers of a list with their indices. -/
def regIndices (l : List (Nat × Nat)) : List (Nat × Nat) := l.flatMap fun (r, n) => (List.range n).map fun i => (r, i)

/-- Words of a core: configuration, decode tables, tree round number. -/
def coreWords (s : State) (L : Nat) : List Word :=
  (regIndices coreConfig).map (fun (r, i) => coreReg s L {} r i)
    ++ (List.range 256).map (fun i => ((s.core L).entry false i).setWidth 64)
    ++ (List.range 256).map (fun i => ((s.core L).entry true i).setWidth 64)
    ++ [(treeNext s L).setWidth 64]

/-- Words of a core of a shard. -/
def coreWordCount : Nat := (regIndices coreConfig).length + 513

def BookEntry.words (e : BookEntry) : List Word :=
  [fields [(e.mb.toNat, 0), (e.stage.toNat, 16), (e.kind.toNat, 24), (e.sop.toNat, 26), (e.slot.toNat, 28), (e.up.toNat, 34),
      (e.dn.toNat, 38), (e.upn.toNat, 42), (e.dnn.toNat, 50)], e.graph.setWidth 64, e.ntask.setWidth 64]

def bookEntryOfWords (a b c : Word) : BookEntry :=
  { mb := a.extractLsb' 0 16, stage := a.extractLsb' 16 8, kind := a.extractLsb' 24 2, sop := a.extractLsb' 26 2, slot := a.extractLsb' 28 6
    up := a.extractLsb' 34 4, dn := a.extractLsb' 38 4, upn := a.extractLsb' 42 8, dnn := a.extractLsb' 50 8, graph := b.setWidth 56
    ntask := c.setWidth 32 }

/-- Words of a die's book, where it belongs to the context; one that the checkpoint holds is saved as running (R164). -/
def bookWords (s : State) (c d : Nat) : List Word :=
  let b := s.book d
  if b.state = .empty ∨ b.ctx.toNat ≠ c then [0]
  else
    [BitVec.ofNat 64 (if b.state = .held ∧ b.ckhold ∧ b.ckgo then 2 else b.state.code), b.step.setWidth 64, b.stash, b.codec]
      ++ b.idle.toList ++ (b.cred.toList.map fun x => x.setWidth 64)
      ++ [fields [(b.pos, 0), (b.infl, 16), (b.loop.toNat, 24), (b.nstash.toNat, 25), (b.cause.toNat, 32), (b.fent.toNat, 41)]
         , b.donea.setWidth 64, b.stashBase.setWidth 64, b.stashSlot.setWidth 64, b.keyid
         , fields [(b.rings.length, 0), (b.entries.length, 16)]]
      ++ (b.rings.map fun r => fields [(r.core.toNat, 0), (r.off.toNat, 32), (r.down.toNat, 48)])
      ++ b.entries.flatMap (·.words)

/-- All words of a context shard. -/
def shardWords (s : State) (c : Nat) : List Word :=
  let cores := ctxLeaves s c
  (regIndices ctxConfig).map (fun (r, i) => ctxReg s c r i) ++ [BitVec.ofNat 64 cores.length]
    ++ cores.flatMap (coreWords s) ++ (List.range 8).flatMap (bookWords s c)

/-- Exchanges two places of a list. -/
def swapAt (l : List Byte) (p : Nat × Nat) : List Byte :=
  match l[p.1]?, l[p.2]? with
  | some a, some b => (l.set p.1 b).set p.2 a
  | _, _ => l

/-- The bytes of a context shard, a whole number of 64-byte lines. -/
def shardBytes (s : State) (c : Nat) : List Byte :=
  let b := (shardWords s c).flatMap fun w => leBytes 8 w.toNat
  let b := b ++ List.replicate ((64 - b.length % 64) % 64) 0
  (Config.shardSwaps b.length).foldl swapAt b

/-- The words that a context shard's bytes hold. -/
def shardUnpack (b : List Byte) : List Word :=
  let b := (Config.shardSwaps b.length).reverse.foldl swapAt b
  (chunks 8 (b.length / 8) b).map fun w => BitVec.ofNat 64 (leNat w)

/-! ## CHECKPOINT (R130–R133) -/

/-- Bytes of a list of shards. -/
def shardsLen (l : List Shard) : Nat := l.foldl (fun n x => n + x.len) 0

/-- DEVA holds a number of bytes: its range translates for writes. -/
def devaHolds (s : State) (c : Nat) (deva : VAddr) (n : Nat) : Bool :=
  decide (deva.toNat + n ≤ 2 ^ 56) && match resolveRange s (noCore c) deva n .write with | .ok _ => true | .error _ => false

/-- Books of a context. -/
def modBooks (s : State) (c : Nat) (f : Book → Book) : State :=
  (List.range 8).foldl (fun s d => if (s.book d).state ≠ .empty ∧ (s.book d).ctx.toNat = c then s.modBook d f else s) s

/-- An event record of a checkpoint: CKPTID, and CTX_CKSTAT as its status (R123; log entry 9). -/
def ckptEvent (s : State) (c : Nat) (id : Word) : State := s.event 0 noSrc 11 c (detail2 id.toNat (ctxReg s c 14 0).toNat)

/-- Both entries of a checkpoint that fails before its second copy is complete (R101). -/
def ckptFault (s : State) (c : Nat) (p : Packet) (cause : Cause) : State := pktDone (pktEntry s c p 3 cause 1) c p 3 cause 2

/-- DEVA lies in window 0xFF, which names no core here (R474). -/
def devaWindow (deva : VAddr) : Bool := deva.toNat / 2 ^ 48 == 0xFF

/-- CHECKPOINT_PACKET: step 1, and step 2 begins. -/
def execCheckpointPacket (s : State) : Host.Outcome State Fault Refusal :=
  .next (match s.ev with
    | .checkpointPacket c i =>
      match issuing s c i 7 with
      | none => s
      | some (s, p) =>
        match regionList s c with
        | .error cause => ckptFault s c p cause
        | .ok l =>
          let shards := l.map (·.1)
          if devaWindow (p.va 1) then ckptFault s c p 0x068
          else if !devaHolds s c (p.va 1) (shardsLen shards + (shardBytes s c).length) then pktInvalid s c p 0x16E 0
          else if l.any (!·.2) then pktInvalid s c p 0x160 0
          else
            let k : Ckpt := { pkt := i, restore := false, id := p.w 0, deva := p.va 1, hosta := p.w 2, dedup := p.num 24 1 == 1, shards }
            (modBooks s c bookHold).modCtx c fun x => { x with ckpt := some k, cutting := true, ckPhase := 1 }
    | _ => s)

/-- The context is at a step boundary (R130, step 2), which waits while one of its clusters is halted (R306). -/
def atBoundary (s : State) (c : Nat) : Bool :=
  let x := s.ctx c
  x.colls.all (fun k => k.parts.all (·.done)) && x.clusters.all (fun k => (s.cluster k).copies.isEmpty && !(s.cluster k).halted && !(s.cluster k).halting)
    && !(x.packets.any fun p => p.issued && p.kind == 2)
    && (s.ctxCores c).all fun L =>
      let k := s.core L
      !k.hasEntries && k.tasks.isEmpty && k.stealIn.isNone && k.balIn.isEmpty && k.stashes.isEmpty && k.vec.isNone && k.mat.isNone
        && k.vecPaused.isEmpty && k.matPaused.isEmpty

/-- CHECKPOINT_STEP_BOUNDARY: the halt tree stops the context (step 3). -/
def execCheckpointStepBoundary (s : State) : Host.Outcome State Fault Refusal :=
  .next (match s.ev with
    | .checkpointStepBoundary c =>
      match (s.ctx c).ckpt with
      | some k =>
        if k.restore || k.cuts || !atBoundary s c then s
        else
          let k := { k with cuts := true }
          ckptEvent ((gangStop s c 0x157).modCtx c fun x => { x with ckpt := some k, ckPhase := 2 }) c k.id
      | none => s
    | _ => s)

/-- Copies regions into DEVA in order, from `at_` on, with the digest of each; or the failed access's cause. -/
def copyRegions (s : State) (c : Nat) (l : List Shard) (at_ : VAddr) : Except Cause (State × List Shard × VAddr) :=
  match l with
  | [] => .ok (s, [], at_)
  | x :: r =>
    match resolveRange s (noCore c) x.va x.len .read with
    | .error e => .error (stopCause e)
    | .ok ps =>
      let b := readPieces s ps
      match writePoisoned s (noCore c) at_ b (poisonBytes s ps) with
      | .error e => .error (stopCause e)
      | .ok s =>
        match copyRegions s c r (at_ + BitVec.ofNat 56 x.len) with
        | .error e => .error e
        | .ok (s, l, a) => .ok (s, { x with digest := sha512 b } :: l, a)

/-- The second copy: every region, then the context shard (step 4). -/
def secondCopy (s : State) (c : Nat) (k : Ckpt) : Except Cause (State × Ckpt) :=
  let b := shardBytes s c
  match copyRegions s c k.shards k.deva with
  | .error e => .error e
  | .ok (s, l, a) =>
    match writeVa s (noCore c) a b with
    | .error e => .error (stopCause e)
    | .ok s =>
      let x : Shard := { id := 0, va := 0, len := b.length, off := 0, layout := 0, rgroup := 0, ridx := 0, owner := 0, flags := 0,
                         ctxShard := true, digest := sha512 b }
      let sum (f : Core → Word) : Word := (s.ctxCores c).foldl (fun n L => n + f (s.core L)) 0
      .ok (s, { k with shards := l ++ [x], sent := sum (·.xmTx), recv := sum (·.xmRx), since := s.clock })

/-- Step 5: the checkpoint's hold ends. -/
def releaseCut (s : State) (c : Nat) : State :=
  (modBooks (endStop s c 0x157) c bookUnhold).modCtx c fun x => { x with ckpt := none, cutting := false }

/-- A shard takes part in the digest exchange. -/
def Ckpt.exchanges (k : Ckpt) (x : Shard) : Bool := k.dedup && x.flags.getLsbD 0 && !x.ctxShard && k.hosta != 0

/-- The other modules of the partition's mesh (R27). -/
def otherModules (s : State) : List Nat :=
  (List.range 4096).filter fun m => m != s.modNum.toNat && inMesh s (m / 64) (m % 64)

/-- Sends each exchanged shard's RIDX and digest to the other modules (R131): which of them have a checkpoint of the same CKPTID that
names its RGROUP and SHARDID, they find themselves (log entry 39). -/
def sendDigests (s : State) (c : Nat) (k : Ckpt) : State :=
  (k.shards.filter k.exchanges).foldl (init := s) fun s x =>
    (otherModules s).foldl (init := s) fun s m =>
      bookMsg s 0 c (BitVec.ofNat 32 (m * 65536)) (.digest k.id x.rgroup x.id x.ridx x.digest)

/-- The finished copy of a drain: its bytes, and whether they hold poison. -/
def drainBytes (s : State) (c : Nat) (k : Ckpt) : Except Cause (List Byte × Bool) :=
  match readVa s (noCore c) k.deva (shardsLen k.shards) with
  | .ok r => .ok r
  | .error e => .error (stopCause e)

/-- The end of a checkpoint's drain, with its entry and its record; or its failure (R133). -/
def drainEnd (s : State) (c : Nat) (p : Packet) (id : Word) (failed : Bool) : State :=
  let s := s.modCtx c fun x => { x with drain := none, ckPhase := 0, ckFail := x.ckFail || failed }
  ckptEvent (if failed then pktDone s c p 3 0x174 2 else pktDone s c p 0 0 2) c id

/-- A checkpoint without a host destination is over with its copy (R101), unless the copy holds poison (R133). -/
def copyOnly (s : State) (c : Nat) (p : Packet) (k : Ckpt) : State :=
  drainEnd s c p k.id (match drainBytes s c k with | .ok (_, pois) => pois | .error _ => true)

/-- A notice is still on its way to a book of the context: the counters that the shard saves count it (R130, R163). -/
def noticesOut (s : State) (c : Nat) : Bool :=
  (List.range 8).any fun d => (s.book d).state != .empty && (s.book d).ctx.toNat == c && !(s.book d).notices.isEmpty

/-- CHECKPOINT_COPY_DONE: the context has stopped with an equal cut; the copies are made, and the cores go on. No reservation holds
back what the part writes in DEVA (R241). -/
def execCheckpointCopyDone (s : State) : Host.Outcome State Fault Refusal :=
  .next (match s.ev with
    | .checkpointCopyDone c =>
      match (s.ctx c).ckpt with
      | none => s
      | some k =>
        match running s c k.pkt 7 with
        | none => s
        | some p =>
          if !k.cuts || !(s.ctx c).stopped || (s.ctx c).reasons.contains 0x170 || noticesOut s c
            || rangeHeld s c k.deva (shardsLen k.shards + (shardBytes s c).length) then s
          else match secondCopy s c k with
            | .error cause =>
              let s := (releaseCut s c).modCtx c fun x => { x with ckFail := true, ckPhase := 0 }
              ckptEvent (ckptFault s c p cause) c k.id
            | .ok (s, k) =>
              let s := (releaseCut s c).modCtx c fun x => { x with drain := some k, ckPhase := 3 }
              let s := sendDigests (ckptEvent (pktEntry s c p 0 0 1) c k.id) c k
              if k.hosta = 0 then copyOnly s c p k else s
    | _ => s)

/-! ## The digest exchange and the drain (R131–R133) -/

/-- Replaces a shard of a drain. -/
def Ckpt.modShard (k : Ckpt) (i : Nat) (f : Shard → Shard) : Ckpt :=
  { k with shards := k.shards.zipIdx.map fun (x, j) => if j = i then f x else x }

/-- Cycles of the 10 ms that a member has. -/
def dedupCycles : Nat := usCycles 10000

/-- A member's digest: an equal one with a lower RIDX is the owner's. -/
def Shard.hear (x : Shard) (ridx : BitVec 16) (d : BitVec 512) : Shard :=
  let x := { x with heard := ridx :: x.heard }
  if d = x.digest ∧ ridx.toNat < x.owner.toNat ∧ !x.full then { x with owner := ridx, ref := true } else x

/-- DEDUP_DIGEST_RECEIVE. -/
def execDedupDigestReceive (s : State) : Host.Outcome State Fault Refusal :=
  .next (match s.ev with
    | .dedupDigestReceive c i ridx d =>
      match (s.ctx c).drain with
      | none => s
      | some k =>
        match k.shards[i]? with
        | none => s
        | some x =>
          if !k.exchanges x || ridx == x.ridx || decide (k.since + dedupCycles < s.clock) then s
          else s.modCtx c fun y => { y with drain := some (k.modShard i (·.hear ridx d)) }
    | _ => s)

/-- DEDUP_DIGEST_TIMEOUT: the member is left out and the shard written in full, or with XREQ the checkpoint fails. -/
def execDedupDigestTimeout (s : State) : Host.Outcome State Fault Refusal :=
  .next (match s.ev with
    | .dedupDigestTimeout c i ridx =>
      match (s.ctx c).drain with
      | none => s
      | some k =>
        match k.shards[i]? with
        | none => s
        | some x =>
          if !k.exchanges x || ridx == x.ridx || x.heard.contains ridx || decide (s.clock < k.since + dedupCycles) then s
          else if x.flags.getLsbD 1 then s.modCtx c fun y => { y with drain := some { k with failed := 0x174 } }
          else s.modCtx c fun y => { y with drain := some (k.modShard i fun x => { x with full := true, ref := false, owner := x.ridx }) }
    | _ => s)

/-- Offsets of the shards in the image: each at the next multiple of 4 KiB. -/
def placeShards (at_ : Nat) (l : List Shard) : List Shard :=
  match l with
  | [] => []
  | x :: r => { x with off := (at_ + 4095) / 4096 * 4096 } :: placeShards ((at_ + 4095) / 4096 * 4096 + x.len) r

/-- Rows and columns of the partition's mesh. -/
def meshShape (s : State) : Nat × Nat :=
  if s.part.getLsbD 26 then ((s.part.extractLsb' 12 7).toNat, (s.part.extractLsb' 19 7).toNat) else (1, 1)

/-- An entry of the manifest (R132). -/
def Shard.bytes (x : Shard) : List Byte :=
  leBytes 8 x.id.toNat ++ leBytes 8 x.va.toNat ++ leBytes 8 x.len ++ leBytes 8 x.off ++ leBytes 8 x.layout.toNat
    ++ leBytes 4 x.rgroup.toNat ++ leBytes 2 x.ridx.toNat ++ leBytes 2 x.owner.toNat ++ leBytes 1 (x.ref.toNat + 2 * x.ctxShard.toNat)
    ++ leBytes 15 0 ++ digestBytes x.digest

/-- The manifest with its signature (R132). -/
def manifest (s : State) (c : Nat) (k : Ckpt) (l : List Shard) : List Byte :=
  let b := padTo 256 (leBytes 4 0x4B434E58 ++ leBytes 2 1 ++ leBytes 2 l.length ++ leBytes 8 k.id.toNat ++ leBytes 2 s.modNum.toNat
      ++ leBytes 1 c ++ leBytes 1 (meshShape s).1 ++ leBytes 1 (meshShape s).2 ++ leBytes 3 0 ++ leBytes 8 Config.serial.toNat
      ++ leBytes 8 k.sent.toNat ++ leBytes 8 k.recv.toNat)
    ++ l.flatMap (·.bytes)
  b ++ padTo 132 (Config.checkpointSign b)

/-- Writes the shards of an image from the bytes of the copy; a REF shard's place stays as it is. -/
def drainShards (s : State) (hosta : Nat) (l : List Shard) (b : List Byte) : State :=
  match l with
  | [] => s
  | x :: r => drainShards (if x.ref then s else s.hostWrite (hosta + x.off) (b.take x.len)) hosta r (b.drop x.len)

/-- CHECKPOINT_DRAIN_DONE. -/
def execCheckpointDrainDone (s : State) : Host.Outcome State Fault Refusal :=
  .next (match s.ev with
    | .checkpointDrainDone c hostErr =>
      match (s.ctx c).drain with
      | none => s
      | some k =>
        match running s c k.pkt 7 with
        | none => s
        | some p =>
          match drainBytes s c k with
          | .error _ => drainEnd s c p k.id true
          | .ok (b, pois) =>
            if pois || k.failed != 0 || hostErr then drainEnd s c p k.id true
            else
              let l := placeShards (256 + 128 * k.shards.length + 132) k.shards
              drainEnd (drainShards (s.hostWrite k.hosta.toNat (manifest s c k l)) k.hosta.toNat l b) c p k.id false
    | _ => s)

/-! ## RESTORE (R134) -/

/-- An entry of a manifest read back. -/
def shardOf (e : List Byte) : Shard :=
  let at_ (o n : Nat) : Nat := leNat ((e.drop o).take n)
  { id := BitVec.ofNat 64 (at_ 0 8), va := BitVec.ofNat 56 (at_ 8 8), len := at_ 16 8, off := at_ 24 8, layout := BitVec.ofNat 64 (at_ 32 8)
    rgroup := BitVec.ofNat 32 (at_ 40 4), ridx := BitVec.ofNat 16 (at_ 44 2), owner := BitVec.ofNat 16 (at_ 46 2), flags := 0
    ref := at_ 48 1 % 2 == 1, ctxShard := at_ 48 1 / 2 % 2 == 1, digest := digestOf ((e.drop 64).take 64) }

/-- RESTORE_PACKET: step 1, and the wait of step 2 begins. -/
def execRestorePacket (s : State) : Host.Outcome State Fault Refusal :=
  .next (match s.ev with
    | .restorePacket c i =>
      match issuing s c i 8 with
      | none => s
      | some (s, p) =>
        let h := s.hostRead (p.w 2).toNat 256
        let n := 256 + 128 * leNat ((h.drop 6).take 2)
        let m := s.hostRead (p.w 2).toNat (n + 132)
        let cert := if p.w 4 = 0 then [] else s.hostRead (p.w 4).toNat 4096
        if !Config.manifestOk (m.take n) (m.drop n) cert then pktDone s c p 3 0x175 0
        else
          let k : Ckpt := { pkt := i, restore := true, id := p.w 0, deva := p.va 1, hosta := p.w 2,
                            shards := (chunks 128 (leNat ((h.drop 6).take 2)) ((m.take n).drop 256)).map shardOf,
                            mesh := leNat ((h.drop 19).take 2) }
          s.modCtx c fun x => { x with ckpt := some k, cutting := true }
    | _ => s)

/-- Step 3: every shard into DEVA, its digest checked. -/
def readShards (s : State) (c : Nat) (hosta : Nat) (l : List Shard) (at_ : VAddr) : State × Option Cause :=
  match l with
  | [] => (s, none)
  | x :: r =>
    let b := s.hostRead (hosta + x.off) x.len
    match writeVa s (noCore c) at_ b with
    | .error e => (s, some (stopCause e))
    | .ok s => if sha512 b ≠ x.digest then (s, some 0x176) else readShards s c hosta r (at_ + BitVec.ofNat 56 x.len)

/-- Step 4: each staged shard to its region. -/
def placeRegions (s : State) (c : Nat) (regions : List Shard) (l : List Shard) (at_ : VAddr) : Except Cause State :=
  match l with
  | [] => .ok s
  | x :: r =>
    let next := at_ + BitVec.ofNat 56 x.len
    if x.ctxShard then placeRegions s c regions r next
    else match regions.find? (·.id == x.id) with
      | none => .error 0x177
      | some y =>
        match resolveRange s (noCore c) at_ x.len .read with
        | .error e => .error (stopCause e)
        | .ok ps =>
          match writePoisoned s (noCore c) y.va (readPieces s ps) (poisonBytes s ps) with
          | .error e => .error (stopCause e)
          | .ok s => placeRegions s c regions r next

/-- A core takes the words of a shard: all of them, or the decode tables alone. -/
def loadCore (s : State) (c L : Nat) (w : List Word) (all : Bool) : State :=
  let n := (regIndices coreConfig).length
  let s := if all then ((regIndices coreConfig).zip w).foldl (fun s x => writeCore s L none x.1.1 x.1.2 x.2 (BitVec.allOnes 64)) s else s
  let put (t : Bool) (s : State) (x : Nat × Word) : State := s.modCore L fun k => writeDtab k t x.1 x.2 (BitVec.allOnes 64)
  let s := ((List.range 256).zip (w.drop n)).foldl (put false) s
  let s := ((List.range 256).zip (w.drop (n + 256))).foldl (put true) s
  if all && (s.core L).treeJoin then s.modCtx c fun x => { x with nextRound := (w.getD (n + 512) 0).setWidth 8 } else s

/-- Cores take their words in order. -/
def loadCores (s : State) (c : Nat) (l : List Nat) (w : List Word) (all : Bool) : State :=
  match l with
  | [] => s
  | L :: r => loadCores (loadCore s c L (w.take coreWordCount) all) c r (w.drop coreWordCount) all

/-- The state of a book from its code. -/
def bookStateOf (n : Nat) : BookState :=
  match n with | 1 => .ready | 2 => .run | 3 => .held | 4 => .done | 5 => .fault | _ => .empty

/-- A book from its words, past the first: the book and the words behind it. -/
def bookOfWords (c : Nat) (st : Word) (w : List Word) : Book × List Word :=
  let g (i : Nat) : Word := w.getD i 0
  let f (i lo n : Nat) : Nat := ((g i).extractLsb' lo n).toNat
  let nr := f 20 0 16
  let ne := f 20 16 16
  let rs := (w.drop 21).take nr
  let es := chunks 3 ne (w.drop (21 + nr))
  let rings : List BookRing := rs.map fun x => { core := x.extractLsb' 0 32, off := x.extractLsb' 32 16, down := x.getLsbD 48 }
  ({ state := bookStateOf st.toNat, ctx := BitVec.ofNat 6 c, step := (g 0).setWidth 32, stash := g 1, codec := g 2
     idle := Vector.ofFn fun i => g (3 + i.val), cred := Vector.ofFn fun j => (g (7 + j.val)).setWidth 9
     pos := f 15 0 16, infl := f 15 16 8, loop := (g 15).getLsbD 24, nstash := BitVec.ofNat 7 (f 15 25 7), cause := BitVec.ofNat 9 (f 15 32 9)
     fent := BitVec.ofNat 10 (f 15 41 10), donea := (g 16).setWidth 56, stashBase := (g 17).setWidth 56, stashSlot := (g 18).setWidth 32
     keyid := g 19, rings, entries := es.map fun e => bookEntryOfWords (e.getD 0 0) (e.getD 1 0) (e.getD 2 0) }, w.drop (21 + nr + 3 * ne))

/-- The book that a context has on a die goes, with its links and its launches. -/
def dropBook (s : State) (c d : Nat) : State :=
  if (s.book d).state = .empty ∨ (s.book d).ctx.toNat ≠ c then s
  else
    let mine (l : Launch) : Bool := (s.book d).flight.any (·.1 == l.id)
    (emptyBook { s with launches := s.launches.filter fun l => !mine l } d).modBook d fun b => { b with flight := [] }

/-- Books of the dies from `d` on, with the links of their rings written again (R168); a die that the shard saved with none of the
context's has none after it. -/
def loadBooks (s : State) (c d : Nat) (w : List Word) (fuel : Nat) : State :=
  match fuel, w with
  | 0, _ | _, [] => s
  | n + 1, st :: w =>
    let s := dropBook s c d
    if st = 0 then loadBooks s c (d + 1) w n
    else
      let (b, w) := bookOfWords c st w
      loadBooks (b.rings.foldl (fun s e => writeLink s d c e) (s.modBook d fun _ => b)) c (d + 1) w n

/-- Loads a context shard: all of it, or (R134, step 5) its decode tables and CTX_RETRY. -/
def loadShard (s : State) (c : Nat) (w : List Word) (all : Bool) : State :=
  let regs := regIndices ctxConfig
  let set (s : State) (x : (Nat × Nat) × Word) : State := writeCtxPlain s c x.1.1 x.1.2 x.2 (BitVec.allOnes 64)
  let s := ((ctxLoads (regs.zip w)).filter fun x => all || x.1.1 == 10).foldl set s
  let n := (w.getD regs.length 0).toNat
  let rest := w.drop (regs.length + 1)
  let s := loadCores s c ((ctxLeaves s c).take n) rest all
  if all then loadBooks s c 0 (rest.drop (n * coreWordCount)) 8 else s

/-- The bytes of a staged context shard. -/
def stagedShard (s : State) (c : Nat) (l : List Shard) (at_ : VAddr) : List Byte :=
  match l with
  | [] => []
  | x :: r =>
    if x.ctxShard then (match readVa s (noCore c) at_ x.len with | .ok (b, _) => b | .error _ => [])
    else stagedShard s c r (at_ + BitVec.ofNat 56 x.len)

/-- Steps 4 and 5 on staged shards. -/
def installShards (s : State) (c : Nat) (k : Ckpt) : State × Cause :=
  let same := k.mesh == (meshShape s).1 + 256 * (meshShape s).2
  let w := shardUnpack (stagedShard s c k.shards k.deva)
  if !same then (loadShard s c w false, 0)
  else match regionList s c with
    | .error e => (s, e)
    | .ok l =>
      let regions := l.map (·.1)
      if k.shards.any fun x => !x.ctxShard && !regions.any (·.id == x.id) then (s, 0x177)
      else
        match placeRegions s c regions k.shards k.deva with
        | .ok s => (loadShard s c w true, 0)
        | .error e => (s, e)

/-- RESTORE_STEP_BOUNDARY: steps 3 to 5. -/
def execRestoreStepBoundary (s : State) : Host.Outcome State Fault Refusal :=
  .next (match s.ev with
    | .restoreStepBoundary c =>
      match (s.ctx c).ckpt with
      | some k =>
        if !k.restore || k.ended || !atBoundary s c then s
        else
          let (s, cause) : State × Cause :=
            match readShards s c k.hosta.toNat k.shards k.deva with
            | (s, some cause) => (s, cause)
            | (s, none) => installShards s c k
          s.modCtx c fun x => { x with ckpt := some { k with ended := true, failed := cause } }
      | none => s
    | _ => s)

/-- RESTORE_PACKET_DONE: once no write of the part waits behind a reservation (R94). -/
def execRestorePacketDone (s : State) : Host.Outcome State Fault Refusal :=
  .next (match s.ev with
    | .restorePacketDone c =>
      match (s.ctx c).ckpt with
      | some k =>
        if !k.restore || !k.ended || s.heldWrites.any (·.core.isNone) then s
        else
          let s := s.modCtx c fun x => { x with ckpt := none, cutting := false }
          match running s c k.pkt 8 with
          | some p => pktDone s c p (if k.failed = 0 then 0 else 3) k.failed 0
          | none => s
      | none => s
    | _ => s)

/-! ## Attestation (R111) -/

/-- DEV_ATTCMD_GO: DONE falls as a report begins (DESIGN CHOICE, log entry 40). -/
def execDevAttcmdGo (s : State) : Host.Outcome State Fault Refusal :=
  .next (match s.ev with
    | .devAttcmdGo => if s.mgmt.attBusy then s else { s with mgmt := { s.mgmt with attBusy := true, attDone := false } }
    | _ => s)

/-- An enable mask: bit n for each of the numbers. -/
def enMask (l : List Nat) : Nat := l.foldl (fun m n => m + 2 ^ n) 0

/-- The 512 bytes of an attestation report. -/
def attReport (s : State) : List Byte :=
  let b := leBytes 4 0x414E5845 ++ leBytes 2 1 ++ leBytes 2 500 ++ leBytes 8 Config.serial.toNat
    ++ s.mgmt.attn.toList.flatMap (fun w => leBytes 8 w.toNat) ++ padTo 256 s.mgmt.meas ++ leBytes 8 s.mgmt.boot.toNat
    ++ leBytes 8 s.cxlWin.toNat ++ leBytes 8 (enMask ((s.pwWins.filter (·.2.en)).map (·.1)))
    ++ leBytes 8 (enMask ((s.ctxs.filter fun e => e.2.en && !e.2.disabling).map (·.1)))
  padTo 512 (b ++ padTo 132 (Config.identitySign b))

/-- ATTESTATION_DONE. -/
def execAttestationDone (s : State) : Host.Outcome State Fault Refusal :=
  .next (match s.ev with
    | .attestationDone =>
      if !s.mgmt.attBusy then s
      else { (s.hostWrite s.mgmt.attAddr.toNat (attReport s)).irq 0 with mgmt := { s.mgmt with attBusy := false, attDone := true } }
    | _ => s)

/-! ## The mailbox (R112) -/

/-- A command's effect on the buffer and on LEN and ERR; BUSY until MBX_COMMAND_DONE. -/
def mbxBegin (s : State) (write : List Byte) (err : Bool) : State :=
  if s.mgmt.mbxBusy then s
  else
    let s := if err then s else s.hostWrite s.mgmt.mbxAddr.toNat write
    { s with mgmt := { s.mgmt with mbxBusy := true, mbxErr := err, mbxLen := if err then 0 else BitVec.ofNat 16 write.length } }

def execMbxReadIdentityCert (s : State) : Host.Outcome State Fault Refusal :=
  .next (match s.ev with | .mbxReadIdentityCert => mbxBegin s (Config.identityCert.take 4096) false | _ => s)
def execMbxReadCheckpointCert (s : State) : Host.Outcome State Fault Refusal :=
  .next (match s.ev with | .mbxReadCheckpointCert => mbxBegin s (Config.checkpointCert.take 4096) false | _ => s)
def execMbxReadAuthorityCert (s : State) : Host.Outcome State Fault Refusal :=
  .next (match s.ev with | .mbxReadAuthorityCert => mbxBegin s (Config.authorityCert.take 4096) false | _ => s)

/-- MBX_WRITE_PARTITION_RECORD. -/
def execMbxWritePartitionRecord (s : State) : Host.Outcome State Fault Refusal :=
  .next (match s.ev with
    | .mbxWritePartitionRecord =>
      if s.mgmt.mbxBusy then s
      else
        let w := BitVec.ofNat 64 (leNat (s.hostRead s.mgmt.mbxAddr.toNat 8))
        if w.extractLsb' 27 37 ≠ 0 then mbxBegin s [] true
        else let s := mbxBegin s [] false; { s with mgmt := { s.mgmt with partRec := w } }
    | _ => s)

def execMbxInvalidCommand (s : State) : Host.Outcome State Fault Refusal :=
  .next (match s.ev with | .mbxInvalidCommand cmd => if 1 ≤ cmd.toNat ∧ cmd.toNat ≤ 4 then s else mbxBegin s [] true | _ => s)

/-- MBX_COMMAND_DONE. -/
def execMbxCommandDone (s : State) : Host.Outcome State Fault Refusal :=
  .next (match s.ev with
    | .mbxCommandDone =>
      if !s.mgmt.mbxBusy then s else { s.irq 0 with mgmt := { s.mgmt with mbxBusy := false, mbxDone := true } }
    | _ => s)

end Sys2Proof.Machine
end

