-- ==== Sys2Proof/Machine/Dispatch.lean ====
section
/-! DEFINITION. The dispatch of the machine's steps: one arm per constructor of `Instr`, one meaning per arm. -/

namespace Sys2Proof.Machine

def exec (i : Instr) (s : State) : Host.Outcome State Fault Refusal :=
  match i with
  | .add o => Sys2Proof.Machine.execAdd o s
  | .sub o => Sys2Proof.Machine.execSub o s
  | .and o => Sys2Proof.Machine.execAnd o s
  | .or o => Sys2Proof.Machine.execOr o s
  | .xor o => Sys2Proof.Machine.execXor o s
  | .shl o => Sys2Proof.Machine.execShl o s
  | .shr o => Sys2Proof.Machine.execShr o s
  | .sar o => Sys2Proof.Machine.execSar o s
  | .addc o => Sys2Proof.Machine.execAddc o s
  | .subc o => Sys2Proof.Machine.execSubc o s
  | .mul o => Sys2Proof.Machine.execMul o s
  | .mulh o => Sys2Proof.Machine.execMulh o s
  | .mulhu o => Sys2Proof.Machine.execMulhu o s
  | .div o => Sys2Proof.Machine.execDiv o s
  | .divu o => Sys2Proof.Machine.execDivu o s
  | .rem o => Sys2Proof.Machine.execRem o s
  | .remu o => Sys2Proof.Machine.execRemu o s
  | .min o => Sys2Proof.Machine.execMin o s
  | .max o => Sys2Proof.Machine.execMax o s
  | .minu o => Sys2Proof.Machine.execMinu o s
  | .maxu o => Sys2Proof.Machine.execMaxu o s
  | .rol o => Sys2Proof.Machine.execRol o s
  | .ror o => Sys2Proof.Machine.execRor o s
  | .andn o => Sys2Proof.Machine.execAndn o s
  | .cmp o => Sys2Proof.Machine.execCmp o s
  | .tst o => Sys2Proof.Machine.execTst o s
  | .bfx o => Sys2Proof.Machine.execBfx o s
  | .bfxu o => Sys2Proof.Machine.execBfxu o s
  | .bfi o => Sys2Proof.Machine.execBfi o s
  | .selz o => Sys2Proof.Machine.execSelz o s
  | .seln o => Sys2Proof.Machine.execSeln o s
  | .selc o => Sys2Proof.Machine.execSelc o s
  | .mov o => Sys2Proof.Machine.execMov o s
  | .neg o => Sys2Proof.Machine.execNeg o s
  | .not o => Sys2Proof.Machine.execNot o s
  | .clz o => Sys2Proof.Machine.execClz o s
  | .ctz o => Sys2Proof.Machine.execCtz o s
  | .popc o => Sys2Proof.Machine.execPopc o s
  | .brev o => Sys2Proof.Machine.execBrev o s
  | .bswap o => Sys2Proof.Machine.execBswap o s
  | .sextb o => Sys2Proof.Machine.execSextb o s
  | .sexth o => Sys2Proof.Machine.execSexth o s
  | .sextw o => Sys2Proof.Machine.execSextw o s
  | .zextb o => Sys2Proof.Machine.execZextb o s
  | .zexth o => Sys2Proof.Machine.execZexth o s
  | .zextw o => Sys2Proof.Machine.execZextw o s
  | .jr o => Sys2Proof.Machine.execJr o s
  | .callr o => Sys2Proof.Machine.execCallr o s
  | .ret h => Sys2Proof.Machine.execRet h s
  | .movpc o => Sys2Proof.Machine.execMovpc o s
  | .addi o => Sys2Proof.Machine.execAddi o s
  | .li o => Sys2Proof.Machine.execLi o s
  | .cmpi o => Sys2Proof.Machine.execCmpi o s
  | .andi o => Sys2Proof.Machine.execAndi o s
  | .ori o => Sys2Proof.Machine.execOri o s
  | .xori o => Sys2Proof.Machine.execXori o s
  | .lea o => Sys2Proof.Machine.execLea o s
  | .bcc o => Sys2Proof.Machine.execBcc o s
  | .j off => Sys2Proof.Machine.execJ off s
  | .call off => Sys2Proof.Machine.execCall off s
  | .loop o => Sys2Proof.Machine.execLoop o s
  | .ldd o => Sys2Proof.Machine.execLdd o s
  | .ldw o => Sys2Proof.Machine.execLdw o s
  | .ldwu o => Sys2Proof.Machine.execLdwu o s
  | .std o => Sys2Proof.Machine.execStd o s
  | .stw o => Sys2Proof.Machine.execStw o s
  | .ldb o => Sys2Proof.Machine.execLdb o s
  | .ldbu o => Sys2Proof.Machine.execLdbu o s
  | .ldh o => Sys2Proof.Machine.execLdh o s
  | .ldhu o => Sys2Proof.Machine.execLdhu o s
  | .stb o => Sys2Proof.Machine.execStb o s
  | .sth o => Sys2Proof.Machine.execSth o s
  | .fence scope mask => Sys2Proof.Machine.execFence scope mask s
  | .lr o => Sys2Proof.Machine.execLr o s
  | .sc o => Sys2Proof.Machine.execSc o s
  | .wrs o => Sys2Proof.Machine.execWrs o s
  | .lrw o => Sys2Proof.Machine.execLrw o s
  | .scw o => Sys2Proof.Machine.execScw o s
  | .amoadd o => Sys2Proof.Machine.execAmoadd o s
  | .amoand o => Sys2Proof.Machine.execAmoand o s
  | .amoor o => Sys2Proof.Machine.execAmoor o s
  | .amoxor o => Sys2Proof.Machine.execAmoxor o s
  | .amomax o => Sys2Proof.Machine.execAmomax o s
  | .amomin o => Sys2Proof.Machine.execAmomin o s
  | .amoumax o => Sys2Proof.Machine.execAmoumax o s
  | .amoumin o => Sys2Proof.Machine.execAmoumin o s
  | .amoxchg o => Sys2Proof.Machine.execAmoxchg o s
  | .amocas o => Sys2Proof.Machine.execAmocas o s
  | .amoaddw o => Sys2Proof.Machine.execAmoaddw o s
  | .amocasw o => Sys2Proof.Machine.execAmocasw o s
  | .famoadd o => Sys2Proof.Machine.execFamoadd o s
  | .accadd o => Sys2Proof.Machine.execAccadd o s
  | .accrd o => Sys2Proof.Machine.execAccrd o s
  | .siginc o => Sys2Proof.Machine.execSiginc o s
  | .waitge o => Sys2Proof.Machine.execWaitge o s
  | .append o => Sys2Proof.Machine.execAppend o s
  | .recv o => Sys2Proof.Machine.execRecv o s
  | .tagwait o => Sys2Proof.Machine.execTagwait o s
  | .tagtest o => Sys2Proof.Machine.execTagtest o s
  | .mbput o => Sys2Proof.Machine.execMbput o s
  | .mbtake o => Sys2Proof.Machine.execMbtake o s
  | .barinit o => Sys2Proof.Machine.execBarinit o s
  | .bararv o => Sys2Proof.Machine.execBararv o s
  | .barwait o => Sys2Proof.Machine.execBarwait o s
  | .lock o => Sys2Proof.Machine.execLock o s
  | .unlock o => Sys2Proof.Machine.execUnlock o s
  | .nop => Sys2Proof.Machine.execNop s
  | .yield => Sys2Proof.Machine.execYield s
  | .taskdone => Sys2Proof.Machine.execTaskdone s
  | .tret => Sys2Proof.Machine.execTret s
  | .pmret => Sys2Proof.Machine.execPmret s
  | .halt => Sys2Proof.Machine.execHalt s
  | .brk => Sys2Proof.Machine.execBrk s
  | .swt n => Sys2Proof.Machine.execSwt n s
  | .srr o => Sys2Proof.Machine.execSrr o s
  | .srw o => Sys2Proof.Machine.execSrw o s
  | .taskpush r => Sys2Proof.Machine.execTaskpush r s
  | .taskpop o => Sys2Proof.Machine.execTaskpop o s
  | .sleep o => Sys2Proof.Machine.execSleep o s
  | .tmset o => Sys2Proof.Machine.execTmset o s
  | .tmrd d => Sys2Proof.Machine.execTmrd d s
  | .hcall o => Sys2Proof.Machine.execHcall o s
  | .fspawn o => Sys2Proof.Machine.execFspawn o s
  | .fexit => Sys2Proof.Machine.execFexit s
  | .vadd o => Sys2Proof.Machine.execVadd o s
  | .vsub o => Sys2Proof.Machine.execVsub o s
  | .vmul o => Sys2Proof.Machine.execVmul o s
  | .vfma o => Sys2Proof.Machine.execVfma o s
  | .vmin o => Sys2Proof.Machine.execVmin o s
  | .vmax o => Sys2Proof.Machine.execVmax o s
  | .vabs o => Sys2Proof.Machine.execVabs o s
  | .vneg o => Sys2Proof.Machine.execVneg o s
  | .vcmpeq o => Sys2Proof.Machine.execVcmpeq o s
  | .vcmplt o => Sys2Proof.Machine.execVcmplt o s
  | .vcmple o => Sys2Proof.Machine.execVcmple o s
  | .vsel o => Sys2Proof.Machine.execVsel o s
  | .viadd o => Sys2Proof.Machine.execViadd o s
  | .visub o => Sys2Proof.Machine.execVisub o s
  | .vimul o => Sys2Proof.Machine.execVimul o s
  | .vishl o => Sys2Proof.Machine.execVishl o s
  | .vand o => Sys2Proof.Machine.execVand o s
  | .vor o => Sys2Proof.Machine.execVor o s
  | .vxor o => Sys2Proof.Machine.execVxor o s
  | .vishr o => Sys2Proof.Machine.execVishr o s
  | .visar o => Sys2Proof.Machine.execVisar o s
  | .vimin o => Sys2Proof.Machine.execVimin o s
  | .vimax o => Sys2Proof.Machine.execVimax o s
  | .viabs o => Sys2Proof.Machine.execViabs o s
  | .vcvt o => Sys2Proof.Machine.execVcvt o s
  | .vquant o => Sys2Proof.Machine.execVquant o s
  | .vdequant o => Sys2Proof.Machine.execVdequant o s
  | .vcvti o => Sys2Proof.Machine.execVcvti o s
  | .vcvtf o => Sys2Proof.Machine.execVcvtf o s
  | .vrsum o => Sys2Proof.Machine.execVrsum o s
  | .vrmax o => Sys2Proof.Machine.execVrmax o s
  | .vrmin o => Sys2Proof.Machine.execVrmin o s
  | .vscan o => Sys2Proof.Machine.execVscan o s
  | .vperm o => Sys2Proof.Machine.execVperm o s
  | .vgather o => Sys2Proof.Machine.execVgather o s
  | .vscatter o => Sys2Proof.Machine.execVscatter o s
  | .vbcast o => Sys2Proof.Machine.execVbcast o s
  | .vexp2 o => Sys2Proof.Machine.execVexp2 o s
  | .vlog2 o => Sys2Proof.Machine.execVlog2 o s
  | .vrcp o => Sys2Proof.Machine.execVrcp o s
  | .vrsq o => Sys2Proof.Machine.execVrsq o s
  | .mma o => Sys2Proof.Machine.execMma o s
  | .mmas o => Sys2Proof.Machine.execMmas o s
  | .mmrd o => Sys2Proof.Machine.execMmrd o s
  | .mmclr o => Sys2Proof.Machine.execMmclr o s
  | .mmrc o => Sys2Proof.Machine.execMmrc o s
  | .skset o => Sys2Proof.Machine.execSkset o s
  | .cpy o => Sys2Proof.Machine.execCpy o s
  | .cpyt o => Sys2Proof.Machine.execCpyt o s
  | .cpyg o => Sys2Proof.Machine.execCpyg o s
  | .cpym o => Sys2Proof.Machine.execCpym o s
  | .shld o => Sys2Proof.Machine.execShld o s
  | .stash o => Sys2Proof.Machine.execStash o s
  | .restore o => Sys2Proof.Machine.execRestore o s
  | .cstart o => Sys2Proof.Machine.execCstart o s
  | .trput o => Sys2Proof.Machine.execTrput o s
  | .trget o => Sys2Proof.Machine.execTrget o s
  | .rbind o => Sys2Proof.Machine.execRbind o s
  | .runbind o => Sys2Proof.Machine.execRunbind o s
  | .awaitf o => Sys2Proof.Machine.execAwaitf o s
  | .awaite o => Sys2Proof.Machine.execAwaite o s
  | .advh o => Sys2Proof.Machine.execAdvh o s
  | .advt o => Sys2Proof.Machine.execAdvt o s
  | .advtRemote o => Sys2Proof.Machine.execAdvtRemote o s
  | .rstat o => Sys2Proof.Machine.execRstat o s
  | .bkinfo d => Sys2Proof.Machine.execBkinfo d s
  | .bkstep d => Sys2Proof.Machine.execBkstep d s
  | .bkgo => Sys2Proof.Machine.execBkgo s
  | .bkpause => Sys2Proof.Machine.execBkpause s
  | .perstAssert => Sys2Proof.Machine.execPerstAssert s
  | .pcieHotReset => Sys2Proof.Machine.execPcieHotReset s
  | .modRstWarm => Sys2Proof.Machine.execModRstWarm s
  | .modRstCold => Sys2Proof.Machine.execModRstCold s
  | .warmReset => Sys2Proof.Machine.execWarmReset s
  | .coldReset => Sys2Proof.Machine.execColdReset s
  | .firmwareBoot => Sys2Proof.Machine.execFirmwareBoot s
  | .linkTraining => Sys2Proof.Machine.execLinkTraining s
  | .flitReceive => Sys2Proof.Machine.execFlitReceive s
  | .flitReceiveInReset => Sys2Proof.Machine.execFlitReceiveInReset s
  | .destinationInResetReport => Sys2Proof.Machine.execDestinationInResetReport s
  | .flitNakReceive => Sys2Proof.Machine.execFlitNakReceive s
  | .flitAckReceive => Sys2Proof.Machine.execFlitAckReceive s
  | .portDown => Sys2Proof.Machine.execPortDown s
  | .laneMarginMeasure => Sys2Proof.Machine.execLaneMarginMeasure s
  | .laneSwap => Sys2Proof.Machine.execLaneSwap s
  | .budgetPeriodStart => Sys2Proof.Machine.execBudgetPeriodStart s
  | .modBudgetWrite => Sys2Proof.Machine.execModBudgetWrite s
  | .railThrottle => Sys2Proof.Machine.execRailThrottle s
  | .scrubRead => Sys2Proof.Machine.execScrubRead s
  | .barRegisterWrite => Sys2Proof.Machine.execBarRegisterWrite s
  | .barUnassignedAccess => Sys2Proof.Machine.execBarUnassignedAccess s
  | .rcRegisterRead => Sys2Proof.Machine.execRcRegisterRead s
  | .dieCdataAccess => Sys2Proof.Machine.execDieCdataAccess s
  | .hostCxlAccess => Sys2Proof.Machine.execHostCxlAccess s
  | .devCxlwinEnable => Sys2Proof.Machine.execDevCxlwinEnable s
  | .devPwwinEnable => Sys2Proof.Machine.execDevPwwinEnable s
  | .peerWrite => Sys2Proof.Machine.execPeerWrite s
  | .peerRead => Sys2Proof.Machine.execPeerRead s
  | .ctxEnable => Sys2Proof.Machine.execCtxEnable s
  | .ctxDisable => Sys2Proof.Machine.execCtxDisable s
  | .sqEnable => Sys2Proof.Machine.execSqEnable s
  | .sqDisable => Sys2Proof.Machine.execSqDisable s
  | .sqResume => Sys2Proof.Machine.execSqResume s
  | .cqEnable => Sys2Proof.Machine.execCqEnable s
  | .fqEnable => Sys2Proof.Machine.execFqEnable s
  | .cqHeadWrite => Sys2Proof.Machine.execCqHeadWrite s
  | .fqHeadWrite => Sys2Proof.Machine.execFqHeadWrite s
  | .kick => Sys2Proof.Machine.execKick s
  | .sqPacketRead => Sys2Proof.Machine.execSqPacketRead s
  | .sqStampRetry => Sys2Proof.Machine.execSqStampRetry s
  | .packetIssueUnblock => Sys2Proof.Machine.execPacketIssueUnblock s
  | .launchPacket => Sys2Proof.Machine.execLaunchPacket s
  | .launchComplete => Sys2Proof.Machine.execLaunchComplete s
  | .copyPacket => Sys2Proof.Machine.execCopyPacket s
  | .copyPacketDone => Sys2Proof.Machine.execCopyPacketDone s
  | .signalPacket => Sys2Proof.Machine.execSignalPacket s
  | .waitPacket => Sys2Proof.Machine.execWaitPacket s
  | .waitPacketSatisfied => Sys2Proof.Machine.execWaitPacketSatisfied s
  | .waitPacketTimeout => Sys2Proof.Machine.execWaitPacketTimeout s
  | .mapPacket => Sys2Proof.Machine.execMapPacket s
  | .bookPacket => Sys2Proof.Machine.execBookPacket s
  | .checkpointPacket => Sys2Proof.Machine.execCheckpointPacket s
  | .checkpointStepBoundary => Sys2Proof.Machine.execCheckpointStepBoundary s
  | .checkpointCopyDone => Sys2Proof.Machine.execCheckpointCopyDone s
  | .dedupDigestReceive => Sys2Proof.Machine.execDedupDigestReceive s
  | .dedupDigestTimeout => Sys2Proof.Machine.execDedupDigestTimeout s
  | .checkpointDrainDone => Sys2Proof.Machine.execCheckpointDrainDone s
  | .restorePacket => Sys2Proof.Machine.execRestorePacket s
  | .restoreStepBoundary => Sys2Proof.Machine.execRestoreStepBoundary s
  | .devAttcmdGo => Sys2Proof.Machine.execDevAttcmdGo s
  | .attestationDone => Sys2Proof.Machine.execAttestationDone s
  | .mbxReadIdentityCert => Sys2Proof.Machine.execMbxReadIdentityCert s
  | .mbxReadCheckpointCert => Sys2Proof.Machine.execMbxReadCheckpointCert s
  | .mbxReadAuthorityCert => Sys2Proof.Machine.execMbxReadAuthorityCert s
  | .mbxWritePartitionRecord => Sys2Proof.Machine.execMbxWritePartitionRecord s
  | .mbxInvalidCommand => Sys2Proof.Machine.execMbxInvalidCommand s
  | .mbxCommandDone => Sys2Proof.Machine.execMbxCommandDone s
  | .ctxFcmdReplay => Sys2Proof.Machine.execCtxFcmdReplay s
  | .ctxFcmdSkip => Sys2Proof.Machine.execCtxFcmdSkip s
  | .ctxFcmdRestart => Sys2Proof.Machine.execCtxFcmdRestart s
  | .ctxFcmdFail => Sys2Proof.Machine.execCtxFcmdFail s
  | .coreTactReplay => Sys2Proof.Machine.execCoreTactReplay s
  | .coreTactSkip => Sys2Proof.Machine.execCoreTactSkip s
  | .coreTactRestart => Sys2Proof.Machine.execCoreTactRestart s
  | .coreTactFail => Sys2Proof.Machine.execCoreTactFail s
  | .ctxGctlStop => Sys2Proof.Machine.execCtxGctlStop s
  | .ctxGctlResume => Sys2Proof.Machine.execCtxGctlResume s
  | .gangStop => Sys2Proof.Machine.execGangStop s
  | .gangStopDrained => Sys2Proof.Machine.execGangStopDrained s
  | .fatalFault => Sys2Proof.Machine.execFatalFault s
  | .dumpStart => Sys2Proof.Machine.execDumpStart s
  | .dumpComplete => Sys2Proof.Machine.execDumpComplete s
  | .migrationGo => Sys2Proof.Machine.execMigrationGo s
  | .migrationLineMove => Sys2Proof.Machine.execMigrationLineMove s
  | .migrationDone => Sys2Proof.Machine.execMigrationDone s
  | .movedReply => Sys2Proof.Machine.execMovedReply s
  | .watchdogExpiry => Sys2Proof.Machine.execWatchdogExpiry s
  | .engineHang => Sys2Proof.Machine.execEngineHang s
  | .coreStateError => Sys2Proof.Machine.execCoreStateError s
  | .coreFence => Sys2Proof.Machine.execCoreFence s
  | .reservationTimeout => Sys2Proof.Machine.execReservationTimeout s
  | .reservationGrant => Sys2Proof.Machine.execReservationGrant s
  | .atomicReleaseWrite => Sys2Proof.Machine.execAtomicReleaseWrite s
  | .accessComplete => Sys2Proof.Machine.execAccessComplete s
  | .waitWake => Sys2Proof.Machine.execWaitWake s
  | .slotFill => Sys2Proof.Machine.execSlotFill s
  | .fibreRefill => Sys2Proof.Machine.execFibreRefill s
  | .preemptPriority => Sys2Proof.Machine.execPreemptPriority s
  | .preemptQuantum => Sys2Proof.Machine.execPreemptQuantum s
  | .rotationEnd => Sys2Proof.Machine.execRotationEnd s
  | .corePfctlClr => Sys2Proof.Machine.execCorePfctlClr s
  | .urgentDelivery => Sys2Proof.Machine.execUrgentDelivery s
  | .coreUpendWrite => Sys2Proof.Machine.execCoreUpendWrite s
  | .timerExpiry => Sys2Proof.Machine.execTimerExpiry s
  | .pcMatchFire => Sys2Proof.Machine.execPcMatchFire s
  | .clusterBreakpoint => Sys2Proof.Machine.execClusterBreakpoint s
  | .clusterWatchpoint => Sys2Proof.Machine.execClusterWatchpoint s
  | .cluDbgctlHalt => Sys2Proof.Machine.execCluDbgctlHalt s
  | .clusterHalt => Sys2Proof.Machine.execClusterHalt s
  | .cluDbgctlResume => Sys2Proof.Machine.execCluDbgctlResume s
  | .replayStop => Sys2Proof.Machine.execReplayStop s
  | .traceSample => Sys2Proof.Machine.execTraceSample s
  | .trap => Sys2Proof.Machine.execTrap s
  | .taskDispatch => Sys2Proof.Machine.execTaskDispatch s
  | .footprintFetchDone => Sys2Proof.Machine.execFootprintFetchDone s
  | .footprintFetchFault => Sys2Proof.Machine.execFootprintFetchFault s
  | .stealAnnounce => Sys2Proof.Machine.execStealAnnounce s
  | .stealRequest => Sys2Proof.Machine.execStealRequest s
  | .stealReply => Sys2Proof.Machine.execStealReply s
  | .balanceStep => Sys2Proof.Machine.execBalanceStep s
  | .balanceEntryArrive => Sys2Proof.Machine.execBalanceEntryArrive s
  | .bookCtlGo => Sys2Proof.Machine.execBookCtlGo s
  | .bookCtlPause => Sys2Proof.Machine.execBookCtlPause s
  | .bookCtlClear => Sys2Proof.Machine.execBookCtlClear s
  | .bookAdvance => Sys2Proof.Machine.execBookAdvance s
  | .bookLaunchComplete => Sys2Proof.Machine.execBookLaunchComplete s
  | .bookTableEnd => Sys2Proof.Machine.execBookTableEnd s
  | .bookNotice => Sys2Proof.Machine.execBookNotice s
  | .ringCreditArrive => Sys2Proof.Machine.execRingCreditArrive s
  | .remoteStoreArrive => Sys2Proof.Machine.execRemoteStoreArrive s
  | .sigincArrive => Sys2Proof.Machine.execSigincArrive s
  | .appendArrive => Sys2Proof.Machine.execAppendArrive s
  | .appendStatusReturn => Sys2Proof.Machine.execAppendStatusReturn s
  | .mmrcArrive => Sys2Proof.Machine.execMmrcArrive s
  | .mmrcCommandExecute => Sys2Proof.Machine.execMmrcCommandExecute s
  | .barrierArrivalHop => Sys2Proof.Machine.execBarrierArrivalHop s
  | .barrierReleaseHop => Sys2Proof.Machine.execBarrierReleaseHop s
  | .copyChannelGrant => Sys2Proof.Machine.execCopyChannelGrant s
  | .copyComplete => Sys2Proof.Machine.execCopyComplete s
  | .stashComplete => Sys2Proof.Machine.execStashComplete s
  | .restoreComplete => Sys2Proof.Machine.execRestoreComplete s
  | .collDescriptorCompare => Sys2Proof.Machine.execCollDescriptorCompare s
  | .collReadyToReceive => Sys2Proof.Machine.execCollReadyToReceive s
  | .collChunkArrive => Sys2Proof.Machine.execCollChunkArrive s
  | .gatewayPassOne => Sys2Proof.Machine.execGatewayPassOne s
  | .gatewayPassTwo => Sys2Proof.Machine.execGatewayPassTwo s
  | .collComplete => Sys2Proof.Machine.execCollComplete s
  | .collFail => Sys2Proof.Machine.execCollFail s
  | .treeRoundComplete => Sys2Proof.Machine.execTreeRoundComplete s
  | .treeResultDeliver => Sys2Proof.Machine.execTreeResultDeliver s
  | .coreTreeWrite => Sys2Proof.Machine.execCoreTreeWrite s
  | .coreSplitWrite => Sys2Proof.Machine.execCoreSplitWrite s
  | .coreDtabWrite => Sys2Proof.Machine.execCoreDtabWrite s
  | .coreDtstatRst0 => Sys2Proof.Machine.execCoreDtstatRst0 s
  | .coreDtstatRst1 => Sys2Proof.Machine.execCoreDtstatRst1 s
  | .dtabRebuildDone => Sys2Proof.Machine.execDtabRebuildDone s
  | .coreCourierWrite => Sys2Proof.Machine.execCoreCourierWrite s
  | .courierRequestServe => Sys2Proof.Machine.execCourierRequestServe s
  | .coreInboxWrite => Sys2Proof.Machine.execCoreInboxWrite s
  | .ctxPinqWrite => Sys2Proof.Machine.execCtxPinqWrite s
  | .engineInstructionComplete => Sys2Proof.Machine.execEngineInstructionComplete s
  | .registerWriteback => Sys2Proof.Machine.execRegisterWriteback s
  | .railThrottleEnd => Sys2Proof.Machine.execRailThrottleEnd s
  | .restorePacketDone => Sys2Proof.Machine.execRestorePacketDone s

end Sys2Proof.Machine
end

