-- ==== Sys2Proof/Machine/Pending.lean ====
section
/-! DEFINITION. The passing of a cycle, and the part's own events that it brings (log entry 5). The manual fixes the
order of few of them and the time of fewer: each event that may act is placed once in a cycle, and one that can no
longer act when its turn comes changes nothing.
Log entries: 43 (DEDUCED); 5 (DESIGN CHOICE). -/

namespace Sys2Proof.Machine

/-- An event of core L. -/
def atCore (L : Nat) (f : Fin 6144 → Event) : List Event := if h : L < 6144 then [f ⟨L, h⟩] else []

/-- An event of a fibre. -/
def atFibre (L f : Nat) (e : Fin 6144 → BitVec 12 → Event) : List Event := atCore L fun L => e L (BitVec.ofNat 12 f)

/-- Events under a condition. -/
def whenever (b : Bool) (l : List Event) : List Event := if b then l else []

/-! ## Cores -/

/-- The first fibre that a refill concerns. -/
def Core.toRefill (c : Core) : List Nat := ((c.fibres.filter fun e => e.2.spilled && e.2.status == .ready).map (·.1)).take 1

/-- Events of a fibre's waits: an access in flight completes, and a condition that holds wakes. -/
def fibreEvents (s : State) (L : Nat) (e : Nat × Fibre) : List Event :=
  match e.2.status with
  | .waiting .access => whenever e.2.pend.isSome (atFibre L e.1 .accessComplete)
  | .waiting _ => whenever (canWake s L e.1) (atFibre L e.1 .waitWake)
  | _ => []

/-- Events of the shadow plane. -/
def shadowEvents (s : State) (L : Nat) (c : Core) : List Event :=
  if c.handler.isNone then []
  else match c.shadowSt with
    | .waiting .access => whenever c.shadowPend.isSome (atFibre L 0 .accessComplete)
    | _ => whenever (canWakeShadow s L) (atFibre L 0 .waitWake)

/-- Events of a core's matrix commands, courier, tables and tree. -/
def engineEvents (L : Nat) (c : Core) : List Event :=
  whenever (!c.matQ.isEmpty) (atCore L .mmrcCommandExecute)
    ++ whenever (c.courierFree && (c.courierCmd.isSome || c.nextMail.isSome || c.courierNext.isSome)) (atCore L .courierRequestServe)
    ++ whenever c.dtBusy0 (atCore L (.dtabRebuildDone · false)) ++ whenever c.dtBusy1 (atCore L (.dtabRebuildDone · true))
    ++ whenever (!c.treeHeld.isEmpty) (atCore L .treeResultDeliver)

/-- Events of a core's barriers. -/
def barrierEvents (L : Nat) (c : Core) : List Event :=
  ([0, 1, 2, 3] : List QReg).flatMap fun q =>
    whenever ((c.bar.get q).ready (rowOf L) (colOf L)) (atCore L (.barrierArrivalHop · q))
      ++ whenever (c.bar.get q).rel.isSome (atCore L (.barrierReleaseHop · q))

/-- Events of a core's scheduler. -/
def taskEvents (s : State) (L : Nat) (c : Core) : List Event :=
  whenever (c.hasEntries || c.tasks.any fun t => t.phase == .restarting || t.phase == .resuming) (atCore L .taskDispatch)
    ++ whenever (c.announced != c.hasEntries) (atCore L .stealAnnounce)
    ++ whenever c.stealIn.isSome (atCore L .stealReply)
    ++ (match nextVictim s L with
        | some v => if h : v < 6144 then atCore L (.stealRequest · ⟨v, h⟩) else []
        | none => [])
    ++ whenever (!c.balIn.isEmpty) (atCore L .balanceEntryArrive)
    ++ whenever (s.cycleOf L % 1024 == 0) (atCore L .balanceStep)

/-- Events of a core's slots. -/
def slotEvents (s : State) (L : Nat) (c : Core) : List Event :=
  whenever (c.deliverable && c.urgentEvent.isSome) (atCore L .urgentDelivery)
    ++ c.toRefill.flatMap (fun f => atFibre L f .fibreRefill)
    ++ whenever c.outranked.isSome (atCore L .preemptPriority)
    ++ ([1, 2, 3, 4, 5, 6] : List (Fin 8)).flatMap (fun i => whenever (c.overQuantum i.val).isSome (atCore L (.preemptQuantum · i)))
    ++ whenever (c.freeWorker.isSome && c.nextFibre.isSome) (atCore L .slotFill)
    ++ whenever (wdogSlot s L).isSome (atCore L .watchdogExpiry)
    ++ whenever (s.cycleOf L % 8 == 0) (atCore L .rotationEnd)

/-- The events of one core. A replay stop looks at what its other events have completed before any fibre issues again (R309). -/
def coreEvents (s : State) (e : Nat × Core) : List Event :=
  let L := e.1
  let c := e.2
  whenever (c.fenced && c.fenceCause != 0) (atCore L .coreFence)
    ++ whenever (!(c.dueWb (s.cycleOf L)).isEmpty) (atCore L .registerWriteback)
    ++ whenever (c.tmDeadline != 0 && decide (c.tmDeadline.toNat ≤ s.cycleOf L)) (atCore L .timerExpiry)
    ++ c.fibres.flatMap (fibreEvents s L) ++ shadowEvents s L c ++ engineEvents L c ++ barrierEvents L c
    ++ taskEvents s L c ++ slotEvents s L c ++ whenever ((s.cluster (clusterOf L)).rptask.getLsbD 0) (atCore L .replayStop)

/-! ## Clusters, grants and messages -/

/-- The events of a cluster: its copies take their channels, and its trace. -/
def clusterEvents (s : State) (e : Nat × Cluster) : List Event :=
  let k := e.2
  (((k.copies.filter (!·.granted)).map (·.core)).eraseDups).flatMap (fun L => atCore L .copyChannelGrant)
    ++ (if h : e.1 < 48 then
          whenever (k.trcfg.getLsbD 0 && (s.die (e.1 / 6)).cycle.toNat % 2 ^ (k.trcfg.extractLsb' 10 5).toNat == 0) [.traceSample ⟨e.1, h⟩]
        else [])

/-- The events of a reservation. -/
def grantEvents (s : State) (g : Grant) : List Event :=
  if g.away then atFibre g.core g.fibre .movedReply
  else if !g.granted then [.reservationGrant g.gran]
  else if g.op.isSome then [.atomicReleaseWrite g.gran]
  else whenever (g.expired s) [.reservationTimeout g.gran]

/-- The arrival of a message. -/
def msgEvent (m : Msg) : List Event :=
  match m.body with
  | .store .. => [.remoteStoreArrive m.id]
  | .siginc .. => [.sigincArrive m.id none]
  | .append .. => [.appendArrive m.id none]
  | .credit .. | .deliver .. | .held .. | .settle .. | .link .. | .ask .. => [.ringCreditArrive m.id none]
  | .mmrc .. => [.mmrcArrive m.id none]
  | .status .. | .refused .. | .copied .. => [.appendStatusReturn m.id none]
  | .notice .. | .answer .. | .ready .. | .chunk .. | .digest .. => []

/-! ## Dies and the module -/

/-- The events of a die: its book and its page move. -/
def dieEvents (s : State) (d : Fin 8) : List Event :=
  let b := s.book d
  let open_ (i : Nat) : Bool := match s.launch? i with | some l => !l.unread.isEmpty | none => false
  whenever (b.state == .run || b.flight.any fun e => open_ e.1) [.bookAdvance d]
    ++ (b.flight.filter fun e => (s.launch? e.1).any (·.ended)).map (fun e => .bookLaunchComplete d e.1)
    ++ whenever (b.state == .run && b.pos == b.entries.length && b.flight.isEmpty) [.bookTableEnd d]
    ++ whenever (!b.notices.isEmpty) [.bookNotice d none]
    ++ (match (s.die d).mig with
        | some m => if m.moved < m.size then [.migrationLineMove d] else [.migrationDone d]
        | none => [])

/-- The events of ports: a trained replacement takes over. -/
def laneEvents (s : State) : List Event :=
  ((List.finRange 16).filter fun p => (s.port p.val).training.isSome).map .laneSwap

/-- The events of the management controller, the dump engine and the budgets. -/
def moduleEvents (s : State) : List Event :=
  (match s.reset? with
    | some cold => whenever (mayReset s) [if cold then .coldReset else .warmReset]
    | none => [])
    ++ whenever (!s.dump.queue.isEmpty && !s.dump.busy) [.dumpStart] ++ whenever s.dump.busy [.dumpComplete]
    ++ whenever s.mgmt.attBusy [.attestationDone] ++ whenever s.mgmt.mbxBusy [.mbxCommandDone]
    ++ whenever (s.clock % 4096 == 0 && !(s.used.isEmpty && s.budgetNext.isEmpty)) ((List.finRange 5).map .budgetPeriodStart)

/-! ## Contexts -/

/-- Every participant of a collective is on this module. -/
def Coll.local? (k : Coll) : Bool := k.parts.length == k.desc.coords.length

/-- Every participant that one of a collective's descriptors names has started on this module. -/
def Coll.gathered (s : State) (k : Coll) : Bool := (k.parts.map (·.desc)).any (k.started s k.parts.length)

/-- The chunks that a participant may ask for next: the lowest that it neither has nor has asked for. -/
def nextChunk (p : CollPart) : Nat :=
  ((List.range (p.got.length + p.ready.length + 1)).find? fun i => !p.got.contains i && !p.ready.contains i).getD 0

/-- The open parts of a collective whose descriptors agree, with their dies. -/
def Coll.openParts (k : Coll) : List (Fin 8 × CollPart) :=
  if k.agreed then (k.parts.filter (!·.done)).filterMap fun p => if h : p.die < 8 then some (⟨p.die, h⟩, p) else none else []

/-- The events of a collective that write no memory: its descriptors are compared, and its participants ask for chunks. -/
def collEvents (s : State) (c : Fin 48) (k : Coll) : List Event :=
  whenever (!k.agreed && k.gathered s) [.collDescriptorCompare c k.id []]
    ++ k.openParts.map fun (d, p) => .collReadyToReceive c k.id d (nextChunk p) none

/-- What a collective's engines write, by the core that each acts for: chunks come by themselves where no other module takes part. -/
def collWrites (c : Fin 48) (k : Coll) : List ((Nat × Nat) × Event) :=
  k.openParts.flatMap fun (d, p) =>
    (whenever k.local? (p.ready.map fun n => .collChunkArrive c k.id d n [] []) ++ [Event.collComplete c k.id d]).map fun e => ((p.core, 16), e)

/-- Cycles of the 256 ns between two reads of a packet (R89). -/
def retryCycles : Nat := 487

/-- The events of a submission queue. -/
def queueEvents (s : State) (c : Fin 48) (e : Nat × SubQ) : List Event :=
  if h : e.1 < 64 then
    whenever (unblocked s c e.1).isSome [.packetIssueUnblock c ⟨e.1, h⟩]
      ++ whenever (canRead s c e.1)
          (if e.2.tries = 0 then [.sqPacketRead c ⟨e.1, h⟩ false] else whenever (s.clock % retryCycles == 0) [.sqStampRetry c ⟨e.1, h⟩])
  else []

/-- The events of a packet that has issued. -/
def packetEvents (s : State) (c : Fin 48) (p : Packet) : List Event :=
  if !p.issued then []
  else match p.kind.toNat with
    | 2 => [.copyPacketDone c p.id]
    | 3 => [.signalPacket c p.id]
    | 6 => whenever (p.mark != 0) [.bookPacket c p.id none]
    | 4 => (match waitState s c p with | .ok false => [] | _ => [.waitPacketSatisfied c p.id]) ++ whenever (waitExpired s p) [.waitPacketTimeout c p.id]
    | _ => []

/-- The events of a context's checkpoint and restore. -/
def ckptEvents (s : State) (c : Fin 48) (x : Ctx) : List Event :=
  (match x.ckpt with
    | some k =>
      if k.restore then [.restoreStepBoundary c, .restorePacketDone c] else [.checkpointStepBoundary c, .checkpointCopyDone c]
    | none => [])
    ++ (match x.drain with
        | some k => whenever (!k.shards.any k.exchanges || decide (k.since + dedupCycles ≤ s.clock)) [.checkpointDrainDone c false]
        | none => [])

/-- The events of a launch of a packet: it goes on pushing, or is over. -/
def launchEvents (l : Launch) : List Event :=
  match l.owner with
  | .packet c i => if h : c < 48 then whenever (!l.ended && !l.unread.isEmpty) [.launchPacket ⟨c, h⟩ i] else []
  | .book .. => []

def launchEnds (l : Launch) : List Event :=
  match l.owner with
  | .packet .. => whenever l.ended [.launchComplete l.id]
  | .book .. => []

/-- The events of one context. -/
def ctxEvents (s : State) (e : Nat × Ctx) : List Event :=
  if h : e.1 < 48 then
    let c : Fin 48 := ⟨e.1, h⟩
    let x := e.2
    whenever (x.stopping && drained s c) [.gangStopDrained c]
      ++ whenever ((s.round? c).any roundDone) [.treeRoundComplete c]
      ++ x.colls.flatMap (collEvents s c) ++ x.sqs.flatMap (queueEvents s c) ++ ckptEvents s c x
  else []

/-- A steal by a core that nothing has touched yet: the first of its die, in identifier order, that finds an entry fitting it, so
that no idle core stays so while its domain holds one (R151, R152). -/
def farSteals (s : State) (d : Nat) : List Event :=
  let fitting (c L v : Nat) : Bool := (s.core v).entries.any fun x => chargesFit s c L (queuedFootprint s c v x.2.2.recAddr)
  let first := ((List.range 768).map (768 * d + ·)).findSome? fun L =>
    if spHas s.cores L then none
    else (s.ctxOfCore L).bind fun c => ((nextVictim s L).filter (fitting c L)).map fun v => (L, v)
  match first with
  | some (L, v) => if h : v < 6144 then atCore L (.stealRequest · ⟨v, h⟩) else []
  | none => []

/-- Steals of untouched cores of the dies that hold queued entries. -/
def idleSteals (s : State) : List Event :=
  (List.range 8).flatMap fun d => whenever (s.cores.any fun e => e.2.announced && dieOf e.1 == d) (farSteals s d)

/-! ## The order of a cycle's writes (R239) -/

/-- Events in ascending order of their keys, those of one key in their own order. -/
def inOrder {α : Type} (lt : α → α → Bool) (l : List (α × Event)) : List Event :=
  (l.foldl (fun r e => insertBy (fun a b => lt a.1 b.1) e r) []).map (·.2)

/-- Messages that arrive and reservations, by the identifier of the core that they come from, with its acting slot. -/
def coreWrites (s : State) : List Event :=
  inOrder (fun a b => decide (a < b))
    (s.msgs.flatMap (fun m => (msgEvent m).map fun e => (m.src.toNat, e))
      ++ s.grants.flatMap fun g => (grantEvents s g).map fun e => ((s.coreId g.core ((g.op.map (·.iss.slot)).getD 0)).toNat, e))

/-- What the engines of a core write: its vector and matrix instructions, its codec, its footprint fetches and its copies by channel. -/
def engineWritesOf (s : State) (e : Nat × Core) : List ((Nat × Nat) × Event) :=
  let L := e.1
  let c := e.2
  let at_ (n : Nat) (l : List Event) : List ((Nat × Nat) × Event) := l.map fun e => ((L, n), e)
  at_ 0 (whenever c.vec.isSome (atCore L (.engineInstructionComplete · false))
      ++ whenever c.mat.isSome (atCore L (.engineInstructionComplete · true))
      ++ c.stashes.flatMap (fun o => atCore L fun L => if o.stash then .stashComplete L o.tag else .restoreComplete L o.tag)
      ++ (c.tasks.filter (·.phase == .fetching)).flatMap fun t =>
        atCore L (.footprintFetchDone · t.recAddr) ++ atCore L (.footprintFetchFault · t.recAddr))
    ++ ((s.cluster (clusterOf L)).copies.filter fun o => o.core == L && o.granted).flatMap fun o => at_ o.chan (atCore L (.copyComplete · o.tag))

/-- What engines write, by the core that each acts for and its channel. -/
def engineWrites (s : State) : List Event :=
  inOrder (fun a b => decide (a.1 < b.1) || (a.1 == b.1 && decide (a.2 < b.2)))
    (s.cores.flatMap (engineWritesOf s) ++ s.ctxs.flatMap fun (c, x) =>
      if h : c < 48 then x.colls.flatMap (collWrites ⟨c, h⟩) else [])

/-- What the host's packets write. -/
def hostWrites (s : State) : List Event :=
  s.launches.flatMap launchEnds ++ s.ctxs.flatMap fun (c, x) => if h : c < 48 then x.packets.flatMap (packetEvents s ⟨c, h⟩) else []

/-- Every event of the part that may act in a cycle, in the order in which the model takes them: the writes of cores, of engines and of
the host last (R239). -/
def dueEvents (s : State) : List Event :=
  moduleEvents s ++ laneEvents s ++ s.cores.flatMap (coreEvents s) ++ idleSteals s
    ++ s.clusters.flatMap (clusterEvents s) ++ (List.finRange 8).flatMap (dieEvents s) ++ s.launches.flatMap launchEvents
    ++ s.ctxs.flatMap (ctxEvents s) ++ coreWrites s ++ engineWrites s ++ hostWrites s

/-- Cores of lower identifier than one that writes have their turns of the cycle before it (R239). -/
def turnsBelow (s : State) (id : CoreId) : Nat :=
  match s.localCore id with
  | some L => L
  | none => if idModule id < s.modNum.toNat then 0 else nCores

/-- How many cores, in identifier order, have their turns of the cycle before an event (R239): those below a core that writes, and all
before the engines and the host. -/
def Event.turns (s : State) (e : Event) : Nat :=
  let of (i : Nat) (ext : Option Msg) : Nat := ((ext.orElse fun _ => s.msgs.find? (·.id == i)).map fun m => turnsBelow s m.src).getD 0
  match e with
  | .remoteStoreArrive i => of i none
  | .sigincArrive i x | .appendArrive i x | .ringCreditArrive i x | .mmrcArrive i x => of i x
  | .atomicReleaseWrite n => ((s.grants.find? fun g => g.gran == n && g.granted).map (·.core)).getD 0
  | .engineInstructionComplete .. | .stashComplete .. | .restoreComplete .. | .footprintFetchDone .. | .footprintFetchFault ..
  | .copyComplete .. | .collChunkArrive .. | .collComplete .. => nCores
  | .launchComplete .. | .copyPacketDone .. | .signalPacket .. | .hostCxlAccess .. | .peerWrite .. => nCores
  | _ => 0

/-! ## A cycle (R43) -/

/-- Paused instructions whose fibres are back in their slots go on (R290). -/
def resumePaused (s : State) (L : Nat) : State :=
  let c := s.core L
  if (c.vecPaused.isEmpty && c.matPaused.isEmpty) || enginesHeld s L then s else resumeEngine (resumeEngine s L false) L true

/-- The port forgets the fences whose earlier accesses are done (R366). -/
def dropFences (s : State) : State :=
  { s with cores := s.cores.map fun (L, c) => if c.fence = 0 then (L, c) else (L, { c with fence := s.fences L c.fence }) }

/-- A cycle passes in every die: what its slots hold counts in their rotation (R296), table writes that nothing holds up any more take
effect (R256), the barrels begin again at the first core, and what is due comes next. -/
def tick (s : State) : State :=
  let count (d : Die) : Die := { d with cycle := d.cycle + 1 }
  let past (e : Nat × Core) : Nat × Core := (e.1, e.2.sampled.dtDrain)
  let s : State := { s with focus := 0, dies := s.dies.map count, cores := s.cores.map past }
  let s := (s.cores.map (·.1)).foldl resumePaused s
  let s := dropFences (if s.todos.isEmpty then s else retryTodos s)
  let s := linkTick s
  { s with agenda := s.agenda ++ dueEvents s }

end Sys2Proof.Machine
end

