-- ==== Sys2Proof/Machine/Step.lean ====
section
/-! DEFINITION. One step of the machine: the next event of the agenda, or the next issue turn of the barrels, or the
passing of a cycle, which places the part's own events on the agenda (log entry 5).
Log entries: 5, 15, 44 (DESIGN CHOICE). -/

namespace Sys2Proof.Machine

/-- An event acts: the latch holds it, and its row's meaning runs. -/
def runEvent (e : Event) (s : State) : Host.Outcome State Fault Refusal := exec e.row { s with ev := e }

/-- A slot's turn to issue. -/
def runTurn (s : State) (L slot : Nat) : Host.Outcome State Fault Refusal :=
  match turn s L slot with
  | .run i s' => exec i s'
  | .event e s' => runEvent e s'
  | .done s' => .next s'
  | .fault f => .fault f

/-- One step: the next event of the agenda, unless cores whose writes come first have not had their turns (R239); else the next turn;
else the passing of a cycle. -/
def step (s : State) : Host.Outcome State Fault Refusal :=
  match s.agenda, issueNext s with
  | [], none => .next (tick s)
  | [], some (L, slot) => runTurn s L slot
  | e :: r, t =>
    match t.filter fun t => decide (t.1 < e.turns s) with
    | some (L, slot) => runTurn s L slot
    | none => runEvent e { s with agenda := r, focus := max s.focus (e.turns s) }

/-- Where a placed instruction lies: virtual and physical address, and the context's table pool (log entry 5). -/
def placePc : VAddr := 0x1000
def placePa : Nat := 0x20000
def placePool : Nat := 0x10000

/-- Memory with the five tables of one executable page and the instruction's words, zeros above them. -/
def placeMem (m : List Host.Cell) (nbits w : Nat) : List Host.Cell :=
  let entry (m : List Host.Cell) (lvl next : Nat) : List Host.Cell :=
    memPuts m (placePool + 0x1000 * (4 - lvl) + 8 * ptIndex placePc.toNat lvl) (leBytes 8 next)
  let m := entry m 4 (placePool + 0x1001)
  let m := entry m 3 (placePool + 0x2001)
  let m := entry m 2 (placePool + 0x3001)
  let m := entry m 1 (placePool + 0x4001)
  let m := entry m 0 (placePa + 0x2F)
  memPuts m placePa (bytesOf ((tableWords nbits w ++ [0, 0, 0, 0]).take 5))

/-- The machine with an instruction placed: the firmware runs, context 0 owns cluster 0 of die 0 and maps the page, and fibre 2 of core 0
stands in slot 1 at it, next to issue. -/
def State.withFetchWord (s : State) (nbits w : Nat) : State :=
  let c := s.core 0
  { s with
    mem := placeMem s.mem nbits w
    ctxs := spPut s.ctxs 0 { s.ctx 0 with en := true, rect := #v[1, 0, 0, 0], ptPool := BitVec.ofNat 64 placePool }
    cores := spPut s.cores 0 { c with
      fibres := spPut c.fibres 2 { pc := placePc, noMatch := true, noBreak := true }
      slots := c.slots.set 0 (some 2), lastSlot := 0, issued := 0, stopped := false, halted := false, fenced := false }
    mgmt := { s.mgmt with boot := 1 }
    agenda := []
    focus := 0 }

end Sys2Proof.Machine
end

