-- ==== Sys2Proof/Safety.lean ====
section
/-! DEFINITION. What counts as a safe run, in the terms that the statements use: the invariant of every step, what an
instruction completes with, and what it leaves as it was. -/

namespace Sys2Proof.Machine

/-- The memory of the module keeps its canonical form, so that equal memories are equal data. -/
def State.Inv (s : State) : Prop := Memory.wf s.mem = true

/-- The outcome is a next state with a property. -/
def Completes (r : Host.Outcome State Fault Refusal) (P : State → Prop) : Prop := ∃ t, r = .next t ∧ P t

/-! ## Planes: the registers of the fibre that issues (R180, R185) -/

/-- A plane of registers: a core, a fibre of it, and whether it is the urgent fibre's shadow plane. -/
structure Plane where
  L  : Nat
  f  : Nat
  sh : Bool

/-- The plane that issues. -/
def State.plane (s : State) : Plane := { L := s.L, f := s.fibre, sh := s.onShadow }

/-- The plane's core and fibre in a state. -/
def Plane.core (p : Plane) (t : State) : Core := t.core p.L
def Plane.fib (p : Plane) (t : State) : Fibre := (p.core t).fib p.f

/-- Register a_i, the flags word, the PC, the status, and the outstanding access. -/
def Plane.a (p : Plane) (t : State) (i : Nat) : Word :=
  if p.sh then (p.core t).shadowA.getD i 0 else (p.fib t).a.getD i 0
def Plane.flags (p : Plane) (t : State) : Word := if p.sh then (p.core t).shadowFl else (p.fib t).flags
def Plane.pc (p : Plane) (t : State) : VAddr := if p.sh then (p.core t).shadowPc else (p.fib t).pc
def Plane.status (p : Plane) (t : State) : Status := if p.sh then (p.core t).shadowSt else (p.fib t).status
/-- The first cycle in which the plane may issue again (R178, R348). -/
def Plane.due (p : Plane) (t : State) : Nat := if p.sh then (p.core t).shadowDue else (p.fib t).due
def Plane.pend (p : Plane) (t : State) : Option Pending := if p.sh then (p.core t).shadowPend else (p.fib t).pend

/-! ## Frames -/

/-- A fibre as an instruction leaves it: only its PC, private registers, flags, and its place in the barrel change. Its
handles, F and C registers, priority, task, reservation and trap do not. -/
def FibFrame (x y : Fibre) : Prop :=
  y = { x with
    pc := y.pc, a := y.a, flags := y.flags, status := y.status, since := y.since, reason := y.reason
    quantum := y.quantum, icount := y.icount, counted := y.counted, pend := y.pend, wake := y.wake, noMatch := y.noMatch, noBreak := y.noBreak
    due := y.due }

/-- A core as an instruction of one plane leaves it: no special register, no accumulator, no queue and no shared register
changes at once, and of the fibres and slots only the plane's own. -/
def CoreFrame (p : Plane) (c d : Core) : Prop :=
  if p.sh then
    d = { c with
      wb := d.wb, shadowA := d.shadowA, shadowFl := d.shadowFl, shadowPc := d.shadowPc, shadowSt := d.shadowSt
      shadowPend := d.shadowPend, shadowNoBreak := d.shadowNoBreak, shadowSince := d.shadowSince, shadowWake := d.shadowWake
      shadowDue := d.shadowDue }
  else
    d = { c with wb := d.wb, slots := d.slots, fibres := spPut c.fibres p.f (d.fib p.f) }
      ∧ FibFrame (c.fib p.f) (d.fib p.f)
      ∧ (d.slots = c.slots ∨ d.slots = (c.freeSlot p.f).slots)

/-- Outside the issuing core nothing changes: no memory, no other core, no context, no device register. -/
def OnlyCore (s t : State) : Prop := t = s.setCore s.L (t.core s.L)

/-- An instruction changes its own plane only. -/
def OnlyPlane (s t : State) : Prop := OnlyCore s t ∧ CoreFrame s.plane (s.core s.L) (t.core s.L)

/-- Besides its own plane, an instruction changes memory, with what follows a write at its home: poison, watches, and
the lines the host caches. -/
def OnlyPlaneAndMemory (s t : State) : Prop :=
  t = { s.setCore s.L (t.core s.L) with
        mem := t.mem, poison := t.poison, watches := t.watches, snoops := t.snoops, hostLines := t.hostLines }
    ∧ CoreFrame s.plane (s.core s.L) (t.core s.L)

/-- The bytes of memory from a key on are these, and every other byte is as it was. -/
def Stores (s t : State) (k : Nat) (bs : List Byte) : Prop :=
  memGets t.mem k bs.length = bs ∧ ∀ j, j < k ∨ k + bs.length ≤ j → memGet t.mem j = memGet s.mem j

/-! ## Results -/

/-- The private registers stay, and no writeback of a shared one is added. -/
def Plane.Keeps (p : Plane) (s t : State) : Prop :=
  (∀ i, i < 8 → p.a t i = p.a s i) ∧ (p.core t).wb = (p.core s).wb

/-- A destination takes a value: a private register, which only its own fibre reads, at once; a shared one in its writeback cycle,
`lat` cycles after issue. The fibre issues again no earlier than the cycle after that (R186, R348). Every other register stays. -/
def Plane.Writes (p : Plane) (s t : State) (lat : Nat) (d : GReg) (v : Word) : Prop :=
  p.due t = s.now + lat + 1 ∧
  if h : d.val < 8 then
    (∀ i, i < 8 → p.a t i = if i = d.val then v else p.a s i) ∧ (p.core t).wb = (p.core s).wb
  else
    (∀ i, i < 8 → p.a t i = p.a s i)
      ∧ (p.core t).wb = (p.core s).wb
          ++ [{ due := s.now + lat, slot := s.slot, fibre := p.f, shadow := p.sh, reg := ⟨d.val - 8, by omega⟩, value := v }]
      ∧ p.status t = .writeback

/-- A register holds a value: a private one does, a shared one has a writeback of it on its way. -/
def Plane.Holds (p : Plane) (t : State) (r : Nat) (v : Word) : Prop :=
  if r < 8 then p.a t r = v
  else (p.core t).wb.any (fun w => decide (w.reg.val + 8 = r) && w.value == v && w.fibre == p.f) = true

/-- The condition flags take values; of the other bits, the sticky flags stay and the reserved bits read 0. -/
def Plane.SetsFlags (p : Plane) (s t : State) (f : Cond) : Prop :=
  condOf (p.flags t) = f ∧ ∀ i, 4 ≤ i → (p.flags t).getLsbD i = ((p.flags s).getLsbD i && decide (i = 8 ∨ i = 9 ∨ i = 10))

/-- An instruction completes with a result in a register and its flags unchanged. -/
def GivesResult (s : State) (r : Host.Outcome State Fault Refusal) (lat : Nat) (d : GReg) (v : Word) : Prop :=
  Completes r fun t =>
    OnlyPlane s t ∧ s.plane.Writes s t lat d v ∧ s.plane.flags t = s.plane.flags s ∧ s.plane.pc t = s.nextPc

/-- An instruction completes with a result in a register, and with condition flags. -/
def GivesFlagged (s : State) (r : Host.Outcome State Fault Refusal) (d : GReg) (v : Word) (f : Cond) : Prop :=
  Completes r fun t =>
    OnlyPlane s t ∧ s.plane.Writes s t 1 d v ∧ s.plane.SetsFlags s t f ∧ s.plane.pc t = s.nextPc

/-- An instruction completes with condition flags only. -/
def GivesFlags (s : State) (r : Host.Outcome State Fault Refusal) (f : Cond) : Prop :=
  Completes r fun t =>
    OnlyPlane s t ∧ s.plane.Keeps s t ∧ s.plane.SetsFlags s t f ∧ s.plane.pc t = s.nextPc ∧ s.plane.due t = s.now + 2

/-- An instruction completes with its registers and flags unchanged and goes on at an address. -/
def GoesTo (s : State) (r : Host.Outcome State Fault Refusal) (pc : VAddr) : Prop :=
  Completes r fun t =>
    OnlyPlane s t ∧ s.plane.Keeps s t ∧ s.plane.flags t = s.plane.flags s ∧ s.plane.pc t = pc

/-- A jump completes: registers and flags unchanged, and the fibre goes on at an address, no earlier than the cycle after its
writeback (R348). -/
def JumpsTo (s : State) (r : Host.Outcome State Fault Refusal) (pc : VAddr) : Prop :=
  Completes r fun t =>
    OnlyPlane s t ∧ s.plane.Keeps s t ∧ s.plane.flags t = s.plane.flags s ∧ s.plane.pc t = pc ∧ s.plane.due t = s.now + 2

/-- An access delivers a value: at once, for a local one, as a result with latency 3 (R187, R363); else when it completes,
until when the fibre waits (R182). -/
def Plane.Receives (p : Plane) (s t : State) (l : Loc) (d : GReg) (v : Word) : Prop :=
  if l.isLocal s.L then p.Writes s t loadLat d v
  else p.Keeps s t ∧ p.status t = .waiting .access ∧ (p.pend t).map (fun x => (x.dst, x.value)) = some (some d, v)

/-- The condition flags of an addition (`sub` false) or a subtraction with a carry or borrow in (R346). -/
def addFlags (x y : Word) (k : Bool) (r : Word) : Cond :=
  { z := r == 0, n := r.msb, c := decide (2 ^ 64 ≤ x.toNat + y.toNat + k.toNat)
    v := (x.msb == y.msb) && (r.msb != x.msb) }
def subFlags (x y : Word) (k : Bool) (r : Word) : Cond :=
  { z := r == 0, n := r.msb, c := decide (x.toNat < y.toNat + k.toNat)
    v := (x.msb != y.msb) && (r.msb != x.msb) }
def logicFlags (r : Word) : Cond := { z := r == 0, n := r.msb, c := false, v := false }

/-- An instruction takes a trap (R277, R286): its fibre parks with a record of the cause, the details, the chain's address, the
base word and the prefix count, and its registers, flags, PC and bindings stand as before it. -/
def Traps (s : State) (r : Host.Outcome State Fault Refusal) (cause : Cause) (addr aux : Word) (eng : Bool) : Prop :=
  Completes r fun t =>
    let p := s.plane
    (if p.sh then (p.core t).shadowTrap else (p.fib t).trap).map
        (fun x => (x.cause, x.addr, x.aux, x.pc, x.word, x.npfx, x.eng))
      = some (cause, addr, aux, s.cur.pc, s.cur.word, s.cur.npfx, eng)
      ∧ p.status t = .parked ∧ (∀ i, i < 8 → p.a t i = p.a s i) ∧ p.flags t = p.flags s ∧ p.pc t = p.pc s
      ∧ (p.fib t).h = (p.fib s).h ∧ (p.core t).s = (p.core s).s

/-- An instruction waits (R182): its fibre waits for that, and its PC, registers and flags stand as before it, so that it is
executed again when the wait ends. -/
def Waits (s : State) (r : Host.Outcome State Fault Refusal) (w : Wait) : Prop :=
  Completes r fun t =>
    OnlyPlane s t ∧ s.plane.Keeps s t ∧ s.plane.flags t = s.plane.flags s ∧ s.plane.pc t = s.plane.pc s
      ∧ s.plane.status t = .waiting w

/-- An instruction completes with a change `g` of its core, and besides it leaves its core as `CoreFrame` says, its registers and flags
as they were, and goes on at the next chain. -/
def Does (s : State) (r : Host.Outcome State Fault Refusal) (g : Core → Core) : Prop :=
  Completes r fun t =>
    OnlyCore s t ∧ CoreFrame s.plane (g (s.core s.L)) (t.core s.L)
      ∧ s.plane.Keeps s t ∧ s.plane.flags t = s.plane.flags s ∧ s.plane.pc t = s.nextPc

/-- An instruction leaves its plane's registers and flags, and goes on at the next chain. -/
def GoesOn (s t : State) : Prop :=
  s.plane.Keeps s t ∧ s.plane.flags t = s.plane.flags s ∧ s.plane.pc t = s.nextPc

/-- The port holds no access of the issuing core back: its earlier atomics and LRs are bound, its writes applied, its messages that
write have arrived, and no engine instruction of it is in flight (R232, R237, R386). -/
def PortFree (s : State) : Prop :=
  (∀ g ∈ s.grants, g.core = s.L → g.granted = true ∧ g.op = none)
    ∧ (∀ w ∈ s.heldWrites, w.core ≠ some s.L)
    ∧ (∀ m ∈ s.msgs, m.body.writes = true → s.localCore m.src ≠ some s.L)
    ∧ (∀ m ∈ s.outMsgs, m.body.writes = true → s.localCore m.src ≠ some s.L)
    ∧ s.here.vec = none ∧ s.here.mat = none

/-- Besides, no reservation stands and no write waits at any home, so that a write is applied at once (R241). -/
def HomesFree (s : State) : Prop := s.grants = [] ∧ s.heldWrites = [] ∧ PortFree s

/-- The issuing fibre holds the only reservation, an LR's (R367), and no write waits at any home. -/
def HoldsAlone (s : State) (n : Nat) : Prop :=
  s.heldWrites = [] ∧ PortFree s
    ∧ ∃ g : Grant, s.grants = [g] ∧ g.granted = true ∧ g.op = none ∧ g.core = s.L ∧ g.fibre = s.fibre ∧ g.gran = n

/-- Cores other than those of a list are as they were. -/
def OtherCores (s t : State) (l : List Nat) : Prop := ∀ M, M ∉ l → t.core M = s.core M

/-- A carry as a word. -/
def carryWord (k : Bool) : Word := if k then 1 else 0

end Sys2Proof.Machine
end

