-- ==== Sys2Proof/WellFormed.lean ====
section
/-! DEFINITION. Which terms of `Instr` are instructions that some chain encodes and that decoding accepts: the MOD
fields each form takes (R323, R347, R362, R389, R408), the zero fields of CMP, TST and CMPI (R351, R352), and the
base-field destinations of BKINFO and BKSTEP, which take no REG prefix (R342), and the four prefixes that a chain can
hold (R313).
Log entries: 14 (DEDUCED). -/

namespace Sys2Proof

/-- ORDER accepted by loads, LR and ACCRD, and by the waits (R362). -/
def ordAcq (m : MMod) : Bool := m.order == 0 || m.order == 1

/-- ORDER accepted by stores, SIGINC, APPEND, BARARV (R362) and CSTART (R420). -/
def ordRel (m : MMod) : Bool := m.order == 0 || m.order == 2

/-- ORDER accepted by forms that carry none (R362, R421). -/
def ordNone (m : MMod) : Bool := m.order == 0

/-- A form that uses descriptors and does not round (R389). -/
def noRnd (m : AMod) : Bool := m.rnd == 0

/-- A form that takes the hints only (R335, R342, R408). -/
def hintsOnly (m : AMod) : Bool := m.rnd == 0 && m.fsel == 0

/-- CMP and TST with a third register need a zero RD (R352); so does CMPI (R351). -/
def zeroD (d : GReg) (t : Option GReg) : Bool := t.isNone || d == 0

/-- The IMM prefixes that a value needs beside a base field of `w` bits (R317). -/
def immPrefixes {n : Nat} (w : Nat) (v : BitVec n) : Nat :=
  if (v.setWidth w).signExtend n = v then 0 else if (v.setWidth (w + 11)).signExtend n = v then 1 else 2

/-- The REG prefix of two registers and a third: 1 when one needs it (R319, R320). -/
def regPrefixes (d s : GReg) (t : Option GReg) : Nat := (t.isSome || decide (16 ≤ d.val) || decide (16 ≤ s.val)).toNat

/-- A paged immediate form fits in a chain: PAGE, REG, MOD and the IMM prefixes are at most four (R313). -/
def fitsRI (o : OpRI) : Bool :=
  decide (1 + regPrefixes o.d 0 o.t + (o.hints != {}).toNat + immPrefixes 7 o.imm ≤ 4)

/-- A paged load or store fits in a chain. -/
def fitsMem (o : OpMem) : Bool :=
  decide (1 + regPrefixes o.d o.b o.t + (o.m != {}).toNat + immPrefixes 3 o.disp ≤ 4)

/-- The well-formedness of an instruction or event. -/
def Instr.wf : Instr → Bool
  | .cmp o | .tst o => zeroD o.d o.t
  | .cmpi o => zeroD o.d o.t
  | .ori o | .xori o => fitsRI o
  | .ldd o | .ldw o | .ldwu o => ordAcq o.m
  | .ldb o | .ldbu o | .ldh o | .ldhu o => ordAcq o.m && fitsMem o
  | .std o | .stw o => ordRel o.m
  | .stb o | .sth o => ordRel o.m && fitsMem o
  | .lr o | .lrw o => ordAcq o.m
  | .accrd o => ordAcq o.m
  | .waitge o | .recv o | .tagwait o => ordAcq o.m
  | .wrs o => ordAcq o.m
  | .barwait o => ordAcq o.m
  | .siginc o => ordRel o.m
  | .append o => ordRel o.m
  | .bararv o => ordRel o.m
  | .tagtest o | .lock o => ordNone o.m
  | .mbput o | .mbtake o | .barinit o => ordNone o.m
  | .unlock o | .trput o | .trget o => ordNone o.m
  | .cstart o => ordRel o.m
  | .vmin o | .vmax o | .vcmpeq o | .vcmplt o | .vcmple o | .viadd o | .visub o | .vimul o | .vishl o
  | .vand o | .vor o | .vxor o | .vishr o | .visar o | .vimin o | .vimax o | .vperm o | .vscan o => noRnd o.m
  | .vsel o => noRnd o.m
  | .vabs o | .vneg o | .viabs o | .vrsum o | .vrmax o | .vrmin o => noRnd o.m
  | .vgather o | .vscatter o => noRnd o.m
  | .vbcast o => noRnd o.m
  | .vexp2 o | .vlog2 o | .vrcp o | .vrsq o => noRnd o.m
  | .mma o | .mmas o => noRnd o.m
  | .mmclr o | .skset o => hintsOnly o.m
  | .mmrc o => hintsOnly o.m
  | .rbind o | .awaitf o | .awaite o | .advh o | .advt o | .rstat o => hintsOnly o.m
  | .runbind o => hintsOnly o.m
  | .advtRemote o => hintsOnly o.m
  | .bkinfo d | .bkstep d => d.val < 16
  | _ => true

/-- The instruction is a form of a program, with an encoding; the others are events. -/
def Instr.isEvent : Instr → Bool
  | .perstAssert | .pcieHotReset | .modRstWarm | .modRstCold | .warmReset | .coldReset | .firmwareBoot
  | .linkTraining | .flitReceive | .flitReceiveInReset | .destinationInResetReport | .flitNakReceive
  | .flitAckReceive | .portDown | .laneMarginMeasure | .laneSwap | .budgetPeriodStart
  | .modBudgetWrite | .railThrottle | .scrubRead | .barRegisterWrite | .barUnassignedAccess
  | .rcRegisterRead | .dieCdataAccess | .hostCxlAccess | .devCxlwinEnable | .devPwwinEnable
  | .peerWrite | .peerRead | .ctxEnable | .ctxDisable | .sqEnable | .sqDisable | .sqResume
  | .cqEnable | .fqEnable | .cqHeadWrite | .fqHeadWrite | .kick | .sqPacketRead | .sqStampRetry
  | .packetIssueUnblock | .launchPacket | .launchComplete | .copyPacket | .copyPacketDone
  | .signalPacket | .waitPacket | .waitPacketSatisfied | .waitPacketTimeout | .mapPacket
  | .bookPacket | .checkpointPacket | .checkpointStepBoundary | .checkpointCopyDone
  | .dedupDigestReceive | .dedupDigestTimeout | .checkpointDrainDone | .restorePacket
  | .restoreStepBoundary | .devAttcmdGo | .attestationDone | .mbxReadIdentityCert | .mbxReadCheckpointCert
  | .mbxReadAuthorityCert | .mbxWritePartitionRecord | .mbxInvalidCommand | .mbxCommandDone | .ctxFcmdReplay
  | .ctxFcmdSkip | .ctxFcmdRestart | .ctxFcmdFail | .coreTactReplay | .coreTactSkip
  | .coreTactRestart | .coreTactFail | .ctxGctlStop | .ctxGctlResume | .gangStop | .gangStopDrained
  | .fatalFault | .dumpStart | .dumpComplete | .migrationGo | .migrationLineMove | .migrationDone
  | .movedReply | .watchdogExpiry | .engineHang | .coreStateError | .coreFence
  | .reservationTimeout | .reservationGrant | .atomicReleaseWrite | .accessComplete | .waitWake
  | .slotFill | .fibreRefill | .preemptPriority | .preemptQuantum | .rotationEnd | .corePfctlClr
  | .urgentDelivery | .coreUpendWrite | .timerExpiry | .pcMatchFire | .clusterBreakpoint
  | .clusterWatchpoint | .cluDbgctlHalt | .clusterHalt | .cluDbgctlResume | .replayStop
  | .traceSample | .trap | .taskDispatch | .footprintFetchDone | .footprintFetchFault
  | .stealAnnounce | .stealRequest | .stealReply | .balanceStep | .balanceEntryArrive
  | .bookCtlGo | .bookCtlPause | .bookCtlClear | .bookAdvance | .bookLaunchComplete
  | .bookTableEnd | .bookNotice | .ringCreditArrive | .remoteStoreArrive | .sigincArrive
  | .appendArrive | .appendStatusReturn | .mmrcArrive | .mmrcCommandExecute | .barrierArrivalHop
  | .barrierReleaseHop | .copyChannelGrant | .copyComplete | .stashComplete | .restoreComplete
  | .collDescriptorCompare | .collReadyToReceive | .collChunkArrive | .gatewayPassOne
  | .gatewayPassTwo | .collComplete | .collFail | .treeRoundComplete | .treeResultDeliver
  | .coreTreeWrite | .coreSplitWrite | .coreDtabWrite | .coreDtstatRst0 | .coreDtstatRst1
  | .dtabRebuildDone | .coreCourierWrite | .courierRequestServe | .coreInboxWrite | .ctxPinqWrite
  | .engineInstructionComplete | .registerWriteback | .railThrottleEnd | .restorePacketDone => true
  | _ => false

end Sys2Proof
end

