-- ==== Sys2Proof/Certificates/Slice0/Obligations.lean ====
section
/-! DEFINITION. The statements for the provers. -/

open Sys2Proof Sys2Proof.Machine

/-! ## Encoding -/

/-- Every well-formed instruction of a program reads back from its encoding, with every operand at every value that the
encoding admits, whatever words follow (R311–R325). -/
def Obligations.DecodeOfEncodeIsTheInstruction : Prop :=
  ∀ (i : Instr) (rest : List Half), i.wf = true → i.isEvent = false → decode (encode i ++ rest) = .ok (i, rest)

/-- What decodes is a well-formed instruction of a program, and a chain has at most five words (R313). -/
def Obligations.DecodedInstructionIsWellFormed : Prop :=
  ∀ (ws rest : List Half) (i : Instr), decode ws = .ok (i, rest) →
    i.wf = true ∧ i.isEvent = false ∧ ∃ chain, ws = chain ++ rest ∧ 1 ≤ chain.length ∧ chain.length ≤ 5

/-! ## The machine as a whole -/

/-- The machine after reset meets the invariant of every step, and stands as R37 and the reset values of R213, R188, R209, R377
and R109 say: no memory of the part holds anything, no context is enabled, the urgent fibre is idle, every tag has ended, and the dies are
held. That the host's memory reads as zero too is the model's choice (log entry 1). -/
def Obligations.ResetStandsAsTheManualSays : Prop :=
  State.reset.Inv ∧ (∀ k, memGet State.reset.mem k = 0) ∧ State.reset.poison = []
    ∧ (∀ c, (State.reset.ctx c).en = false)
    ∧ (∀ L, (State.reset.core L).split = 6 ∧ (State.reset.core L).idle = true ∧ (State.reset.core L).uctl = 3
        ∧ (State.reset.core L).tags = BitVec.allOnes 64 ∧ ∀ i, (State.reset.core L).slots.getD i none = none)
    ∧ State.reset.running = false

/-- Every step keeps the memory's canonical form. -/
def Obligations.EveryStepKeepsTheInvariant : Prop :=
  ∀ s t : State, s.Inv → step s = .next t → t.Inv

/-- When no event comes before a slot's turn, the port lets the fetch go, and the chain at the slot's PC decodes to an instruction with no
breakpoint or match point before it, the step is that instruction's `exec`, in the state in which the barrel has counted the issue. While
the port holds the fetch (R315), the slot's fibre waits at it and nothing else changes. Which events come before which turns, and that a
fetch that waits takes its turn, are the model's choice (log entries 5, 7, 43). -/
def Obligations.StepRunsTheDecodedInstruction : Prop :=
  ∀ (s : State) (L slot : Nat) (i : Instr) (rest : List Half),
    (s.agenda = [] ∨ ∃ e r, s.agenda = e :: r ∧ L < e.turns s) → issueNext s = some (L, slot) →
    beforeIssue s L slot ((s.core L).slotPc slot) = none →
    (fetchChain s L ((s.core L).slotPc slot)).stop = none →
    decode (fetchChain s L ((s.core L).slotPc slot)).words = .ok (i, rest) →
    let pc := (s.core L).slotPc slot
    let here : State := { s with cur := { core := L, slot, pc }, focus := L + 1 }
    let n := (fetchChain s L pc).words.length
    (∀ rd wr g, fetchGo here L pc n = .error (.wait (.port rd wr g)) → Waits here (step s) (.port rd wr g))
    ∧ (fetchGo here L pc n = .ok () → ∃ s' : State, step s = exec i s'
      ∧ s'.cur.core = L ∧ s'.cur.slot = slot ∧ s'.cur.pc = (s.core L).slotPc slot
      ∧ s'.cur.len = 2 * (fetchChain s L ((s.core L).slotPc slot)).words.length
      ∧ s'.mem = s.mem ∧ s'.ctxs = s.ctxs ∧ (∀ M, M ≠ L → s'.core M = s.core M)
      ∧ (s'.core L).s = (s.core L).s ∧ ∀ f, ((s'.core L).fib f).a = ((s.core L).fib f).a)

/-! ## Scalar results -/

/-- ADD, SUB, ADDC, SUBC, NEG and ADDI: the sum or difference modulo 2^64 with carry or borrow and signed overflow. -/
def Obligations.ArithmeticGivesResultAndFlags : Prop :=
  ∀ s : State,
    (∀ o : OpRR,
      GivesFlagged s (exec (.add o) s) o.d (o.x s + o.y s) (addFlags (o.x s) (o.y s) false (o.x s + o.y s))
      ∧ GivesFlagged s (exec (.sub o) s) o.d (o.x s - o.y s) (subFlags (o.x s) (o.y s) false (o.x s - o.y s))
      ∧ (let r := o.x s + o.y s + carryWord s.cond.c
         GivesFlagged s (exec (.addc o) s) o.d r (addFlags (o.x s) (o.y s) s.cond.c r))
      ∧ (let r := o.x s - o.y s - carryWord s.cond.c
         GivesFlagged s (exec (.subc o) s) o.d r (subFlags (o.x s) (o.y s) s.cond.c r)))
    ∧ (∀ o : OpRF, GivesFlagged s (exec (.neg o) s) o.d (-o.x s) (subFlags 0 (o.x s) false (-o.x s)))
    ∧ ∀ o : OpRI,
      GivesFlagged s (exec (.addi o) s) o.d (o.x s + o.y) (addFlags (o.x s) o.y false (o.x s + o.y))

/-- AND, OR, XOR, ANDN, NOT, ANDI, ORI and XORI: the bits, with Z and N, and C and V cleared. -/
def Obligations.LogicGivesResultAndFlags : Prop :=
  ∀ s : State,
    (∀ o : OpRR,
      GivesFlagged s (exec (.and o) s) o.d (o.x s &&& o.y s) (logicFlags (o.x s &&& o.y s))
      ∧ GivesFlagged s (exec (.or o) s) o.d (o.x s ||| o.y s) (logicFlags (o.x s ||| o.y s))
      ∧ GivesFlagged s (exec (.xor o) s) o.d (o.x s ^^^ o.y s) (logicFlags (o.x s ^^^ o.y s))
      ∧ GivesFlagged s (exec (.andn o) s) o.d (o.x s &&& ~~~o.y s) (logicFlags (o.x s &&& ~~~o.y s)))
    ∧ (∀ o : OpRF, GivesFlagged s (exec (.not o) s) o.d (~~~o.x s) (logicFlags (~~~o.x s)))
    ∧ ∀ o : OpRI,
      GivesFlagged s (exec (.andi o) s) o.d (o.x s &&& o.y) (logicFlags (o.x s &&& o.y))
      ∧ GivesFlagged s (exec (.ori o) s) o.d (o.x s ||| o.y) (logicFlags (o.x s ||| o.y))
      ∧ GivesFlagged s (exec (.xori o) s) o.d (o.x s ^^^ o.y) (logicFlags (o.x s ^^^ o.y))

/-- CMP, TST and CMPI write the condition flags and no register. -/
def Obligations.ComparesWriteFlagsOnly : Prop :=
  ∀ s : State,
    (∀ o : OpRR,
      GivesFlags s (exec (.cmp o) s) (subFlags (o.x s) (o.y s) false (o.x s - o.y s))
      ∧ GivesFlags s (exec (.tst o) s) (logicFlags (o.x s &&& o.y s)))
    ∧ ∀ o : OpRI, GivesFlags s (exec (.cmpi o) s) (subFlags (o.x s) o.y false (o.x s - o.y))

/-- The condition tests of B.cc on the flags, and after CMP x, y each condition holds exactly when the relation of R353 holds. -/
def Obligations.ConditionsHoldAsTheCompareSays : Prop :=
  (∀ k : Cond,
    (k.test 0 = true ↔ k.z = true) ∧ (k.test 1 = true ↔ k.z = false) ∧ (k.test 2 = true ↔ k.n ≠ k.v) ∧ (k.test 3 = true ↔ k.n = k.v)
      ∧ (k.test 4 = true ↔ k.c = true) ∧ (k.test 5 = true ↔ k.c = false) ∧ (k.test 6 = true ↔ k.n = true) ∧ k.test 7 = true)
  ∧ (∀ (s : State) (o : OpBC), JumpsTo s (exec (.bcc o) s)
      (if (condOf (s.plane.flags s)).test o.cc then s.cur.pc + o.off.signExtend 56 * 2 else s.nextPc))
  ∧ ∀ (s t : State) (o : OpRR), exec (.cmp o) s = .next t →
    let c := condOf (s.plane.flags t)
    let x := o.x s
    let y := o.y s
    (c.test 0 = true ↔ x = y) ∧ (c.test 1 = true ↔ x ≠ y)
      ∧ (c.test 2 = true ↔ x.toInt < y.toInt) ∧ (c.test 3 = true ↔ y.toInt ≤ x.toInt)
      ∧ (c.test 4 = true ↔ x.toNat < y.toNat) ∧ (c.test 5 = true ↔ y.toNat ≤ x.toNat)
      ∧ (c.test 6 = true ↔ (x - y).msb = true) ∧ c.test 7 = true

/-- The shift count: y[5:0]. -/
def shiftCount (y : Word) : Nat := y.toNat % 64

/-- Shifts, products, minima and maxima, rotations, selections, moves, extensions, LI, LEA and MOVPC: the result, in its
writeback cycle, with the flags unchanged. -/
def Obligations.PlainFormsGiveTheirResult : Prop :=
  ∀ s : State,
    (∀ o : OpRR,
      let x := o.x s
      let y := o.y s
      GivesResult s (exec (.shl o) s) 1 o.d (x <<< shiftCount y)
      ∧ GivesResult s (exec (.shr o) s) 1 o.d (x >>> shiftCount y)
      ∧ GivesResult s (exec (.sar o) s) 1 o.d (x.sshiftRight (shiftCount y))
      ∧ GivesResult s (exec (.mul o) s) 3 o.d (x * y)
      ∧ GivesResult s (exec (.mulh o) s) 3 o.d ((x.signExtend 128 * y.signExtend 128).extractLsb' 64 64)
      ∧ GivesResult s (exec (.mulhu o) s) 3 o.d ((x.setWidth 128 * y.setWidth 128).extractLsb' 64 64)
      ∧ GivesResult s (exec (.min o) s) 1 o.d (if x.toInt ≤ y.toInt then x else y)
      ∧ GivesResult s (exec (.max o) s) 1 o.d (if y.toInt ≤ x.toInt then x else y)
      ∧ GivesResult s (exec (.minu o) s) 1 o.d (if x.toNat ≤ y.toNat then x else y)
      ∧ GivesResult s (exec (.maxu o) s) 1 o.d (if y.toNat ≤ x.toNat then x else y)
      ∧ GivesResult s (exec (.rol o) s) 1 o.d (x <<< shiftCount y ||| x >>> (64 - shiftCount y))
      ∧ GivesResult s (exec (.ror o) s) 1 o.d (x >>> shiftCount y ||| x <<< (64 - shiftCount y))
      ∧ GivesResult s (exec (.selz o) s) 1 o.d (if s.cond.z then y else x)
      ∧ GivesResult s (exec (.seln o) s) 1 o.d (if s.cond.n then y else x)
      ∧ GivesResult s (exec (.selc o) s) 1 o.d (if s.cond.c then y else x))
    ∧ (∀ o : OpRF,
      let x := o.x s
      GivesResult s (exec (.mov o) s) 1 o.d x
      ∧ GivesResult s (exec (.sextb o) s) 1 o.d ((x.extractLsb' 0 8).signExtend 64)
      ∧ GivesResult s (exec (.sexth o) s) 1 o.d ((x.extractLsb' 0 16).signExtend 64)
      ∧ GivesResult s (exec (.sextw o) s) 1 o.d ((x.extractLsb' 0 32).signExtend 64)
      ∧ GivesResult s (exec (.zextb o) s) 1 o.d (x &&& 0xFF)
      ∧ GivesResult s (exec (.zexth o) s) 1 o.d (x &&& 0xFFFF)
      ∧ GivesResult s (exec (.zextw o) s) 1 o.d (x &&& 0xFFFFFFFF))
    ∧ (∀ o : OpLI, GivesResult s (exec (.li o) s) 1 o.d (o.imm.signExtend 64))
    ∧ (∀ o : OpLea, GivesResult s (exec (.lea o) s) 1 o.d
        (s.getG o.b + o.disp.signExtend 64 + (match o.t with | none => 0 | some t => s.getG t)))
    ∧ ∀ o : OpD, GivesResult s (exec (.movpc o) s) 1 o.d (s.cur.pc.setWidth 64)

/-- The quotient of R350 for a non-zero divisor: truncated toward zero. -/
def quotient (x y : Word) : Int := (x.toInt * y.toInt).sign * ((x.toInt.natAbs / y.toInt.natAbs : Nat) : Int)

/-- DIV, REM, DIVU and REMU as R350 prints them, a zero divisor included; no division traps or sets a flag. -/
def Obligations.DivisionTruncatesAndNeverTraps : Prop :=
  ∀ (s : State) (o : OpRR),
    let x := o.x s
    let y := o.y s
    GivesResult s (exec (.div o) s) 6 o.d (if y = 0 then BitVec.allOnes 64 else BitVec.ofInt 64 (quotient x y))
    ∧ GivesResult s (exec (.rem o) s) 6 o.d (if y = 0 then x else BitVec.ofInt 64 (x.toInt - y.toInt * quotient x y))
    ∧ GivesResult s (exec (.divu o) s) 6 o.d (if y = 0 then BitVec.allOnes 64 else BitVec.ofNat 64 (x.toNat / y.toNat))
    ∧ GivesResult s (exec (.remu o) s) 6 o.d (if y = 0 then x else BitVec.ofNat 64 (x.toNat % y.toNat))

/-- A bit field of R354: position y[5:0], width y[14:8] cut at bit 63. -/
def bfPos (y : Word) : Nat := y.toNat % 64
def bfWidth (y : Word) : Nat := Nat.min (y.toNat / 256 % 128) (64 - bfPos y)

/-- BFX, BFXU and BFI move the field's bits and extend or keep the others; CLZ, CTZ and POPC count; BREV and BSWAP reorder.
Each statement says every bit of the result, or the count itself. -/
def Obligations.BitFieldsAndCountsGiveTheirBits : Prop :=
  ∀ s : State,
    (∀ o : OpRR,
      let x := o.x s
      let p := bfPos (o.y s)
      let w := bfWidth (o.y s)
      (∃ r : Word, GivesResult s (exec (.bfxu o) s) 1 o.d r ∧ ∀ i, r.getLsbD i = (decide (i < w) && x.getLsbD (p + i)))
      ∧ (∃ r : Word, GivesResult s (exec (.bfx o) s) 1 o.d r
          ∧ ∀ i, i < 64 → r.getLsbD i = (decide (0 < w) && x.getLsbD (p + (if i < w then i else w - 1)))))
    ∧ (∀ o : OpRR3,
      let p := bfPos (s.getG o.t)
      let w := bfWidth (s.getG o.t)
      ∃ r : Word, GivesResult s (exec (.bfi o) s) 1 o.d r
        ∧ ∀ i, i < 64 → r.getLsbD i = if p ≤ i ∧ i < p + w then (s.getG o.s).getLsbD (i - p) else (s.getG o.d).getLsbD i)
    ∧ ∀ o : OpRF,
      let x := o.x s
      (∃ n ≤ 64, GivesResult s (exec (.clz o) s) 1 o.d (BitVec.ofNat 64 n)
        ∧ (∀ i, 64 - n ≤ i → x.getLsbD i = false) ∧ (n < 64 → x.getLsbD (63 - n) = true))
      ∧ (∃ n ≤ 64, GivesResult s (exec (.ctz o) s) 1 o.d (BitVec.ofNat 64 n)
        ∧ (∀ i, i < n → x.getLsbD i = false) ∧ (n < 64 → x.getLsbD n = true))
      ∧ GivesResult s (exec (.popc o) s) 1 o.d (BitVec.ofNat 64 ((List.range 64).countP x.getLsbD))
      ∧ (∃ r : Word, GivesResult s (exec (.brev o) s) 1 o.d r ∧ ∀ i, i < 64 → r.getLsbD i = x.getLsbD (63 - i))
      ∧ ∃ r : Word, GivesResult s (exec (.bswap o) s) 1 o.d r
        ∧ ∀ i, i < 64 → r.getLsbD i = x.getLsbD (56 - i / 8 * 8 + i % 8)

/-! ## Control flow -/

/-- B.cc, J, CALL, JR, CALLR, RET and LOOP: where the PC goes, what the link register or the count takes, and the traps of an
odd register target and of LOOP's two conditions. -/
def Obligations.BranchesGoToTheirTargets : Prop :=
  ∀ s : State,
    (∀ o : OpBC, JumpsTo s (exec (.bcc o) s) (if s.cond.test o.cc then s.cur.pc + o.off.signExtend 56 * 2 else s.nextPc))
    ∧ (∀ off, JumpsTo s (exec (.j off) s) (s.cur.pc + off.signExtend 56 * 2))
    ∧ (∀ off, Completes (exec (.call off) s) fun t =>
        OnlyPlane s t ∧ s.plane.Writes s t 1 7 (s.nextPc.setWidth 64) ∧ s.plane.flags t = s.plane.flags s
          ∧ s.plane.pc t = s.cur.pc + off.signExtend 56 * 2)
    ∧ (∀ o : OpD,
        let target : VAddr := (s.getG o.d).extractLsb' 0 56
        if target.getLsbD 0 then
          Traps s (exec (.jr o) s) 0x03C (target.setWidth 64) 0 false
            ∧ Traps s (exec (.callr o) s) 0x03C (target.setWidth 64) 0 false
        else
          JumpsTo s (exec (.jr o) s) target
            ∧ Completes (exec (.callr o) s) fun t =>
                OnlyPlane s t ∧ s.plane.Writes s t 1 7 (s.nextPc.setWidth 64) ∧ s.plane.flags t = s.plane.flags s
                  ∧ s.plane.pc t = target)
    ∧ (∀ h : Hints,
        let target : VAddr := (s.plane.a s 7).extractLsb' 0 56
        if target.getLsbD 0 then Traps s (exec (.ret h) s) 0x03C (target.setWidth 64) 0 false
        else JumpsTo s (exec (.ret h) s) target)
    ∧ ∀ o : OpLoop,
      let target := s.cur.pc + o.imm.signExtend 56 * 2
      let n := s.getG o.d
      if 0 ≤ o.imm.toInt then Traps s (exec (.loop o) s) 0x00F (target.setWidth 64) 0 false
      else if n.toInt ≤ 0 then Traps s (exec (.loop o) s) 0x00E 0 n false
      else Completes (exec (.loop o) s) fun t =>
        OnlyPlane s t ∧ s.plane.Writes s t 1 o.d (n - 1) ∧ s.plane.flags t = s.plane.flags s
          ∧ s.plane.pc t = if n = 1 then s.nextPc else target

/-! ## Memory -/

/-- An address that an access reaches outside the control page: where it leads, with nothing in its way. -/
def Reaches (s : State) (va : VAddr) (n : Nat) (k : Kind) (l : Loc) : Prop :=
  va.toNat % n = 0 ∧ resolve s (s.party s.L) va k = .ok l ∧ ∀ off, l.home ≠ .control off

/-- What a load of `n` bytes completes with: the bytes its core sees at the home, extended by `ext`; while the port holds it back, the
fibre waits at it. -/
def Loads (s : State) (r : Host.Outcome State Fault Refusal) (m : MMod) (d : GReg) (va : VAddr) (n : Nat) (ext : Nat → Word) : Prop :=
  (∀ l, Reaches s va n .read l →
    (PortFree s → s.poisoned l.key n = false → watchCheck s va true false = .ok () →
      Completes r fun t =>
        OnlyPlane s t ∧ s.plane.Receives s t l d (ext (leNat (s.view s.L l.key n)))
          ∧ s.plane.flags t = s.plane.flags s ∧ s.plane.pc t = s.nextPc)
    ∧ ∀ w, readGo s l n (acq m) = .error (.wait w) → Waits s r w)
  ∧ (va.toNat % n ≠ 0 → Traps s r (causeN (0x030 + sizeCode n)) (va.setWidth 64) 0 false)

/-- LDD, LDW, LDWU, LDH, LDHU, LDB and LDBU: the value at the effective address, sign- or zero-extended; memory is as it was, and a
misaligned address traps (R360, R361, R364). -/
def Obligations.LoadsReadTheEffectiveAddress : Prop :=
  ∀ (s : State) (o : OpMem),
    Loads s (exec (.ldd o) s) o.m o.d (o.ea 8 s) 8 (BitVec.ofNat 64)
    ∧ Loads s (exec (.ldw o) s) o.m o.d (o.ea 4 s) 4 (fun v => (BitVec.ofNat 32 v).signExtend 64)
    ∧ Loads s (exec (.ldwu o) s) o.m o.d (o.ea 4 s) 4 (BitVec.ofNat 64)
    ∧ Loads s (exec (.ldh o) s) o.m o.d (o.ea 2 s) 2 (fun v => (BitVec.ofNat 16 v).signExtend 64)
    ∧ Loads s (exec (.ldhu o) s) o.m o.d (o.ea 2 s) 2 (BitVec.ofNat 64)
    ∧ Loads s (exec (.ldb o) s) o.m o.d (o.ea 1 s) 1 (fun v => (BitVec.ofNat 8 v).signExtend 64)
    ∧ Loads s (exec (.ldbu o) s) o.m o.d (o.ea 1 s) 1 (BitVec.ofNat 64)

/-- What a store of the low `n` bytes of `v` completes with, where no reservation stands: the bytes stand at the home, or a
message carries them to another core's store; every other byte and every register is as it was. While the port holds the store
back, the fibre waits at it. -/
def StoresValue (s : State) (r : Host.Outcome State Fault Refusal) (m : MMod) (va : VAddr) (n : Nat) (v : Word) : Prop :=
  (∀ l, Reaches s va n .write l → watchCheck s va false true = .ok () →
    (l.isLocal s.L = true → boundAt s s.L l.key n = none) →
    (s.Inv → HomesFree s →
      Completes r fun t =>
        s.plane.Keeps s t ∧ s.plane.flags t = s.plane.flags s ∧ s.plane.pc t = s.nextPc
          ∧ match l.target, l.isLocal s.L with
            | some T, false =>
              t.mem = s.mem ∧ (∃ m : Msg, t.msgs = s.msgs ++ [m] ∧ m.body = .store va l.key (leBytes n v.toNat)
                  ∧ m.dst = s.coreId T 0 ∧ m.src = s.coreId s.L s.slot)
                ∧ (t.core s.L).msgTx = (s.core s.L).msgTx + 1
            | _, _ => OnlyPlaneAndMemory s t ∧ Stores s t l.key (leBytes n v.toNat))
    ∧ ∀ w, storeGo s l (rel m) = .error (.wait w) → Waits s r w)
  ∧ (va.toNat % n ≠ 0 → Traps s r (causeN (0x034 + sizeCode n)) (va.setWidth 64) 0 false)

/-- STD, STW, STH and STB: exactly the low bytes of RD go to the effective address (R360, R361, R364, R365). -/
def Obligations.StoresWriteTheEffectiveAddress : Prop :=
  ∀ (s : State) (o : OpMem),
    StoresValue s (exec (.std o) s) o.m (o.ea 8 s) 8 (s.getG o.d)
    ∧ StoresValue s (exec (.stw o) s) o.m (o.ea 4 s) 4 (s.getG o.d)
    ∧ StoresValue s (exec (.sth o) s) o.m (o.ea 2 s) 2 (s.getG o.d)
    ∧ StoresValue s (exec (.stb o) s) o.m (o.ea 1 s) 1 (s.getG o.d)

/-- An atomic of `n` bytes traps on a misaligned address, and with cause `window` on the control page (R361, R369). -/
def TrapsOffMemory (s : State) (r : Host.Outcome State Fault Refusal) (va : VAddr) (n : Nat) (window : Cause) : Prop :=
  (va.toNat % n ≠ 0 → Traps s r (causeN (0x038 + sizeCode n)) (va.setWidth 64) 0 false)
    ∧ ∀ l off, va.toNat % n = 0 → resolve s (s.party s.L) va .atomic = .ok l → l.home = .control off → Traps s r window 0 0 false

/-- What an atomic at the address in RS completes with, where no other reservation stands: `new` gives the value written, if one
is written; the old value reaches RD, zero-extended; no flag changes. -/
def Updates (s : State) (r : Host.Outcome State Fault Refusal) (d : GReg) (va : VAddr) (n : Nat)
    (new : Word → Option Nat) : Prop :=
  (∀ l, Reaches s va n .atomic l →
    (s.Inv → s.poisoned l.key n = false → s.me.rsv = none → HomesFree s → s.moves = [] → watchCheck s va true true = .ok () →
      let old := BitVec.ofNat 64 (leNat (memGets s.mem l.key n))
      Completes r fun t =>
        OnlyPlaneAndMemory s t ∧ s.plane.Receives s t l d old
          ∧ s.plane.flags t = s.plane.flags s ∧ s.plane.pc t = s.nextPc
          ∧ match new old with
            | some v => Stores s t l.key (leBytes n v)
            | none => t.mem = s.mem)
    ∧ (s.me.rsv ≠ none → Traps s r 0x0A4 0 0 false))
  ∧ TrapsOffMemory s r va n 0x0AD

/-- The AMO forms (R369), each with its op on the old value and y = RT; a misaligned address, the control page and a fibre that
holds a reservation trap (R361, R367). -/
def Obligations.AtomicsReadModifyWrite : Prop :=
  ∀ (s : State) (o : OpM3),
    let va : VAddr := (s.getG o.s).extractLsb' 0 56
    let y := s.getG o.t
    let x := s.getG o.d
    let amo (i : Instr) (n : Nat) (new : Word → Option Nat) : Prop := Updates s (exec i s) o.d va n new
    amo (.amoadd o) 8 (fun old => some (old + y).toNat)
    ∧ amo (.amoand o) 8 (fun old => some (old &&& y).toNat)
    ∧ amo (.amoor o) 8 (fun old => some (old ||| y).toNat)
    ∧ amo (.amoxor o) 8 (fun old => some (old ^^^ y).toNat)
    ∧ amo (.amomax o) 8 (fun old => some (if old.toInt < y.toInt then y else old).toNat)
    ∧ amo (.amomin o) 8 (fun old => some (if y.toInt < old.toInt then y else old).toNat)
    ∧ amo (.amoumax o) 8 (fun old => some (max old.toNat y.toNat))
    ∧ amo (.amoumin o) 8 (fun old => some (min old.toNat y.toNat))
    ∧ amo (.amoxchg o) 8 (fun _ => some y.toNat)
    ∧ amo (.amocas o) 8 (fun old => if old = x then some y.toNat else none)
    ∧ amo (.amoaddw o) 4 (fun old => some ((old.toNat + y.toNat) % 2 ^ 32))
    ∧ amo (.amocasw o) 4 (fun old => if old.toNat = x.toNat % 2 ^ 32 then some (y.toNat % 2 ^ 32) else none)

/-- The traps of an instruction on a wide accumulator cell before any of the cell is read: a misaligned address, a place that is
not in die store, and, for an atomic, a reservation held (R270, R367, R370). -/
def CellTraps (s : State) (r : Host.Outcome State Fault Refusal) (va : VAddr) (k : Kind) : Prop :=
  (va.toNat % 32 ≠ 0 → Traps s r 0x03E (va.setWidth 64) 0 false)
    ∧ ∀ l, va.toNat % 32 = 0 → resolve s (s.party s.L) va k = .ok l →
      ((∀ nc, l.home = .mapped nc → ¬ l.key < 8 * 0x10000000) → Traps s r 0x0A9 0 0 false)
        ∧ ∀ nc, k = .atomic → l.home = .mapped nc → l.key < 8 * 0x10000000 → s.me.rsv ≠ none → Traps s r 0x0A4 0 0 false

/-- FAMOADD on a word of mapped memory; ACCADD and ACCRD on a cell of die store whose reserved fields are zero (R370); and their traps: a
misaligned address, a place of another kind, a reservation held, and a reserved bit of ACCRD's operand word. -/
def Obligations.FloatingAtomicsAndCells : Prop :=
  (∀ (s : State) (o : OpM3) (l : Loc) (nc : Bool),
    let va : VAddr := (s.getG o.s).extractLsb' 0 56
    let old : BitVec 32 := BitVec.ofNat 32 (leNat (memGets s.mem l.key 4))
    let y : BitVec 32 := (s.getG o.t).setWidth 32
    let nan : Bool := (old == 0x7F800000 && y == 0xFF800000) || (old == 0xFF800000 && y == 0x7F800000)
    l.home = .mapped nc → s.Inv → (s.onShadow = false → s.here.hasFib s.fibre = true) → va.toNat % 4 = 0 → resolve s (s.party s.L) va .atomic = .ok l →
    s.poisoned l.key 4 = false → s.me.rsv = none → HomesFree s → s.moves = [] → watchCheck s va true true = .ok () →
    Completes (exec (.famoadd o) s) fun t =>
      OnlyPlaneAndMemory s t ∧ s.plane.Receives s t l o.d (old.setWidth 64) ∧ s.plane.pc t = s.nextPc
        ∧ s.plane.flags t = s.plane.flags s ||| (if nan then 0x400 else 0)
        ∧ Stores s t l.key (leBytes 4 (fadd32 old y).1.toNat))
  ∧ (∀ (s : State) (o : OpM3),
    let va : VAddr := (s.getG o.s).extractLsb' 0 56
    TrapsOffMemory s (exec (.famoadd o) s) va 4 0x0A8
      ∧ (∀ l, Reaches s va 4 .atomic l → (∀ nc, l.home ≠ .mapped nc) → Traps s (exec (.famoadd o) s) 0x0A8 0 0 false)
      ∧ ∀ l nc, Reaches s va 4 .atomic l → l.home = .mapped nc → s.me.rsv ≠ none → Traps s (exec (.famoadd o) s) 0x0A4 0 0 false)
  ∧ (∀ (s : State) (o : OpMst), CellTraps s (exec (.accadd o) s) ((s.getG o.s).extractLsb' 0 56) .atomic)
  ∧ (∀ (s : State) (o : OpM3) (l : Loc),
    let va : VAddr := (s.getG o.s).extractLsb' 0 56
    let r := exec (.accrd o) s
    ((s.getG o.t).toNat < 8 → CellTraps s r va .read)
      ∧ (va.toNat % 32 = 0 → resolve s (s.party s.L) va .read = .ok l → 8 ≤ (s.getG o.t).toNat → Traps s r 0x0AA 0 0 false))
  ∧ (∀ (s : State) (o : OpMst) (l : Loc) (nc : Bool) (anchor : Int) (c : Cell),
    let va : VAddr := (s.getG o.s).extractLsb' 0 56
    l.home = .mapped nc → l.key < 8 * 0x10000000 → s.Inv → va.toNat % 32 = 0 →
    resolve s (s.party s.L) va .atomic = .ok l →
    s.poisoned l.key 32 = false → s.me.rsv = none → HomesFree s → s.moves = [] → watchRange s va 32 true true = .ok () →
    cellOf (memGets s.mem l.key 32) = some (anchor, c) →
    Completes (exec (.accadd o) s) fun t =>
      OnlyPlaneAndMemory s t ∧ s.plane.Keeps s t ∧ s.plane.flags t = s.plane.flags s ∧ s.plane.pc t = s.nextPc
        ∧ Stores s t l.key (cellBytes anchor (c.add32 anchor ((s.getG o.t).setWidth 32))))
  ∧ ∀ (s : State) (o : OpM3) (l : Loc) (nc : Bool) (anchor : Int) (c : Cell),
    let va : VAddr := (s.getG o.s).extractLsb' 0 56
    let w := s.getG o.t
    let out := c.readout (s.core s.L) anchor (if w.getLsbD 0 then .bf16 else .fp32)
      { mode := if w.getLsbD 1 then 1 else 0, sat := w.getLsbD 2 }
    l.home = .mapped nc → l.key < 8 * 0x10000000 → va.toNat % 32 = 0 → w.toNat < 8 →
    resolve s (s.party s.L) va .read = .ok l →
    s.poisoned l.key 32 = false → watchRange s va 32 true false = .ok () → PortFree s →
    cellOf (s.view s.L l.key 32) = some (anchor, c) →
    Completes (exec (.accrd o) s) fun t =>
      OnlyPlane s t ∧ s.plane.Receives s t l o.d (BitVec.ofNat 64 out.1) ∧ s.plane.pc t = s.nextPc
        ∧ s.plane.flags t = (s.plane.flags s ||| out.2.bits) &&& flagsMask

/-- What LR and LRW complete with: a reservation of the granule that holds, and its value; and their traps: a misaligned address, the control
page, a fibre that holds a reservation, and the core's 16. -/
def Reserves (s : State) (r : Host.Outcome State Fault Refusal) (d : GReg) (va : VAddr) (word : Bool) : Prop :=
  let n := if word then 4 else 8
  TrapsOffMemory s r va n 0x0AD
  ∧ ∀ l, Reaches s va n .atomic l →
    (s.poisoned l.key n = false → s.me.rsv = none → s.rsvCount < 16 → HomesFree s → s.moves = [] → watchCheck s va true true = .ok () →
      Completes r fun t =>
        let x : Rsv := { addr := va, key := l.key, word }
        t.mem = s.mem ∧ t.heldWrites = [] ∧ (∃ g : Grant, t.grants = [g] ∧ g.granted = true ∧ g.op = none ∧ g.gran = l.key / 8 ∧ g.count = 1
            ∧ g.core = s.L ∧ g.fibre = s.fibre)
          ∧ (s.plane.fib t).rsv = some x ∧ (s.plane.fib t).last = some x ∧ (s.plane.fib t).lost = false
          ∧ s.plane.Receives s t l d (BitVec.ofNat 64 (leNat (s.view s.L l.key n)))
          ∧ s.plane.flags t = s.plane.flags s ∧ s.plane.pc t = s.nextPc ∧ OtherCores s t [s.L])
    ∧ (s.me.rsv ≠ none → Traps s r 0x0A4 0 0 false)
    ∧ (s.me.rsv = none → 16 ≤ s.rsvCount → Traps s r 0x0A5 0 0 false)

/-- What SC and SCW complete with: under the fibre's reservation of the address the store, its end, and 0; after a lost one no store and
1; without either, and under a reservation of another address or size, a trap. -/
def StoresConditionally (s : State) (r : Host.Outcome State Fault Refusal) (d : GReg) (va : VAddr) (word : Bool) (v : Word) : Prop :=
  let n := if word then 4 else 8
  TrapsOffMemory s r va n 0x0AD
  ∧ ∀ l, Reaches s va n .atomic l →
    (∀ key, s.me.rsv = some { addr := va, key, word } → s.Inv → HoldsAlone s (l.key / 8) → watchCheck s va true true = .ok () →
      Completes r fun t =>
        Stores s t l.key (leBytes n v.toNat) ∧ (s.plane.fib t).rsv = none ∧ t.grants = []
          ∧ s.plane.Writes s t 1 d 0 ∧ s.plane.flags t = s.plane.flags s ∧ s.plane.pc t = s.nextPc ∧ OtherCores s t [s.L])
    ∧ (s.me.rsv = none → s.me.lost = true →
        Completes r fun t =>
          t.mem = s.mem ∧ (s.plane.fib t).lost = false ∧ s.plane.Writes s t 1 d 1
            ∧ s.plane.flags t = s.plane.flags s ∧ s.plane.pc t = s.nextPc ∧ OtherCores s t [s.L])
    ∧ (s.me.rsv = none → s.me.lost = false → Traps s r 0x0A7 (va.setWidth 64) 0 false)
    ∧ (∀ x, s.me.rsv = some x → (x.addr ≠ va ∨ x.word ≠ word) → Traps s r 0x0A7 (va.setWidth 64) 0 false)

/-- LR and LRW take and hold a reservation and read; SC and SCW write under it and give 0, or after a lost one write nothing and
give 1; WRS releases it and waits for the granule's next write, gives the value when the wait has ended, reads plainly after a lost
one, and traps without either (R367). -/
def Obligations.ReservationsLoadStoreAndWait : Prop :=
  (∀ (s : State) (o : OpM2), Reserves s (exec (.lr o) s) o.d ((s.getG o.s).extractLsb' 0 56) false)
  ∧ (∀ (s : State) (o : OpM2), Reserves s (exec (.lrw o) s) o.d ((s.getG o.s).extractLsb' 0 56) true)
  ∧ (∀ (s : State) (o : OpM3), StoresConditionally s (exec (.sc o) s) o.d ((s.getG o.s).extractLsb' 0 56) false (s.getG o.t))
  ∧ (∀ (s : State) (o : OpM3), StoresConditionally s (exec (.scw o) s) o.d ((s.getG o.s).extractLsb' 0 56) true (s.getG o.t))
  ∧ (∀ (s : State) (o : OpM1) (r : Rsv), s.watches = [] → s.me.rsv = some r → HoldsAlone s (r.key / 8) →
    watchCheck s r.addr true false = .ok () →
    Completes (exec (.wrs o) s) fun t =>
      t.mem = s.mem ∧ (s.plane.fib t).rsv = none ∧ t.grants = []
        ∧ t.watches = [{ core := s.L, fibre := s.fibre, shadow := s.onShadow, key := r.key, size := r.size }]
        ∧ s.plane.Keeps s t ∧ s.plane.status t = .waiting .written ∧ s.plane.pc t = s.plane.pc s)
  ∧ (∀ (s : State) (o : OpM1) (w : Watch) (v : Word),
    s.watches = [w] → w.core = s.L → w.fibre = s.fibre → w.shadow = s.onShadow → w.target = none → w.done = some v →
    Completes (exec (.wrs o) s) fun t =>
      t.mem = s.mem ∧ t.watches = [] ∧ s.plane.Writes s t 1 o.r v ∧ s.plane.flags t = s.plane.flags s
        ∧ s.plane.pc t = s.nextPc ∧ OtherCores s t [s.L])
  ∧ (∀ (s : State) (o : OpM1) (r : Rsv) (l : Loc),
    s.watches = [] → s.me.rsv = none → s.me.lost = true → s.me.last = some r →
    resolve s (s.party s.L) r.addr .read = .ok l → s.poisoned l.key r.size = false → PortFree s → watchCheck s r.addr true false = .ok () →
    Completes (exec (.wrs o) s) fun t =>
      t.mem = s.mem ∧ (s.plane.fib t).lost = false
        ∧ s.plane.Receives s t l o.r (BitVec.ofNat 64 (leNat (s.view s.L l.key r.size)))
        ∧ s.plane.flags t = s.plane.flags s ∧ s.plane.pc t = s.nextPc ∧ OtherCores s t [s.L])
  ∧ ∀ (s : State) (o : OpM1), s.watches = [] → s.me.rsv = none → s.me.lost = false → Traps s (exec (.wrs o) s) 0x0A6 0 0 false

/-! ## System, fibre and task instructions -/

/-- NOP only goes on, and FENCE too, with the kinds whose earlier accesses are open kept for the port; YIELD leaves its slot, ready; SLEEP waits for a later cycle or gives the present one; HALT idles the
urgent fibre and enables delivery (R428, R432, R366). -/
def Obligations.PlainStepsAndFibreControl : Prop :=
  ∀ s : State,
    GoesTo s (exec .nop s) s.nextPc
    ∧ (∀ scope mask, Does s (exec (.fence scope mask) s) fun c => { c with fence := c.fence ||| s.fences s.L mask })
    ∧ (s.worker = true → Completes (exec .yield s) fun t =>
        OnlyPlane s t ∧ s.plane.Keeps s t ∧ s.plane.flags t = s.plane.flags s ∧ s.plane.pc t = s.nextPc
          ∧ s.plane.status t = .ready ∧ (s.plane.fib t).quantum = 0 ∧ (t.core s.L).slots = ((s.core s.L).freeSlot s.fibre).slots)
    ∧ (s.worker = false → Traps s (exec .yield s) 0x152 0 0 false)
    ∧ (∀ o : OpDS,
        let n := (s.getG o.s).toNat
        if s.now + 2 ^ 40 < n then Traps s (exec (.sleep o) s) 0x151 0 0 false
        else if s.now < n then Waits s (exec (.sleep o) s) (.cycle n)
        else GivesResult s (exec (.sleep o) s) 1 o.d (BitVec.ofNat 64 s.now))
    ∧ (if s.slot = 0 ∧ s.onShadow = false then
        Completes (exec .halt s) fun t =>
          OnlyCore s t ∧ (t.core s.L).idle = true ∧ (t.core s.L).uctl = (s.core s.L).uctl ||| 1
            ∧ s.plane.Keeps s t ∧ s.plane.flags t = s.plane.flags s ∧ s.plane.pc t = s.nextPc
       else Traps s (exec .halt s) 0x028 0 0 false)

/-- FSPAWN starts a fibre of the lowest free number at the entry in RS with a0 = RT, its other registers, flags and bindings zero, and gives
its number; it traps on a reserved bit, an odd entry, and a core that holds all the fibres it may, with the task's record if the fibre has
one. FEXIT ends its fibre, and traps outside a worker slot, in a task, and under a reservation (R433, R434). -/
def Obligations.FibresStartAndEnd : Prop :=
  (∀ (s : State) (o : OpDST),
    let e := s.getG o.s
    e.extractLsb' 58 6 = 0 → e.getLsbD 0 = false → s.here.fibres.length < fibreLimit s s.L → s.here.rqUse < 256 →
    s.here.hasFib s.fibre = true → s.here.fibres.length < 4094 →
    Completes (exec (.fspawn o) s) fun t => ∃ f, 2 ≤ f ∧ f < 4096 ∧ s.here.hasFib f = false
      ∧ (∀ g, 2 ≤ g → g < f → s.here.hasFib g = true)
      ∧ ((t.core s.L).fib f).pc = e.setWidth 56 ∧ ((t.core s.L).fib f).a = #v[s.getG o.t, 0, 0, 0, 0, 0, 0, 0]
      ∧ ((t.core s.L).fib f).flags = 0 ∧ ((t.core s.L).fib f).prio = e.extractLsb' 56 2
      ∧ ((t.core s.L).fib f).task = none ∧ ((t.core s.L).fib f).status = .ready
      ∧ ((t.core s.L).fib f).h = Vector.replicate 16 none
      ∧ ((t.core s.L).fib f).f = Vector.replicate 4 0 ∧ ((t.core s.L).fib f).c = Vector.replicate 4 0
      ∧ s.plane.Writes s t 1 o.d (BitVec.ofNat 64 f) ∧ s.plane.flags t = s.plane.flags s ∧ s.plane.pc t = s.nextPc
      ∧ OnlyCore s t ∧ ∀ g, g ≠ f → g ≠ s.fibre → (t.core s.L).fib g = (s.core s.L).fib g)
  ∧ (∀ (s : State) (o : OpDST),
    let e := s.getG o.s
    let r := exec (.fspawn o) s
    if e.extractLsb' 58 6 ≠ 0 then Traps s r 0x007 0 0 false
    else if e.getLsbD 0 = true then Traps s r 0x03C ((e.extractLsb' 0 56).setWidth 64) 0 false
    else fibreLimit s s.L ≤ s.here.fibres.length → Traps s r 0x10B ((s.me.task.getD 0).setWidth 64) 0 false)
  ∧ (∀ s : State, s.worker = true → s.me.task = none → s.me.rsv = none → s.grants = [] →
    Completes (exec .fexit s) fun t =>
      (t.core s.L).hasFib s.fibre = false ∧ t.mem = s.mem ∧ (∀ M, M ≠ s.L → t.core M = s.core M)
        ∧ ∀ g, g ≠ s.fibre → (t.core s.L).fib g = (s.core s.L).fib g)
  ∧ ∀ s : State,
    if s.worker = false then Traps s (exec .fexit s) 0x02A 0 0 false
    else if s.me.task ≠ none then Traps s (exec .fexit s) 0x02A 0 1 false
    else s.me.rsv ≠ none → Traps s (exec .fexit s) 0x10F 0 0 false

/-- A record's byte 63 with a new STATE, its other fields as they were (R136). -/
def withState (b : Byte) (n : Nat) : Byte := BitVec.ofNat 8 (b.toNat % 16 + n * 16 + b.toNat / 128 * 128)

/-- Of memory, a record's STATE alone has changed. -/
def WritesState (s t : State) (va : VAddr) (n : Nat) : Prop :=
  ∀ l, resolve s (noCore s.myCtx) (va + 63) .atomic = .ok l → Stores s t l.key [withState (memGet s.mem l.key) n]

/-- A task's fibre may retire it now: it owes nothing, no reservation stands, and no write waits at any home. -/
def Retires (s : State) (k : Task) : Prop :=
  s.Inv ∧ s.me.task = some k.recAddr ∧ s.here.task? k.recAddr = some k ∧ s.me.rsv = none ∧ taskPending s.here k = false
    ∧ k.retiring = none ∧ HomesFree s

/-- Memory after TASKDONE, where `m` is memory after the other steps of the retirement: the task's own record has STATE 4. -/
def Retired (s t : State) (k : Task) (m : List Host.Cell) : Prop :=
  ∀ l, resolve { s with mem := m } (noCore s.myCtx) (k.recAddr + 63) .atomic = .ok l →
    t.mem = memPuts m l.key [withState (memGet m l.key) 4]
/-- TASKPUSH of a fibre without a task places a record with STATE 2, or one with dependencies with STATE 1, and a task's push is held by
the task; TASKPOP takes an entry in the owner's order, with STATE 0, or gives 0; TASKDONE ends a task that owes nothing, with STATE 4, and
waits for one that does. It commits the task's slots, carries out its pushes, and decrements the counters of its dependents, the last
decrement of which releases a record to the core (R140, R143, R429–R431). That the dependents are those of the record as the task
read it at dispatch is log entry 11. -/
def Obligations.TasksArePushedPoppedAndRetired : Prop :=
  (∀ (s : State) (r : GReg) (x : TRec),
    let va : VAddr := (s.getG r).extractLsb' 0 56
    let q := s.here.dq x.prio
    checkRec s s.myCtx (s.party s.L) va false (some s.L) = .ok x → s.me.task = none → s.Inv → HomesFree s →
    watchRange s va 128 true false = .ok () →
    (x.depctr = 0 → q.length < 64 ∧ s.here.hw x.prio = q.length) →
    Completes (exec (.taskpush r) s) fun t =>
      s.plane.Keeps s t ∧ s.plane.flags t = s.plane.flags s ∧ s.plane.pc t = s.nextPc ∧ s.plane.status t = .waiting .access
        ∧ (t.core s.L).dq x.prio = (if x.depctr = 0 then { recAddr := va, prio := BitVec.ofNat 2 x.prio } :: q else q)
        ∧ WritesState s t va (if x.depctr = 0 then 2 else 1) ∧ OtherCores s t [s.L])
  ∧ (∀ (s : State) (r : GReg) (x : TRec) (k : Task) (a : VAddr),
    let va : VAddr := (s.getG r).extractLsb' 0 56
    checkRec s s.myCtx (s.party s.L) va false (some s.L) = .ok x → s.me.task = some a → s.here.task? a = some k → PortFree s →
    watchRange s va 128 true false = .ok () →
    if k.pushes.length < 32 then
      Completes (exec (.taskpush r) s) fun t =>
        s.plane.Keeps s t ∧ s.plane.flags t = s.plane.flags s ∧ s.plane.pc t = s.nextPc ∧ t.mem = s.mem
          ∧ ((t.core s.L).task? a).map (·.pushes) = some (k.pushes ++ [va]) ∧ OtherCores s t [s.L]
    else Traps s (exec (.taskpush r) s) 0x105 (va.setWidth 64) 0 false)
  ∧ (∀ (s : State) (o : OpDS), s.slot ≠ 0 → Traps s (exec (.taskpop o) s) 0x028 0 0 false)
  ∧ (∀ (s : State) (o : OpDS), s.slot = 0 →
    match popChoice s.here ((s.getG o.s).toNat % 4) with
    | none => GivesResult s (exec (.taskpop o) s) 1 o.d 0
    | some (p, _, e) =>
      s.Inv → HomesFree s → (∀ q, q < 4 → s.here.hw q = (s.here.dq q).length) → watchCheck s (e.recAddr + 63) false true = .ok () →
      Completes (exec (.taskpop o) s) fun t =>
        s.plane.Writes s t 1 o.d (e.recAddr.setWidth 64) ∧ s.plane.flags t = s.plane.flags s ∧ s.plane.pc t = s.nextPc
          ∧ (t.core s.L).deques = ((s.here.removeEntry p e.recAddr).ageAll).deques ∧ WritesState s t e.recAddr 0
          ∧ OtherCores s t [s.L])
  ∧ (∀ (s : State) (k : Task) (a : VAddr),
    s.me.task = some a → s.here.task? a = some k → k.retiring = none →
    (s.me.rsv ≠ none → Traps s (exec .taskdone s) 0x10F (k.recAddr.setWidth 64) 0 false)
    ∧ (s.me.rsv = none → taskPending s.here k = true → Waits s (exec .taskdone s) .retire))
  ∧ (∀ (s : State) (k : Task), Retires s k → k.holds = [] → k.pushes = [] → ({ raw := k.raw } : TRec).ndep = 0 →
    Completes (exec .taskdone s) fun t =>
      (t.core s.L).hasFib s.fibre = false ∧ (t.core s.L).task? k.recAddr = none ∧ WritesState s t k.recAddr 4 ∧ OtherCores s t [s.L])
  ∧ (∀ (s : State) (k : Task) (h : Hold), Retires s k → k.holds = [h] → k.pushes = [] → ({ raw := k.raw } : TRec).ndep = 0 →
    holdPoisoned s h = false →
    let r : Ring := ⟨h.core, h.desc⟩
    let m := memPuts s.mem (slotState s r h.slot.toNat + 25) [BitVec.ofNat 8 (slotHold s r h.slot.toNat - 1)]
    slotReady { s with mem := m } r (ringTail { s with mem := m } r) = false →
    Completes (exec .taskdone s) fun t =>
      (t.core s.L).hasFib s.fibre = false ∧ (t.core s.L).task? k.recAddr = none ∧ Retired s t k m)
  ∧ (∀ (s : State) (k : Task) (d : VAddr) (x : TRec), Retires s k → k.holds = [] → k.pushes = [d] → ({ raw := k.raw } : TRec).ndep = 0 →
    let q := s.here.dq x.prio
    readRec s s.myCtx d = .ok x → q.length < 64 → s.here.hw x.prio = q.length →
    ∀ l, resolve s (noCore s.myCtx) (d + 63) .atomic = .ok l →
    Completes (exec .taskdone s) fun t =>
      (t.core s.L).task? k.recAddr = none
        ∧ (t.core s.L).dq x.prio = (if x.depctr = 0 then { recAddr := d, prio := BitVec.ofNat 2 x.prio } :: q else q)
        ∧ Retired s t k (memPuts s.mem l.key [withState (memGet s.mem l.key) (if x.depctr = 0 then 2 else 1)]))
  ∧ (∀ (s : State) (k : Task) (x : TRec) (l : Loc), Retires s k → k.holds = [] → k.pushes = [] → ({ raw := k.raw } : TRec).ndep = 1 →
    let d : VAddr := (({ raw := k.raw } : TRec).dep 0).setWidth 56
    readRec s s.myCtx d = .ok x → resolve s (noCore s.myCtx) (d + 56) .atomic = .ok l →
    let m := memPuts s.mem l.key (leBytes 4 (x.depctr - 1))
    (2 ≤ x.depctr → Completes (exec .taskdone s) fun t => (t.core s.L).task? k.recAddr = none ∧ t.launches = s.launches.map
        (fun l => { l with tasks := l.tasks.filter (·.2 ≠ k.recAddr) }) ∧ Retired s t k m)
    ∧ (x.depctr = 0 → Completes (exec .taskdone s) fun t => (t.core s.L).task? k.recAddr = none ∧ Retired s t k s.mem
        ∧ ∀ i ∈ s.launches, k.launch = some i.id → ∃ j ∈ t.launches, j.id = i.id ∧ j.failed = i.failed + 1)
    ∧ (∀ y b, x.depctr = 1 → x.pfail = false → checkRec { s with mem := m } s.myCtx (s.engineOf s.L) d true = .ok y → y.depctr = 0 →
        let q := s.here.dq y.prio
        q.length < 64 → s.here.hw y.prio = q.length → resolve { s with mem := m } (noCore s.myCtx) (d + 63) .atomic = .ok b →
        Completes (exec .taskdone s) fun t => (t.core s.L).task? k.recAddr = none
          ∧ (t.core s.L).dq y.prio = { recAddr := d, prio := BitVec.ofNat 2 y.prio } :: q
          ∧ Retired s t k (memPuts m b.key [withState (memGet m b.key) 2])))
  ∧ ∀ s : State, s.me.task = none → Traps s (exec .taskdone s) 0x029 0 0 false

/-- TMSET sets, or stops, the core's timer and gives what was left of it; TMRD reads it; TIMER_EXPIRY sets the pending bit, counts an
overrun, and starts a periodic timer again (R435). -/
def Obligations.TheTimerCountsAndExpires : Prop :=
  (∀ (s : State) (o : OpDS),
    let x := s.getG o.s
    let n := x.toNat % 2 ^ 48
    s.slot = 0 → x.extractLsb' 48 15 = 0 → (x.msb = true → 64 ≤ n) →
    Completes (exec (.tmset o) s) fun t =>
      OnlyCore s t ∧ s.plane.Writes s t 1 o.d (timerLeft s s.L) ∧ s.plane.flags t = s.plane.flags s ∧ s.plane.pc t = s.nextPc
        ∧ if n = 0 then (t.core s.L).tmDeadline = 0
          else (t.core s.L).tmDeadline = BitVec.ofNat 64 (s.now + n) ∧ (t.core s.L).tmIntvl.toNat = n ∧ (t.core s.L).tmPer = x.msb)
  ∧ (∀ (s : State) (d : GReg),
    GivesResult s (exec (.tmrd d) s) 1 d ((if s.here.tmPer then 0x8000000000000000 else 0) ||| timerLeft s s.L))
  ∧ ∀ (s : State) (L : Fin 6144), s.ev = .timerExpiry L → (s.core L).tmDeadline ≠ 0 →
    (s.core L).tmDeadline.toNat ≤ s.cycleOf L →
    Completes (exec .timerExpiry s) fun t =>
      (t.core L).upTimer = true ∧ t = s.setCore L (t.core L)
        ∧ ((t.core L).tmDeadline = if (s.core L).tmPer then (s.core L).tmDeadline + (s.core L).tmIntvl.setWidth 64 else 0)
        ∧ ((t.core L).tmOvr = if (s.core L).upTimer = true ∧ (s.core L).tmOvr ≠ 255 then (s.core L).tmOvr + 1 else (s.core L).tmOvr)

/-- A read of a register of this number clears a field of it (R15). -/
def clearsOnRead (blk reg : Nat) : Bool :=
  (blk, reg) ∈ [(0, 41), (3, 0), (4, 26), (6, 1), (8, 4)]

/-- The bits that a write of a CORE_ register changes, and whose new value a read of it gives: for the registers whose write does
no more than that (R189, R188, R206, R300, R183, R180). -/
def plainBits (reg : Nat) : Option Word :=
  match reg with
  | 7 => some 0x1FF
  | 10 => some 0x1F
  | 11 | 31 => some 0x00FFFFFFFFFFFFFE
  | 12 => some 0x0FFFFFFFFFFFFFFE
  | 13 => some 0x70F
  | 30 => some 0x00FFFFFFFFFFFFFF
  | 44 | 45 => some 0xFFFFFFFFFFFFFFFF
  | _ => none

/-- SRR gives the value of any register of a valid number, of a CORE_ or CLU_ register in the next cycle and of any other, a DIE_ register
too, when it arrives, and clears the fields that a read clears; SRW writes a CORE_ register of a valid number that the fibre may write: the
registers of `plainBits` take their new value, of the others the frame alone is stated, and CORE_TACT, whose write resolves a trap, is left
to another statement; each checks the number first (R15, R437–R439). -/
def Obligations.SystemRegistersAreReadAndWritten : Prop :=
  (∀ (s : State) (o : OpDS),
    let n := s.getG o.s
    srCheck n = .ok () → (isTrapReg n = true → s.slot = 0) → (srBlk n = 0 ∧ srReg n = 46 → s.onShadow = true) →
    let v := regVal s s.myInst (srBlk n) (srReg n) (srIdx n)
    Completes (exec (.srr o) s) fun t =>
      t.mem = s.mem ∧ s.plane.flags t = s.plane.flags s ∧ s.plane.pc t = s.nextPc ∧ OtherCores s t [s.L]
        ∧ (if srBlk n < 2 then s.plane.Writes s t 1 o.d v
           else s.plane.Keeps s t ∧ s.plane.status t = .waiting .access
             ∧ (s.plane.pend t).map (fun x => (x.dst, x.value)) = some (some o.d, v))
        ∧ (if clearsOnRead (srBlk n) (srReg n) = false then OnlyPlane s t
           else if srBlk n = 0 then (t.core s.L).tmOvr = 0
           else if srBlk n = 3 then (t.port (srIdx n)).retry = 0
           else if srBlk n = 4 then (t.ctx s.myCtx).fqLost = 0
           else if srBlk n = 6 then t.nfCnt = 0
           else t.pwDrop = 0))
  ∧ (∀ (s : State) (o : OpDS),
    let n := s.getG o.s
    let reg := srReg n
    srCheck n = .ok () → srBlk n = 0 → (urgentReg n = true → s.slot = 0) →
    (reg = 30 ∨ reg = 31 → (s.cluster (clusterOf s.L)).dbgOwn = false) → (reg = 44 ∨ reg = 45 → s.me.task = none) →
    (reg = 5 → treeBusy s s.L = false) → (reg = 15 ∨ reg = 16 ∨ reg = 17 → tableUsed s.here false = false ∧ tableUsed s.here true = false) →
    reg ≠ 20 →
    Completes (exec (.srw o) s) fun t =>
      (∀ i, i < 8 → s.plane.a t i = s.plane.a s i) ∧ s.plane.flags t = s.plane.flags s ∧ s.plane.pc t = s.nextPc ∧ OtherCores s t [s.L]
        ∧ ∀ m, plainBits reg = some m → OnlyCore s t
            ∧ ∀ i, i < 64 → (coreReg t s.L s.myInst.who reg (srIdx n)).getLsbD i
                = if m.getLsbD i then (s.getG o.d).getLsbD i else (coreReg s s.L s.myInst.who reg (srIdx n)).getLsbD i)
  ∧ (∀ (s : State) (o : OpDS), srCheck (s.getG o.s) = trapA 0x020 0 →
    Traps s (exec (.srr o) s) 0x020 0 0 false ∧ Traps s (exec (.srw o) s) 0x020 0 0 false)
  ∧ (∀ (s : State) (o : OpDS), srCheck (s.getG o.s) = .ok () → srBlk (s.getG o.s) ≠ 0 → Traps s (exec (.srw o) s) 0x021 0 0 false)
  ∧ ∀ (s : State) (o : OpDS), srCheck (s.getG o.s) = .ok () → srBlk (s.getG o.s) = 0 → urgentReg (s.getG o.s) = true → s.slot ≠ 0 →
    Traps s (exec (.srw o) s) 0x022 0 0 false

/-- BRK and SWT take their traps, and the fibre parks at them; TRET returns from an urgent delivery; PMRET ends a PC-match handler;
HCALL parks its fibre with a record for the host (R440–R442, R189, R300). -/
def Obligations.TrapsAreTakenAndReturnedFrom : Prop :=
  (∀ s : State, Traps s (exec .brk s) 0x140 0 0 false ∧ ∀ n : Fin 8, Traps s (exec (.swt n) s) (causeN (0x148 + n.val)) 0 0 false)
  ∧ (∀ s : State, if s.slot = 0 ∧ s.onShadow = false then
      Completes (exec .tret s) fun t =>
        OnlyCore s t ∧ ((t.core s.L).fib 0).pc = (s.core s.L).uepc.extractLsb' 0 56 &&& ~~~1#56
          ∧ ((t.core s.L).fib 0).flags = (s.core s.L).uefl &&& flagsMask ∧ (t.core s.L).uctl = (s.core s.L).uctl ||| 1
          ∧ ((t.core s.L).idle = true ↔ (s.core s.L).idle = true ∨ (s.core s.L).uepc.getLsbD 56 = true)
          ∧ ((t.core s.L).fib 0).a = ((s.core s.L).fib 0).a
     else Traps s (exec .tret s) 0x00D 0 0 false)
  ∧ (∀ (s : State) (f : Nat), s.onShadow = true → s.here.handler = some f → s.here.matchQ = [] →
      (s.here.fib f).status = .matched →
      Completes (exec .pmret s) fun t =>
        OnlyCore s t ∧ (t.core s.L).handler = none ∧ ((t.core s.L).fib f).status = .ready
          ∧ ((t.core s.L).fib f).noMatch = true)
  ∧ (∀ s : State, s.onShadow = false → Traps s (exec .pmret s) 0x00C 0 0 false)
  ∧ ∀ (s : State) (o : OpDS), if (s.ctx s.myCtx).hcfg = true then
      (PortFree s → Traps s (exec (.hcall o) s) 0 (s.getG o.s) (s.getG o.d) false)
        ∧ ∀ w, writeGo s noGran true = .error (.wait w) → Waits s (exec (.hcall o) s) w
     else Traps s (exec (.hcall o) s) 0x02B 0 0 false

/-! ## Synchronisation -/

/-- The core that an identifier names, when it may be messaged. -/
def Names (s : State) (id : CoreId) : Prop := msgTarget s id = .ok ()

/-- A message of the issuing fibre is on its way with a body: to a core of the module, counted unless it is the sender's own, or out
of the module, counted as such. -/
def Sends (s t : State) (id : CoreId) (body : MsgBody) : Prop :=
  match s.localCore id with
  | some T => (∃ m : Msg, t.msgs = s.msgs ++ [m] ∧ m.body = body ∧ m.dst = id ∧ m.src = s.coreId s.L s.slot) ∧ t.outMsgs = s.outMsgs
      ∧ (t.core s.L).msgTx = (s.core s.L).msgTx + (if T = s.L then 0 else 1)
  | none => (∃ m : Msg, t.outMsgs = s.outMsgs ++ [m] ∧ m.body = body ∧ m.dst = id ∧ m.src = s.coreId s.L s.slot) ∧ t.msgs = s.msgs
      ∧ (t.core s.L).xmTx = (s.core s.L).xmTx + 1

/-- WAITGE binds a counter that has reached its target, and otherwise leaves a watch at its home and waits; a fibre that kept its slot
takes the value of the write that ended its wait; SIGINC and APPEND send messages; the modular test is
signed (R242, R243, R371–R373, R375). -/
def Obligations.CountersAndMessagesGoOut : Prop :=
  (∀ (s : State) (o : OpM2) (l : Loc),
    let va : VAddr := (s.getG o.s).extractLsb' 0 56
    let v : BitVec 32 := BitVec.ofNat 32 (leNat (s.view s.L l.key 4))
    let target : BitVec 32 := (s.getG o.d).setWidth 32
    Reaches s va 4 .read l → s.poisoned l.key 4 = false → watchCheck s va true false = .ok () → PortFree s →
    ((∀ w ∈ s.watches, w.armed s.L s.fibre s.onShadow true = false) →
      if 0 ≤ (v - target).toInt then
        Completes (exec (.waitge o) s) fun t =>
          OnlyPlane s t ∧ s.plane.Receives s t l o.d (v.setWidth 64) ∧ s.plane.flags t = s.plane.flags s ∧ s.plane.pc t = s.nextPc
      else Waits { s with watches := s.watches ++ [waitgeWatch s va l.key target] } (exec (.waitge o) s) (.counter l.key target))
    ∧ ∀ (w : Watch) (x : Word), s.watches = [w] → w.armed s.L s.fibre s.onShadow true = true → w.key = l.key → w.target = some target →
      w.done = some x → s.worker = false →
      Completes (exec (.waitge o) s) fun t =>
        OnlyPlane { s with watches := [] } t ∧ s.plane.Receives s t l o.d x ∧ s.plane.flags t = s.plane.flags s ∧ s.plane.pc t = s.nextPc)
  ∧ (∀ (s : State) (o : OpM2),
    let x := s.getG o.s
    let id : CoreId := x.extractLsb' 0 32
    Names s id → x.extractLsb' 50 14 = 0 → x.toNat / 2 ^ 32 % 4 = 0 → PortFree s →
    Completes (exec (.siginc o) s) fun t =>
      Sends s t id (.siginc (x.extractLsb' 32 18) ((s.getG o.d).setWidth 32)) ∧ s.plane.Keeps s t
        ∧ s.plane.flags t = s.plane.flags s ∧ s.plane.pc t = s.nextPc ∧ t.mem = s.mem)
  ∧ ∀ (s : State) (o : OpM3),
    let x := s.getG o.s
    let id : CoreId := x.extractLsb' 0 32
    let n := x.toNat / 2 ^ 32 % 16
    Names s id → x.extractLsb' 36 28 = 0 → 1 ≤ n → n ≤ 8 → regGroup o.t.val n = true → PortFree s →
    Completes (exec (.append o) s) fun t =>
      Sends s t id (.append ((List.range n).map fun i => s.getG (Fin.ofNat 40 (o.t.val + i)))) ∧ s.plane.Keeps s t
        ∧ s.plane.flags t = s.plane.flags s ∧ s.plane.pc t = s.nextPc ∧ s.plane.status t = .waiting .status
        ∧ (s.plane.pend t).map (·.dst) = some (some o.d) ∧ t.mem = s.mem

/-- RECV takes the inbox's oldest entry; TAGWAIT and TAGTEST read tags; MBPUT fills an empty mailbox, and MBTAKE, by the courier, empties
a full one (R376, R378, R379). -/
def Obligations.InboxTagsAndMailboxes : Prop :=
  (∀ (s : State) (o : OpM2),
    let k := inEntry s.here s.L s.here.inHead
    s.here.inEn = true → (o.d.val = 0 ∨ (8 ≤ o.d.val ∧ o.d.val ≤ 32)) → (o.s.val < o.d.val ∨ o.d.val + 7 < o.s.val) →
    s.here.inHead ≠ s.here.inTail → s.here.waiters .inbox = 0 → s.here.woken s.fibre s.onShadow .inbox = 0 → PortFree s →
    watchRange s (localVa (k - tcmKey s.L 0)) 69 true false = .ok () →
    Completes (exec (.recv o) s) fun t =>
      OnlyCore s t ∧ (t.core s.L).inHead = (s.core s.L).inHead + 1 ∧ s.plane.pc t = s.nextPc
        ∧ s.plane.flags t = s.plane.flags s
        ∧ (∀ i, i < 8 → s.plane.Holds t (o.d.val + i) (s.rd64 (k + 8 * i)))
        ∧ s.plane.Holds t o.s.val (BitVec.ofNat 64 (s.rd (k + 64) 4 + s.rd (k + 68) 1 * 2 ^ 32)))
  ∧ (∀ (s : State) (o : OpM2),
    let m := s.getG o.s
    if s.here.tags &&& m ≠ m then Waits s (exec (.tagwait o) s) (.tags m)
    else PortFree s → (∀ i, i < 64 → m.getLsbD i = true → tagTraps (s.here.tagStatus i) = false) →
      Completes (exec (.tagwait o) s) fun t =>
        OnlyPlane s t ∧ s.plane.flags t = s.plane.flags s ∧ s.plane.pc t = s.nextPc
          ∧ ∃ r : Word, s.plane.Writes s t 1 o.d r ∧ ∀ i, i < 64 → r.getLsbD i
              = (m.getLsbD i && ((s.here.tagStatus i).getLsbD 9 || (s.here.tagStatus i).getLsbD 10)))
  ∧ (∀ (s : State) (o : OpM2), GivesResult s (exec (.tagtest o) s) 1 o.d (s.here.tags &&& s.getG o.s))
  ∧ (∀ (s : State) (o : OpMQ), mailRegs o.r = true → s.slot ≠ 7 → (s.here.mb.get o.q).full = false →
    s.here.waiters (.mailboxEmpty o.q) = 0 → s.here.woken s.fibre s.onShadow (.mailboxEmpty o.q) = 0 →
    Completes (exec (.mbput o) s) fun t =>
      OnlyCore s t ∧ s.plane.Keeps s t ∧ s.plane.flags t = s.plane.flags s ∧ s.plane.pc t = s.nextPc
        ∧ ((t.core s.L).mb.get o.q).full = true ∧ ((t.core s.L).mb.get o.q).fibre = s.fibre
        ∧ ((t.core s.L).mb.get o.q).task = s.me.task
        ∧ (∀ i : Fin 8, ((t.core s.L).mb.get o.q).words.get i = s.getG (Fin.ofNat 40 (o.r.val + i.val)))
        ∧ ∀ q, q ≠ o.q → (t.core s.L).mb.get q = (s.core s.L).mb.get q)
  ∧ ∀ (s : State) (o : OpMQ), mailRegs o.r = true → s.slot = 7 → (s.here.mb.get o.q).full = true →
    Completes (exec (.mbtake o) s) fun t =>
      OnlyCore s t ∧ s.plane.pc t = s.nextPc ∧ s.plane.flags t = s.plane.flags s
        ∧ ((t.core s.L).mb.get o.q).full = false ∧ (t.core s.L).courierTask = (s.here.mb.get o.q).task
        ∧ (∀ i : Fin 8, s.plane.Holds t (o.r.val + i.val) ((s.here.mb.get o.q).words.get i))
        ∧ ∀ q, q ≠ o.q → (t.core s.L).mb.get q = (s.core s.L).mb.get q

/-- A barrier's descriptor as BARINIT takes it, inside the die and holding the core, of clusters of the context (R380). -/
def GoodRectangle (s : State) (w : Word) : Prop :=
  let n : Barrier := { desc := w.setWidth 21 }
  n.rows ≠ 0 ∧ n.cols ≠ 0 ∧ w.extractLsb' 21 43 = 0 ∧ n.row0 + n.rows ≤ 16 ∧ n.col0 + n.cols ≤ 48
    ∧ n.has (rowOf s.L) (colOf s.L) = true ∧ (n.clusters (dieOf s.L)).all (inCtx s (some s.myCtx)) = true

/-- BARINIT, BARARV and BARWAIT: the two generations of the barrier, the wait, and the traps; and the sweep of an arrival to the corner
and of the release back (R380, R381). -/
def Obligations.BarriersGatherAndRelease : Prop :=
  (∀ (s : State) (o : OpMQ), GoodRectangle s (s.getG o.r) →
    let b := s.here.bar.get o.q
    if b.ag = b.cg then
      Does s (exec (.barinit o) s) fun c =>
        { c with bar := c.bar.set o.q { b with desc := (s.getG o.r).setWidth 21, ag := 0, cg := 0, bad := false } }
    else Traps s (exec (.barinit o) s) 0x0C6 0 0 false)
  ∧ (∀ (s : State) (o : OpMQ1),
    let b := s.here.bar.get o.q
    if b.rows = 0 then Traps s (exec (.bararv o) s) 0x0C0 0 0 false
    else if b.ag = b.cg then
      PortFree s → Does s (exec (.bararv o) s) fun c => { c with bar := c.bar.set o.q { b with ag := b.ag + 1, sent := false } }
    else Traps s (exec (.bararv o) s) 0x0CA 0 0 false)
  ∧ (∀ (s : State) (o : OpMQ),
    let b := s.here.bar.get o.q
    if b.rows = 0 then Traps s (exec (.barwait o) s) 0x0C0 0 0 false
    else if b.cg ≠ b.ag then Waits s (exec (.barwait o) s) (.barrier o.q)
    else PortFree s → if b.bad = true then Traps s (exec (.barwait o) s) 0x0C3 0 0 false
    else GivesResult s (exec (.barwait o) s) 1 o.r (b.cg.setWidth 64))
  ∧ (∀ (s : State) (L : Fin 6144) (q : QReg),
    let b := (s.core L).bar.get q
    let differs (a : Option (BitVec 21 × Bool)) : Bool := a.any fun x => x.1 != b.desc || x.2
    let mark := differs b.east || differs b.south
    s.ev = .barrierArrivalHop L q → b.ready (rowOf L) (colOf L) = true →
    Completes (exec .barrierArrivalHop s) fun t =>
      ((t.core L).bar.get q).sent = true ∧ ((t.core L).bar.get q).ag = b.ag ∧ t.mem = s.mem
        ∧ if colOf L ≠ b.col0 then
            ((t.core (L.val - 1)).bar.get q).east = some (b.desc, mark) ∧ OtherCores s t [L.val, L.val - 1]
          else if rowOf L ≠ b.row0 then
            ((t.core (L.val - 48)).bar.get q).south = some (b.desc, mark) ∧ OtherCores s t [L.val, L.val - 48]
          else
            ((t.core L).bar.get q).cg = b.ag ∧ ((t.core L).bar.get q).bad = mark
              ∧ (b.east.isSome = true → ((t.core (L.val + 1)).bar.get q).rel = some mark)
              ∧ (b.south.isSome = true → ((t.core (L.val + 48)).bar.get q).rel = some mark)
              ∧ OtherCores s t [L.val, L.val + 1, L.val + 48])
  ∧ ∀ (s : State) (L : Fin 6144) (q : QReg) (m : Bool),
    let b := (s.core L).bar.get q
    s.ev = .barrierReleaseHop L q → b.rel = some m →
    Completes (exec .barrierReleaseHop s) fun t =>
      ((t.core L).bar.get q).cg = b.ag ∧ ((t.core L).bar.get q).bad = m ∧ ((t.core L).bar.get q).rel = none
        ∧ (b.tookE = true → ((t.core (L.val + 1)).bar.get q).rel = some m)
        ∧ (b.tookS = true → ((t.core (L.val + 48)).bar.get q).rel = some m) ∧ OtherCores s t [L.val, L.val + 1, L.val + 48] ∧ t.mem = s.mem

/-- LOCK holds a line of a cached page where a way is free, and says why not otherwise; UNLOCK gives it up; TRPUT contributes a word to
the core's round, or queues it, and TRGET takes a result (R382, R421, R67–R71). That TRPUT tests a reserved bit (0x0E9) before JOIN (0x0EF), and
that a further contribution stands in TREE_IN, are the model's choice (log entry 13). -/
def Obligations.LinesAreLockedAndTheTreeIsFed : Prop :=
  (∀ (s : State) (o : OpM2) (l : Loc) (st : Nat),
    let va : VAddr := (s.getG o.s).extractLsb' 0 56
    va.toNat / 2 ^ 48 < 0xFD → resolve s (s.party s.L) va .read = .ok l → l.home = .mapped false →
    (lockOutcome s s.L l.key = (st, none) → GivesResult s (exec (.lock o) s) 1 o.d (BitVec.ofNat 64 st))
    ∧ ∀ m, lockOutcome s s.L l.key = (st, some m) →
      Completes (exec (.lock o) s) fun t =>
        st = 0 ∧ (t.core m).locks.contains (l.key / 64) = true ∧ s.plane.Receives s t l o.d 0
          ∧ s.plane.flags t = s.plane.flags s ∧ s.plane.pc t = s.nextPc ∧ OtherCores s t [m, s.L] ∧ t.mem = s.mem)
  ∧ (∀ (s : State) (o : OpM2) (l : Loc),
    let va : VAddr := (s.getG o.s).extractLsb' 0 56
    0xFD ≤ va.toNat / 2 ^ 48 ∨ (resolve s (s.party s.L) va .read = .ok l ∧ l.home = .mapped true) →
    GivesResult s (exec (.lock o) s) 1 o.d 3)
  ∧ (∀ (s : State) (o : OpM1) (l : Loc),
    let va : VAddr := (s.getG o.r).extractLsb' 0 56
    if 0xFD ≤ va.toNat / 2 ^ 48 then GoesTo s (exec (.unlock o) s) s.nextPc
    else resolve s (s.party s.L) va .read = .ok l →
      Completes (exec (.unlock o) s) fun t =>
        (t.core (lockCore s s.L l.key)).locks.contains (l.key / 64) = false ∧ GoesOn s t ∧ t.mem = s.mem
          ∧ OtherCores s t [lockCore s s.L l.key, s.L])
  ∧ (∀ (s : State) (o : OpM1),
    let w := s.getG o.r
    PortFree s → if treeReserved w = true then Traps s (exec (.trput o) s) 0x0E9 0 0 false
    else if s.here.treeJoin = false then Traps s (exec (.trput o) s) 0x0EF 0 0 false
    else if s.here.treeIn = [] ∧ canEnter s s.myCtx s.L = true then
      Completes (exec (.trput o) s) fun t =>
        GoesOn s t ∧ t.mem = s.mem ∧ ∃ r rest, (t.ctx s.myCtx).rounds = r :: rest ∧ spHas r.words s.L = true ∧ spGet r.words s.L 0 = w
          ∧ (∀ x rest, (s.ctx s.myCtx).rounds = x :: rest → r.seq = x.seq ∧ r.members = x.members)
          ∧ ((s.ctx s.myCtx).rounds = [] → r.seq = (s.ctx s.myCtx).nextRound ∧ r.members = treeMembers s s.myCtx)
    else if s.here.treeIn.length < 4 then Does s (exec (.trput o) s) fun c => { c with treeIn := c.treeIn ++ [w] }
    else Waits s (exec (.trput o) s) .treeIn)
  ∧ ∀ (s : State) (o : OpM1), PortFree s →
    match s.here.treeOut with
    | [] => Waits s (exec (.trget o) s) .treeOut
    | e :: r =>
      if e.cause = 0 then
        Completes (exec (.trget o) s) fun t =>
          OnlyCore s t ∧ (t.core s.L).treeOut = r ∧ s.plane.Writes s t loadLat o.r e.word
            ∧ s.plane.flags t = s.plane.flags s ∧ s.plane.pc t = s.nextPc
      else restarts e.cause = false → Traps s (exec (.trget o) s) e.cause 0 0 false

/-! ## Rings and books -/

/-- The issuing fibre's handle names a valid descriptor. -/
def Bound (s : State) (h : HReg) (r : Ring) : Prop := ringOf s s.L s.fibre h = .ok r ∧ ringValid s r = true

/-- RBIND binds a handle to a valid descriptor, and RUNBIND ends a binding that nothing holds; a handle that is not bound traps; AWAITF and
AWAITE wait for filled and free slots; RSTAT reads (R195, R422, R423). While a paused engine instruction names its descriptor, each waits
(R386, R412), and while the core's own writes to the ring wait at their home, RBIND waits for them (R232): when a ring instruction reads
the descriptor in the port's order is the model's choice (log entry 7). -/
def Obligations.RingsAreBoundAwaitedAndRead : Prop :=
  (∀ (s : State) (o : OpHG),
    let v := s.getG o.s
    (PortFree s →
      if v.toNat % 64 = 0 ∧ v.toNat < 2 ^ 18 ∧ ringValid s ⟨s.L, v.toNat⟩ = true then
        Does s (exec (.rbind o) s) fun c => c.modFib s.fibre fun f => { f with h := f.h.set o.h (some (v.extractLsb' 6 12)) }
      else Traps s (exec (.rbind o) s) 0x070 v (BitVec.ofNat 64 o.h.val) false)
    ∧ ∀ w, v.toNat % 64 = 0 → v.toNat < 2 ^ 18 → ringHome s ⟨s.L, v.toNat⟩ = .error (.wait w) → Waits s (exec (.rbind o) s) w)
  ∧ (∀ (s : State) (o : OpHG) (u : OpH), s.me.h.get o.h = none → s.me.h.get u.h = none →
    Traps s (exec (.runbind u) s) 0x071 0 (BitVec.ofNat 64 u.h.val) false
      ∧ Traps s (exec (.awaitf o) s) 0x071 0 (BitVec.ofNat 64 o.h.val) false
      ∧ Traps s (exec (.awaite o) s) 0x071 0 (BitVec.ofNat 64 o.h.val) false
      ∧ Traps s (exec (.advh o) s) 0x071 0 (BitVec.ofNat 64 o.h.val) false
      ∧ Traps s (exec (.advt o) s) 0x071 0 (BitVec.ofNat 64 o.h.val) false
      ∧ Traps s (exec (.rstat o) s) 0x071 0 (BitVec.ofNat 64 o.h.val) false)
  ∧ (∀ (s : State) (u : OpH) (r : Ring), Bound s u.h r →
    if holdsRing s r = true then Traps s (exec (.runbind u) s) 0x07D (BitVec.ofNat 64 r.off) (BitVec.ofNat 64 u.h.val) false
    else if (s.here.vecPaused ++ s.here.matPaused).any (fun p => p.fibre == s.fibre && p.descs.contains r.off) = true then
      Traps s (exec (.runbind u) s) 0x07E (BitVec.ofNat 64 r.off) (BitVec.ofNat 64 u.h.val) false
    else Does s (exec (.runbind u) s) fun c => c.modFib s.fibre fun f => { f with h := f.h.set u.h none })
  ∧ (∀ (s : State) (o : OpHG) (r : Ring), Bound s o.h r → PortFree s → s.here.opNames r.off = true →
    Waits s (exec (.awaitf o) s) (.paused r.off) ∧ Waits s (exec (.awaite o) s) (.paused r.off) ∧ Waits s (exec (.advh o) s) (.paused r.off)
      ∧ Waits s (exec (.advt o) s) (.paused r.off) ∧ Waits s (exec (.rstat o) s) (.paused r.off))
  ∧ (∀ (s : State) (o : OpHG) (r : Ring), Bound s o.h r → PortFree s → s.here.opNames r.off = false →
    let k := (s.getG o.s).toNat
    if k = 0 ∨ ringSlots s r < k then
      Traps s (exec (.awaitf o) s) 0x07A (BitVec.ofNat 64 r.off) (BitVec.ofNat 64 o.h.val) false
        ∧ Traps s (exec (.awaite o) s) 0x07A (BitVec.ofNat 64 r.off) (BitVec.ofNat 64 o.h.val) false
    else HomesFree s →
      (if ringFilled s r < k then Waits s (exec (.awaitf o) s) (.ringFilled r.off k) else GoesTo s (exec (.awaitf o) s) s.nextPc)
        ∧ match prodIndex s r s.myId with
          | none => Traps s (exec (.awaite o) s) 0x073 (BitVec.ofNat 64 r.off) (BitVec.ofNat 64 o.h.val) false
          | some n =>
            if freeSlots s r n < k then Waits s (exec (.awaite o) s) (.ringFree r.off k)
            else GoesTo s (exec (.awaite o) s) s.nextPc)
  ∧ ∀ (s : State) (o : OpHG) (r : Ring), Bound s o.h r → PortFree s → s.here.opNames r.off = false →
    ∃ v : Word, GivesResult s (exec (.rstat o) s) loadLat o.s v
      ∧ (v.extractLsb' 0 32).toNat = ringFilled s r
      ∧ (v.extractLsb' 32 9).toNat = (match prodIndex s r s.myId with | some n => freeSlots s r n | none => 0)
      ∧ v.getLsbD 41 = (prodIndex s r s.myId).isSome
      ∧ v.getLsbD 42 = (ringFilled s r != 0 && slotPois s r (ringHead s r))
      ∧ (v.extractLsb' 43 8).toNat = ringLayout s r ∧ v.getLsbD 51 = ringStrict s r ∧ v.extractLsb' 52 12 = 0

/-- ADVH pops slots: HEAD rises, their state entries are zero, and no other byte of memory changes. ADVT credits the producer's bytes so that
its cursor passes the slots, and traps where they are not free; for a task's fibre, the slot is held by the task, whose 65th record traps
(R198). ADVT with T = 1 sends the credit to another core (R197–R199, R423). That HOLD stays at 255 for a 256th task, and that the records a
task holds on other modules count as these last reported them, are the model's choice (log entry 19). -/
def Obligations.RingsAreAdvanced : Prop :=
  (∀ (s : State) (o : OpHG) (r : Ring), Bound s o.h r → s.Inv → HomesFree s → s.here.opNames r.off = false →
    let k := (s.getG o.s).toNat
    1 ≤ k → k ≤ ringSlots s r →
    if ringFilled s r < k then Traps s (exec (.advh o) s) 0x076 (BitVec.ofNat 64 r.off) (BitVec.ofNat 64 o.h.val) false
    else Completes (exec (.advh o) s) fun t =>
      GoesOn s t ∧ ringHead t r = (ringHead s r + k) % 2 ^ 32 ∧ ringTail t r = ringTail s r
        ∧ (∀ i, i < k → memGets t.mem (slotState s r (ringHead s r + i)) 32 = List.replicate 32 0)
        ∧ ∀ a, ¬(r.key + 8 ≤ a ∧ a < r.key + 12) →
          (∀ i, i < k → ¬(slotState s r (ringHead s r + i) ≤ a ∧ a < slotState s r (ringHead s r + i) + 32)) →
          memGet t.mem a = memGet s.mem a)
  ∧ (∀ (s : State) (o : OpHG) (r : Ring) (n : Nat), Bound s o.h r → s.Inv → HomesFree s → s.here.opNames r.off = false →
    prodIndex s r s.myId = some n → s.me.task = none →
    let k := (s.getG o.s).toNat
    1 ≤ k → k ≤ ringSlots s r →
    (∀ j, cursor s r n < j → j < ringSlots s r → slotCnt s r (ringHead s r + j) n = 0) →
    if freeSlots s r n < k then Traps s (exec (.advt o) s) 0x074 (BitVec.ofNat 64 r.off) (BitVec.ofNat 64 o.h.val) false
    else Completes (exec (.advt o) s) fun t =>
      GoesOn s t ∧ ringHead t r = ringHead s r ∧ cursor t r n = cursor s r n + k
        ∧ ∀ j m, j < ringSlots s r → m < 8 → m ≠ n → slotCnt t r (ringHead s r + j) m = slotCnt s r (ringHead s r + j) m)
  ∧ (∀ (s : State) (o : OpHG) (r : Ring) (n : Nat) (a : VAddr) (k : Task), Bound s o.h r → s.Inv → HomesFree s → s.here.opNames r.off = false →
    prodIndex s r s.myId = some n → s.me.task = some a → s.here.task? a = some k → s.getG o.s = 1 → freeSlots s r n ≠ 0 →
    let i := ringHead s r + cursor s r n
    let b := ringShare s r - slotCnt s r i n
    let held := holdsSlot k r i
    if 64 < k.holds.length + k.heldAway + (if held then 0 else 1) then
      Traps s (exec (.advt o) s) 0x075 (BitVec.ofNat 64 r.off) (BitVec.ofNat 64 o.h.val) false
    else Completes (exec (.advt o) s) fun t =>
      GoesOn s t ∧ slotCnt t r i n = ringShare s r ∧ slotHold t r i = (if held then slotHold s r i else min 255 (slotHold s r i + 1))
        ∧ (held = false → ((t.core s.L).task? a).map (·.holds)
            = some (k.holds ++ [{ core := s.L, desc := r.off, slot := BitVec.ofNat 32 i, n, bytes := b }])))
  ∧ ∀ (s : State) (o : OpAdvtR),
    let x := s.getG o.t
    let id : CoreId := x.extractLsb' 0 32
    let off := x.extractLsb' 32 18
    if x.extractLsb' 50 14 ≠ 0 ∨ off.toNat % 64 ≠ 0 then Traps s (exec (.advtRemote o) s) 0x07C (off.setWidth 64) 0 false
    else if idCore id = idCore (s.coreId s.L s.slot) then Traps s (exec (.advtRemote o) s) 0x07B (off.setWidth 64) 0 false
    else Names s id → PortFree s →
      Completes (exec (.advtRemote o) s) fun t =>
        Sends s t id (.credit off (s.getG o.s).toNat s.me.task false (s.heldBeside (s.me.task.map fun a => (s.L, a)) id))
          ∧ GoesOn s t ∧ t.mem = s.mem

/-- The book of a die after GO, and after PAUSE (R164). -/
def afterGo (b : Book) : Book :=
  if b.state = .ready ∨ (b.state = .held ∧ b.ckhold = false) then { b with state := .run }
  else if b.state = .held then { b with ckgo := true } else b
def afterPause (b : Book) : Book :=
  if b.state = .run then { b with state := .held } else if b.state = .held ∧ b.ckhold = true then { b with ckgo := false } else b

/-- What BKGO and BKPAUSE complete with: the book of the core's die takes the command. -/
def CommandsBook (s : State) (r : Host.Outcome State Fault Refusal) (g : Book → Book) : Prop :=
  let d := dieOf s.L
  if (s.die d).book.state = .empty then Traps s r 0x0F8 0 0 false
  else if (s.die d).book.ctx.toNat ≠ s.myCtx then Traps s r 0x0F7 0 0 false
  else Completes r fun t =>
    GoesOn s t ∧ t.mem = s.mem ∧ t.die d = { s.die d with book := g (s.die d).book } ∧ ∀ e, e ≠ d → t.die e = s.die e

/-- BKINFO and BKSTEP give the entry and the step of a book task, and trap in any other; BKGO and BKPAUSE command the book of the core's
die, and trap where it is empty or another context's (R164, R425, R426). -/
def Obligations.BookInstructionsReadAndCommand : Prop :=
  (∀ (s : State) (d : GReg), s.bookTask = none →
    Traps s (exec (.bkinfo d) s) 0x0F9 0 0 false ∧ Traps s (exec (.bkstep d) s) 0x0F9 0 0 false)
  ∧ (∀ (s : State) (d : GReg) (b : BookTask), s.bookTask = some b →
    GivesResult s (exec (.bkstep d) s) 1 d (b.step.setWidth 64)
    ∧ ∃ v : Word, GivesResult s (exec (.bkinfo d) s) 1 d v
      ∧ v.extractLsb' 0 10 = b.entry ∧ v.extractLsb' 10 2 = b.kind ∧ v.extractLsb' 12 6 = b.slot ∧ v.extractLsb' 18 8 = b.stage
      ∧ v.extractLsb' 26 16 = b.mb ∧ v.extractLsb' 42 3 = b.die ∧ v.extractLsb' 45 19 = 0)
  ∧ (∀ s : State, s.L < 6144 → CommandsBook s (exec .bkgo s) afterGo)
  ∧ ∀ s : State, s.L < 6144 → CommandsBook s (exec .bkpause s) afterPause

/-! ## Engines -/

/-- An instruction starts in its engine: its fibre waits while it runs, in its slot unless it leaves it, with its PC and its registers
as they were; its writes take their place in the core's port, and its stores into other cores leave as messages; nothing else changes
before it finishes (R232, R365, R386, R412). That its writes stand in the port from its issue on, and that its messages leave then, are the
model's choice (log entry 21). -/
def EngineStarts (s : State) (r : Host.Outcome State Fault Refusal) (matrix : Bool) (op : EngineOp) (away : Bool) : Prop :=
  let o : EngineOp := { op with id := s.nextId }
  let c : Core := { s.core s.L with msgTx := (s.core s.L).msgTx + BitVec.ofNat 64 op.sends.length }
  Completes r fun t =>
    t = { s.setCore s.L (t.core s.L) with heldWrites := s.heldWrites ++ o.waiting s.L, msgs := t.msgs, nextId := s.nextId + 1 + op.sends.length }
      ∧ t.msgs.take s.msgs.length = s.msgs
      ∧ (t.msgs.drop s.msgs.length).map (·.body) = op.sends.map (fun x => .store x.2.1 x.2.2.1 x.2.2.2)
      ∧ CoreFrame s.plane (if matrix then { c with mat := some o } else { c with vec := some o }) (t.core s.L)
      ∧ s.plane.Keeps s t ∧ s.plane.flags t = s.plane.flags s ∧ s.plane.pc t = s.plane.pc s
      ∧ s.plane.status t = .waiting .running
      ∧ (t.core s.L).slots = if away && s.worker then ((s.core s.L).freeSlot s.fibre).slots else (s.core s.L).slots

/-- What a vector form does. When the checks of R387 pass, it starts: with a poisoned source as the operation that writes nothing and
poisons (R388), else with its result, where the checks of step 10 pass too. A failed check traps, and an operand that is not there
waits. -/
def StartsVector (s : State) (i : Instr) (m : AMod) (F : VForm) (scale : Option Bool) (cls : Fmt → Fmt → Option Cause)
    (step8 : VIn → Chk Unit) (len : VIn → Nat) (comp : VIn → Chk VRes) : Prop :=
  (∀ p, vplan s m F scale cls step8 len = .ok p →
    if p.poisoned = true then EngineStarts s (exec i s) false p.poison false
    else (∀ res, comp p.v = .ok res → EngineStarts s (exec i s) false (p.start F res) res.away)
      ∧ ∀ c a x, comp p.v = .error (.trap c a x false) → restarts c = false → Traps s (exec i s) c a x false)
  ∧ (∀ c a x, vplan s m F scale cls step8 len = .error (.trap c a x false) → restarts c = false → Traps s (exec i s) c a x false)
  ∧ ∀ w, vplan s m F scale cls step8 len = .error (.wait w) → Waits s (exec i s) w

/-- The forms that compute each element from the elements of their sources, over formats of a class (R391–R394). -/
def StartsElementwise (s : State) (i : Instr) (m : AMod) (F : VForm) (cls : Fmt → Bool)
    (f : VIn → Nat → Nat → Nat → Nat → Nat × Sticky) : Prop :=
  StartsVector s i m F none (clsIs cls) sameCount len1 fun v => .ok (eachElt F.srcs.length f v)

/-- One rounding of an exact value into the first descriptor's format, with the sticky flags of the operation. -/
def rounded (m : AMod) (op : (Nat → Val) → Val × Sticky) (v : VIn) (i : Nat) : Nat × Sticky :=
  let r := op (decodeElt v.core v.d1.fmt)
  let c := encodeVal v.core v.d1.fmt (v.rnd m v.d1 i) r.1
  (c.1, r.2.or c.2)

/-- The table entry nearest to a / b: no other integer is nearer. -/
def NearestTo (n a b : Nat) : Prop := 2 * n * b ≤ 2 * a + b ∧ 2 * a ≤ 2 * n * b + b

/-- The tables ET, RT, RS and RQ (R271): ET[i] = rne(2^(30 + i/64)), by 64th powers; RT[i] = rne(2^36 / (64 + i)); RS[i] = rne(2^38 /
(129 + 2i)); RQ[i] = rne(2^34 / sqrt((65 + 2 (i mod 32)) × 2^(i div 32))), by squares. -/
def TablesAreNearest : Prop :=
  ∀ i, i < 64 →
    ((2 * tab etTab i - 1) ^ 64 ≤ 2 ^ (1984 + i) ∧ 2 ^ (1984 + i) ≤ (2 * tab etTab i + 1) ^ 64)
    ∧ NearestTo (tab rtTab i) (2 ^ 36) (64 + i)
    ∧ NearestTo (tab rsTab i) (2 ^ 38) (129 + 2 * i)
    ∧ (let w := (65 + 2 * (i % 32)) * 2 ^ (i / 32)
       (2 * tab rqTab i - 1) ^ 2 * w ≤ 2 ^ 70 ∧ 2 ^ 70 ≤ (2 * tab rqTab i + 1) ^ 2 * w)

/-- R272's steps from X = rne(x × 2^24). -/
def exp2Steps (X : Int) : BitVec 32 :=
  let f := (X % 2 ^ 24).toNat
  let t1 := f % 2 ^ 18 * 744261118 / 2 ^ 24
  let t2 := t1 * t1 / 2 ^ 31
  fp32Rne ((tab etTab (f / 2 ^ 18) * (2 ^ 30 + t1 + t2 + t2 * t1 / (3 * 2 ^ 30)) / 2 ^ 30 : Nat) : Int) (X / 2 ^ 24 - 30)

/-- R273's steps on x = M × 2^(e − 23). -/
def log2Steps (e : Int) (M : Nat) : BitVec 32 :=
  let i := (M - 2 ^ 23) / 2 ^ 17
  let u : Int := ((M * tab rtTab i / 2 ^ 23 : Nat) : Int) - 2 ^ 30
  let u2 := u * u / 2 ^ 31
  fp32Rne (e * 2 ^ 30 + tab ltTab i + (u - u2 + u2 * u / (3 * 2 ^ 29) - u2 * u2 / 2 ^ 30) * 1549082005 / 2 ^ 30) (-30)

/-- R274's steps of the reciprocal: y after two Newton steps. -/
def rcpSteps (M : Nat) : Int :=
  let step (y : Int) : Int := y * (2 ^ 32 - M * y / 2 ^ 23) / 2 ^ 31
  step (step (tab rsTab ((M - 2 ^ 23) / 2 ^ 17)))

/-- R274's steps of the reciprocal square root, on W = M × 2^p. -/
def rsqSteps (M p : Nat) : Int :=
  let step (y : Int) : Int := y * (3 * 2 ^ 31 - M * 2 ^ p * (y * y / 2 ^ 31) / 2 ^ 23) / 2 ^ 32
  step (step (tab rqTab (p * 32 + (M - 2 ^ 23) / 2 ^ 18)))

/-- The special functions on an FP32 value, with NV where the value is 0x7FC0_0005 (R272–R274, R402). -/
def SpecialValues (x : BitVec 32) : Prop :=
  let bad : BitVec 32 × Sticky := (0x7FC00005, { nv := true })
  match of32 x with
  | .nan _ => vexp2 x = (x, {}) ∧ vlog2 x = (x, {}) ∧ vrcp x = (x, {}) ∧ vrsq x = (x, {})
  | .inf true => vexp2 x = (0, {}) ∧ vlog2 x = bad ∧ vrcp x = (0x80000000, {}) ∧ vrsq x = bad
  | .inf false => vexp2 x = (0x7F800000, {}) ∧ vlog2 x = (0x7F800000, {}) ∧ vrcp x = (0, {}) ∧ vrsq x = (0, {})
  | .fin neg m e =>
    (vexp2 x = if (of32 x).cmp (.fin false 128 0) ≠ .lt then (0x7F800000, {}) else if (of32 x).cmp (.fin true 151 0) ≠ .gt then (0, {})
      else (exp2Steps (rneInt neg m (e + 24)), {}))
    ∧ if m = 0 then
        vlog2 x = (0xFF800000, {}) ∧ vrcp x = (if neg then 0xFF800000 else 0x7F800000, {})
          ∧ vrsq x = (if neg then 0xFF800000 else 0x7F800000, {})
      else
        let k := (normal24 m e).1
        let M := (normal24 m e).2
        let p := (k % 2).toNat
        vrcp x = (to32 (.fin neg (rcpSteps M).toNat (-31 - k)), {})
          ∧ if neg then vlog2 x = bad ∧ vrsq x = bad
            else vlog2 x = (log2Steps k M, {}) ∧ vrsq x = (fp32Rne (rsqSteps M p) (-31 - (k - p) / 2), {})

/-- The float forms: each element is the exact result of its operands, rounded once (R391, R392). The special functions give the values of
R272–R274, from the tables of R271. -/
def Obligations.VectorFloatFormsRoundOnce : Prop :=
  TablesAreNearest ∧ (∀ x, SpecialValues x) ∧ ∀ s : State,
    (∀ o : OpV2,
      let F := o.form false
      StartsElementwise s (.vadd o) o.m F Fmt.isFloat (fun v i x y _ => rounded o.m (fun d => (d x).add (d y)) v i)
      ∧ StartsElementwise s (.vsub o) o.m F Fmt.isFloat
          (fun v i x y _ => rounded o.m (fun d => if (d y).isNan then (d x).add (d y) else (d x).add (d y).negate) v i)
      ∧ StartsElementwise s (.vmul o) o.m F Fmt.isFloat (fun v i x y _ => rounded o.m (fun d => (d x).mul (d y)) v i)
      ∧ StartsElementwise s (.vmin o) o.m F Fmt.isFloat (fun v _ x y _ => (pickFloat false v.core v.d1.fmt x y, {}))
      ∧ StartsElementwise s (.vmax o) o.m F Fmt.isFloat (fun v _ x y _ => (pickFloat true v.core v.d1.fmt x y, {}))
      ∧ StartsElementwise s (.vcmpeq o) o.m F isFloatInt (vrel (· == .eq))
      ∧ StartsElementwise s (.vcmplt o) o.m F isFloatInt (vrel (· == .lt))
      ∧ StartsElementwise s (.vcmple o) o.m F isFloatInt (vrel (· != .gt)))
    ∧ (∀ o : OpV3,
      StartsElementwise s (.vfma o) o.m o.form Fmt.isFloat (fun v i c x y => rounded o.m (fun d => (d x).fma (d y) (d c)) v i)
      ∧ StartsElementwise s (.vsel o) o.m o.form isAny (fun _ _ d x y => (if d = 0 then y else x, {})))
    ∧ (∀ o : OpV1,
      let F := o.form false
      let sign (v : VIn) : Nat := 2 ^ (v.d1.fmt.bits - 1)
      StartsElementwise s (.vabs o) o.m F Fmt.isFloat (fun v _ x _ _ => (x % sign v, {}))
      ∧ StartsElementwise s (.vneg o) o.m F Fmt.isFloat (fun v _ x _ _ => (x ^^^ sign v, {})))
    ∧ ∀ o : OpVF,
      let form (i : Instr) (f : BitVec 32 → BitVec 32 × Sticky) : Prop :=
        StartsVector s i o.m o.form none only32 sameCount len1 fun v => .ok (mapped32 f v)
      form (.vexp2 o) vexp2 ∧ form (.vlog2 o) vlog2 ∧ form (.vrcp o) vrcp ∧ form (.vrsq o) vrsq

/-- The integer forms: sums, differences, products and absolute values wrap, or clamp with SAT; the others are exact in the element's
bits (R393, R394). -/
def Obligations.VectorIntegerFormsWrapOrClamp : Prop :=
  ∀ s : State,
    (∀ o : OpV2,
      let F := o.form false
      let arith (i : Instr) (f : Int → Int → Int) : Prop := StartsElementwise s i o.m F Fmt.isInt fun v _ x y _ =>
        let w := v.d1.fmt.bits
        let e := f (intElt w x) (intElt w y)
        let c := max (-2 ^ (w - 1)) (min (2 ^ (w - 1) - 1) e)
        if v.d1.sat then ((BitVec.ofInt w c).toNat, { sat := c != e }) else ((BitVec.ofInt w e).toNat, {})
      let exact (i : Instr) (cls : Fmt → Bool) (f : Nat → Nat → Nat → Nat) : Prop := StartsElementwise s i o.m F cls fun v _ x y _ =>
        (f v.d1.fmt.bits x y % 2 ^ v.d1.fmt.bits, {})
      arith (.viadd o) (· + ·) ∧ arith (.visub o) (· - ·) ∧ arith (.vimul o) (· * ·)
      ∧ exact (.vimin o) Fmt.isInt (fun w x y => if intElt w y < intElt w x then y else x)
      ∧ exact (.vimax o) Fmt.isInt (fun w x y => if intElt w x < intElt w y then y else x)
      ∧ exact (.vishl o) Fmt.isInt (fun w x y => x * 2 ^ (y % w))
      ∧ exact (.vishr o) Fmt.isInt (fun w x y => x / 2 ^ (y % w))
      ∧ exact (.visar o) Fmt.isInt (fun w x y => (BitVec.ofInt w (intElt w x / 2 ^ (y % w))).toNat)
      ∧ exact (.vand o) isAny (fun _ x y => x &&& y) ∧ exact (.vor o) isAny (fun _ x y => x ||| y)
      ∧ exact (.vxor o) isAny (fun _ x y => x ^^^ y))
    ∧ ∀ o : OpV1,
      StartsElementwise s (.viabs o) o.m (o.form false) Fmt.isInt fun v _ x _ _ =>
        let w := v.d1.fmt.bits
        let e : Int := (intElt w x).natAbs
        let c := max (-2 ^ (w - 1)) (min (2 ^ (w - 1) - 1) e)
        if v.d1.sat then ((BitVec.ofInt w c).toNat, { sat := c != e }) else ((BitVec.ofInt w e).toNat, {})

/-- A vector form starts with a result wherever its checks before the computation pass, its sources hold no poison, and a condition on
its elements holds. -/
def StartsWith (s : State) (i : Instr) (m : AMod) (F : VForm) (scale : Option Bool) (cls : Fmt → Fmt → Option Cause)
    (step8 : VIn → Chk Unit) (len : VIn → Nat) (ok : VIn → Prop) (res : VIn → VRes) : Prop :=
  ∀ p, vplan s m F scale cls step8 len = .ok p → p.poisoned = false → ok p.v →
    EngineStarts s (exec i s) false (p.start F (res p.v)) (res p.v).away

/-- The elements of a result as their codes, with the sticky flags of all of them. -/
def CodesOf (w : Nat) (l : List (Nat × Sticky)) : VRes :=
  { bytes := packElts w (l.map (·.1)), st := (l.map (·.2)).foldl Sticky.or {} }

/-- The exact value of each element rounded into the second format (R395, R396). -/
def Converts (s : State) (ins : Instr) (o : OpV1) (pair : Fmt → Fmt → Bool) : Prop :=
  StartsVector s ins o.m (o.form true) none (pairIs pair) sameCount len2 fun v =>
    .ok (CodesOf v.d2.fmt.bits ((v.x 0).zipIdx.map fun (x, i) =>
      encodeVal v.core v.d2.fmt (v.rnd o.m v.d2 i) (decodeElt v.core v.d1.fmt x)))

/-- One element from all (R397). -/
def Reduces (s : State) (ins : Instr) (o : OpV1) (node : VIn → Nat × Sticky → Nat × Sticky → Nat × Sticky) (ints : VIn → List Int → Nat × Sticky) :
    Prop :=
  StartsVector s ins o.m (o.form false) none (clsIs isFloatInt) sameCount (fun v => elemBytes v.d1.fmt 1)
    fun v => .ok (reduced node ints v)

/-- An integer stored in the first descriptor's format: wrapped, or clamped with SAT (R393). -/
def storedInt (d : Desc) (e : Int) : Nat × Sticky :=
  let w := d.fmt.bits
  let c := max (-2 ^ (w - 1)) (min (2 ^ (w - 1) - 1) e)
  if d.sat then ((BitVec.ofInt w c).toNat, { sat := c != e }) else ((BitVec.ofInt w e).toNat, {})

/-- The rounded sum of two codes, with the flags so far: rnd 0, and the descriptor's SAT (R398). -/
def sumOf (v : VIn) (a b : Nat × Sticky) : Nat × Sticky :=
  let r := (decodeElt v.core v.d1.fmt a.1).add (decodeElt v.core v.d1.fmt b.1)
  let c := encodeVal v.core v.d1.fmt { sat := v.d1.sat } r.1
  (c.1, ((a.2.or b.2).or r.2).or c.2)

/-- The sums y[i] = y[i − 1] + x[i] from a first one on (R398). -/
def runningSums (v : VIn) (y : Nat × Sticky) (l : List Nat) : List (Nat × Sticky) :=
  match l with
  | [] => []
  | x :: r => sumOf v y (x, {}) :: runningSums v (sumOf v y (x, {})) r

/-- VSCAN's result (R398): of integers each prefix stored on its own; of floats the running sums. -/
def ScanOf (carry : Bool) (v : VIn) : VRes :=
  let w := v.d1.fmt.bits
  let g : Option Nat := if carry then some ((v.x 1).getD 0 0) else none
  if v.d1.fmt.isInt then
    CodesOf w ((List.range (v.x 0).length).map fun i =>
      storedInt v.d1 (g.elim 0 (intElt w) + (((v.x 0).take (i + 1)).map (intElt w)).sum))
  else match v.x 0 with
    | [] => CodesOf w []
    | x :: r =>
      let y := match g with | some g => sumOf v (x, {}) (g, {}) | none => (x, {})
      CodesOf w (y :: runningSums v y r)

/-- The exponent and the kind of an FP32 element (R58). -/
def expOf (x : BitVec 32) : Nat := (x.extractLsb' 23 8).toNat
def isNan32 (x : BitVec 32) : Bool := expOf x == 255 && x.extractLsb' 0 23 != 0

/-- The largest of a list of numbers, 0 of none. -/
def largest (l : List Nat) : Nat := l.foldl max 0

/-- The 200 bytes that 64 FP32 elements become (R275): E, F and N of R58 over the block alone, Q = 24, and where F[2:0] is 0 the codes of
R60. The codes of a block with a non-finite element are not stated. -/
def BsiBlock (skip : Bool) (xs : List (BitVec 32)) (b : List Byte) : Prop :=
  let at_ (o n : Nat) : Nat := leNat ((b.drop o).take n)
  let nan := xs.any isNan32
  let pinf := xs.contains 0x7F800000
  let ninf := xs.contains 0xFF800000
  let E := largest ((xs.filter fun x => expOf x != 255).map expOf)
  at_ 192 1 = E ∧ at_ 193 1 = nan.toNat + 2 * pinf.toNat + 4 * ninf.toNat + (if skip then 64 else 128) ∧ at_ 194 1 = 24 ∧ at_ 195 1 = 0
    ∧ at_ 196 4 = largest ((xs.filter isNan32).map (·.toNat))
    ∧ (nan = false → pinf = false → ninf = false → ∀ j, j < 64 → ∀ n m e, of32 (xs.getD j 0) = .fin n m e →
        (BitVec.ofNat 24 (at_ (3 * j) 3)).toInt = max (-2 ^ 23) (min (2 ^ 23 - 1) (rneInt n m (e + 149 - (max E 1 : Nat)))))

/-- The 64 FP32 elements of a block, or none of one whose Q, reserved byte or FL[5:3] is not allowed (R275): with FL[2:0] = 0 the value of
each code, else the value of R61's rows with SKIP 0. -/
def BsiElements (b : List Byte) : Prop :=
  let at_ (o n : Nat) : Nat := leNat ((b.drop o).take n)
  let E : Int := (max (at_ 192 1) 1 : Nat)
  let fl := at_ 193 1
  let q := at_ 194 1
  bsiDecode b = if q < 2 ∨ 24 < q ∨ at_ 195 1 ≠ 0 ∨ fl / 8 % 8 ≠ 0 then none
    else some ((List.range 64).map fun j =>
      let n : Int := (BitVec.ofNat 24 (at_ (3 * j) 3)).toInt
      if fl % 8 = 0 then (if n = 0 then 0 else fp32Rne n (E - 125 - q))
      else if fl % 2 = 1 then BitVec.ofNat 32 (at_ 196 4)
      else if fl / 2 % 4 = 3 then 0x7FC00003 else if fl / 2 % 4 = 1 then 0x7F800000 else 0xFF800000)

/-- The scale code of a block (R254): 127 where no element is finite and non-zero or the format has no emax; else from the largest
magnitude. -/
def ScaleCode (k : Core) (F : Fmt) (vs : List Val) (c : Nat) : Prop :=
  ((∀ n m e, .fin n m e ∈ vs → m = 0) → c = 127)
    ∧ (emaxOf k F = none → c = 127)
    ∧ ∀ n m e x, .fin n m e ∈ vs → m ≠ 0 → (∀ n' m' e', .fin n' m' e' ∈ vs → m' ≠ 0 → flog2 m' e' ≤ flog2 m e) → emaxOf k F = some x →
      (c : Int) = max 0 (min 254 (flog2 m e - x + 127))

/-- What a run of single accesses at resolved places reaches: no control page, and, for a store, no bound descriptor. -/
def Reachable (s : State) (n : Nat) (store : Bool) (locs : List Loc) : Prop :=
  ∀ l ∈ locs, (∀ off, l.home ≠ .control off) ∧ (store = true → l.isLocal s.L = true → boundAt s s.L l.key n = none)

/-- The stores of a vector instruction at resolved places: those at their home, and those that go to another core as messages (R365). -/
def storesAt (s : State) (l : List (Loc × VAddr × List Byte)) : List Put × List (Nat × VAddr × Nat × List Byte) :=
  let here (x : Loc × VAddr × List Byte) : Bool := x.1.target.isNone || x.1.isLocal s.L
  ((l.filter here).map fun (l, _, bs) => { key := l.key, bytes := bs },
    (l.filter (!here ·)).map fun (l, va, bs) => (l.target.getD 0, va, l.key, bs))

/-- The addresses of a gather or scatter (R400). -/
def elementVas (s : State) (o : OpVG) (w : Nat) (idx : List Int) : List VAddr :=
  idx.map fun i => (s.getG o.s + BitVec.ofNat 64 (i.toNat * (w / 8))).setWidth 56

/-- The limit of a gather or scatter: the second register of its pair. -/
def elementLimit (s : State) (o : OpVG) : Int := (s.getG (Fin.ofNat 40 (o.s.val + 1))).toNat

/-- No watchpoint of the issuing core's cluster watches loads (bit 56) or stores (bit 57), or the fibre has just met one (R303). -/
def Unwatched (s : State) (bit : Nat) : Prop :=
  s.broken = true ∨ ∀ j, j < 4 → ((s.cluster (clusterOf s.L)).wp.getD j 0).getLsbD bit = false

/-- VGATHER and VSCATTER on their elements (R400): the lowest index out of range traps with its number; with every index in range and every
address aligned, reachable and clean, VGATHER starts with the elements in the order of their indexes, and VSCATTER with its stores. -/
def MovesElements (s : State) (o : OpVG) : Prop :=
  (∀ p, vplan s o.m (gatherForm o) none (indexed byteWide) (fun _ => need (pairReg o.s) 0x005) len1 = .ok p → p.poisoned = false →
    let w := p.v.d1.fmt.bits
    let idx := (p.v.x 0).map (intElt p.v.d2.fmt.bits)
    let vas := elementVas s o w idx
    (∀ j, idx.findIdx? (fun i => decide (i < 0) || decide (elementLimit s o ≤ i)) = some j →
      Traps s (exec (.vgather o) s) 0x095 0 (BitVec.ofNat 64 j) false)
    ∧ ((∀ i ∈ idx, 0 ≤ i ∧ i < elementLimit s o) → (∀ va ∈ vas, va.toNat % (w / 8) = 0) → Unwatched s 56 → PortFree s →
      ∀ locs, vas.mapM (fun va => resolve s (s.party s.L) va .read) = .ok locs → Reachable s (w / 8) false locs →
        (∀ l ∈ locs, s.poisoned l.key (w / 8) = false) →
        let away := locs.any fun l => !l.isLocal s.L
        EngineStarts s (exec (.vgather o) s) false
          (p.start (gatherForm o) { bytes := locs.flatMap fun l => s.view s.L l.key (w / 8), away }) away))
  ∧ ∀ p, vplan s o.m (scatterForm o) none (indexed byteWide) (fun v => do sameCount v; need (pairReg o.s) 0x005) (fun _ => 0) = .ok p →
    p.poisoned = false →
    let w := p.v.d1.fmt.bits
    let idx := (p.v.x 1).map (intElt p.v.d2.fmt.bits)
    let vas := elementVas s o w idx
    (∀ j, idx.findIdx? (fun i => decide (i < 0) || decide (elementLimit s o ≤ i)) = some j →
      Traps s (exec (.vscatter o) s) 0x096 0 (BitVec.ofNat 64 j) false)
    ∧ ((∀ i ∈ idx, 0 ≤ i ∧ i < elementLimit s o) → (∀ va ∈ vas, va.toNat % (w / 8) = 0) → Unwatched s 57 →
      ∀ locs, vas.mapM (fun va => resolve s (s.party s.L) va .write) = .ok locs → Reachable s (w / 8) true locs →
        let st := storesAt s (locs.zip (vas.zip ((p.v.x 0).map fun x => leBytes (w / 8) x)))
        EngineStarts s (exec (.vscatter o) s) false (p.start (scatterForm o) { puts := st.1, sends := st.2 }) false)

/-- VQUANT and VDEQUANT with a scale pointer (R396): VQUANT stores each block's scale code and encodes each element times 2^(127 − v); VDEQUANT
reads the codes and encodes each element's value times 2^(v − 127), NaN under 0xFF. -/
def Scales (s : State) (o : OpV1) : Prop :=
  (∀ p, vplan s o.m (o.form true) (some true) (pairIs fun f g => f.isFloat && g.isNarrow) quantCount len2 = .ok p → p.poisoned = false →
    let v := p.v
    let c := s.me.c.getD ((o.m.fsel.val + 1) % 4) 0
    let vs := (v.x 0).map (decodeElt v.core v.d1.fmt)
    let sc := (List.range (v.n / 32)).map fun b => blockScale v.core v.d2.fmt ((vs.drop (32 * b)).take 32)
    let vas := (List.range (v.n / 32)).map fun b => c.setWidth 56 + BitVec.ofNat 56 (v.col / 32) + BitVec.ofNat 56 b
    c ≠ 0 → vs.length = v.n → Unwatched s 57 →
      ∀ locs, vas.mapM (fun va => resolve s (s.party s.L) va .write) = .ok locs → Reachable s 1 true locs →
        (∀ l ∈ locs, s.poisoned l.key 1 = false) →
        let st := storesAt s (locs.zip (vas.zip (sc.map fun k => [BitVec.ofNat 8 k])))
        let codes := CodesOf v.d2.fmt.bits (vs.zipIdx.map fun (x, i) =>
          encodeVal v.core v.d2.fmt (v.rnd o.m v.d2 i) (x.scale (127 - (sc.getD (i / 32) 127 : Int))))
        EngineStarts s (exec (.vquant o) s) false (p.start (o.form true) { codes with puts := st.1, sends := st.2 }) false)
  ∧ ∀ p, vplan s o.m (o.form true) (some false) (pairIs fun f g => f.isNarrow && g.isFloat) sameCount len2 = .ok p → p.poisoned = false →
    let v := p.v
    let c := s.me.c.getD o.m.fsel.val 0
    let b0 := v.col / 32
    let vas := (List.range ((v.col + v.n + 31) / 32 - b0)).map fun b => c.setWidth 56 + BitVec.ofNat 56 b0 + BitVec.ofNat 56 b
    c ≠ 0 → Unwatched s 56 → PortFree s →
      ∀ locs, vas.mapM (fun va => resolve s (s.party s.L) va .read) = .ok locs → Reachable s 1 false locs →
        (∀ l ∈ locs, s.poisoned l.key 1 = false) →
        EngineStarts s (exec (.vdequant o) s) false
          (p.start (o.form true) (CodesOf v.d2.fmt.bits ((v.x 0).zipIdx.map fun (x, i) =>
            let k := (locs[(v.col + i) / 32 - b0]?).elim 127 fun l => s.viewN s.L l.key 1
            let y := decodeElt v.core v.d1.fmt x
            encodeVal v.core v.d2.fmt (v.rnd o.m v.d2 i)
              (if k = 255 then .nan 0x7FC00002 else match y with | .nan n => .nan n | .inf n => .inf n | .fin n m e => .fin n m (e + k - 127))))) false

/-- Conversions with BSI24 and the quantised forms; reductions and the scan; permutation, gather, scatter and broadcast: each starts with its
result when its checks pass (R254, R275, R395–R401). The forms whose last checks are on the elements start where the BSI24 blocks are well formed,
and where every index is in range and every address may be accessed. -/
def Obligations.VectorConversionsReductionsAndMovesStart : Prop :=
  (∀ (skip : Bool) (v : VIn) (b : Nat), (v.x 0).length = v.n → b < v.n / 64 →
    BsiBlock skip (((v.x 0).drop (64 * b)).take 64 |>.map (BitVec.ofNat 32)) (((toBsi skip v).bytes.drop (200 * b)).take 200))
  ∧ (∀ b : List Byte, BsiElements b)
  ∧ (∀ (k : Core) (F : Fmt) (vs : List Val), ScaleCode k F vs (blockScale k F vs))
  ∧ (∀ k : Core, emaxOf k .e2m3 = some 2 ∧ emaxOf k .e3m2 = some 4 ∧ emaxOf k .e2m1 = some 2)
  ∧ ∀ s : State,
    (∀ o : OpVG, MovesElements s o) ∧ (∀ o : OpV1, Scales s o)
    ∧ (∀ o : OpV1,
      let i := o.m.fsel.val
      let toBlocks := hasFmt s i .fp32 && hasFmt s (i + 1) .bsi24
      let fromBlocks := hasFmt s i .bsi24 && hasFmt s (i + 1) .fp32
      (toBlocks = true →
        StartsVector s (.vcvt o) o.m (o.form true) none (pairIs fun _ _ => true) (fun v => need (v.n % 64 = 0) 0x092)
          (fun v => v.n / 64 * 200) fun v => .ok (toBsi (s.nfCfg.getLsbD 0) v))
      ∧ (toBlocks = false → fromBlocks = true →
        StartsVector s (.vcvt o) o.m (o.form true) none (pairIs fun _ _ => true) sameCount (fun v => 4 * v.n) fromBsi
        ∧ StartsWith s (.vcvt o) o.m (o.form true) none (pairIs fun _ _ => true) sameCount (fun v => 4 * v.n)
            (fun v => ∀ b ∈ chunks 200 (v.n / 64) ((v.x 0).map (BitVec.ofNat 8)), (bsiDecode b).isSome = true)
            fun v =>
              let bs := chunks 200 (v.n / 64) ((v.x 0).map (BitVec.ofNat 8))
              { bytes := bs.flatMap fun b => ((bsiDecode b).getD []).flatMap fun y => leBytes 4 y.toNat, st := { nv := bs.any bsiMakesNan } })
      ∧ (toBlocks = false → fromBlocks = false → Converts s (.vcvt o) o fun f g => floatNarrow f && floatNarrow g))
    ∧ (∀ o : OpV1, Converts s (.vcvti o) o fun f g => f.isFloat && g.isInt)
    ∧ (∀ o : OpV1, Converts s (.vcvtf o) o fun f g => f.isInt && g.isFloat)
    ∧ (∀ o : OpV1,
      StartsVector s (.vquant o) o.m (o.form true) (some true) (pairIs fun f g => f.isFloat && g.isNarrow) quantCount len2 (quantized s o)
      ∧ (s.me.c.getD ((o.m.fsel.val + 1) % 4) 0 = 0 →
          StartsWith s (.vquant o) o.m (o.form true) (some true) (pairIs fun f g => f.isFloat && g.isNarrow) quantCount len2
            (fun v => (v.x 0).length = v.n) fun v => CodesOf v.d2.fmt.bits ((v.x 0).zipIdx.map fun (x, i) =>
              encodeVal v.core v.d2.fmt (v.rnd o.m v.d2 i) ((decodeElt v.core v.d1.fmt x).scale 0))))
    ∧ (∀ o : OpV1,
      StartsVector s (.vdequant o) o.m (o.form true) (some false) (pairIs fun f g => f.isNarrow && g.isFloat) sameCount len2
          (dequantized s o)
      ∧ (s.me.c.getD o.m.fsel.val 0 = 0 →
          StartsWith s (.vdequant o) o.m (o.form true) (some false) (pairIs fun f g => f.isNarrow && g.isFloat) sameCount len2
            (fun _ => True) fun v => CodesOf v.d2.fmt.bits ((v.x 0).zipIdx.map fun (x, i) =>
              encodeVal v.core v.d2.fmt (v.rnd o.m v.d2 i) ((decodeElt v.core v.d1.fmt x).scale 0))))
    ∧ (∀ o : OpV1,
      Reduces s (.vrsum o) o addNode (fun v l => storeInt v.d1.sat v.d1.fmt.bits l.sum)
      ∧ Reduces s (.vrmax o) o (fun v a b => (pickFloat true v.core v.d1.fmt a.1 b.1, {}))
          (fun v l => storeInt false v.d1.fmt.bits (l.max?.getD 0))
      ∧ Reduces s (.vrmin o) o (fun v a b => (pickFloat false v.core v.d1.fmt a.1 b.1, {}))
          (fun v l => storeInt false v.d1.fmt.bits (l.min?.getD 0)))
    ∧ (∀ o : OpV2,
      StartsVector s (.vscan o) o.m (scanForm o) none (clsIs isFloatInt) (fun _ => .ok ()) len1 (fun v => .ok (ScanOf o.t.isSome v))
      ∧ StartsVector s (.vperm o) o.m (o.form true) none (indexed isAny) permCount len1 permuted
      ∧ StartsWith s (.vperm o) o.m (o.form true) none (indexed isAny) permCount len1
          (fun v => ∀ x ∈ (v.x 1).take v.n, 0 ≤ intElt v.d2.fmt.bits x ∧ intElt v.d2.fmt.bits x < v.n)
          fun v => { bytes := packElts v.d1.fmt.bits (((v.x 1).take v.n).map fun x => (v.x 0).getD (intElt v.d2.fmt.bits x).toNat 0) })
    ∧ (∀ o : OpVG,
      StartsVector s (.vgather o) o.m (gatherForm o) none (indexed byteWide) (fun _ => need (pairReg o.s) 0x005) len1 (gathered s o)
      ∧ StartsVector s (.vscatter o) o.m (scatterForm o) none (indexed byteWide) (fun v => do sameCount v; need (pairReg o.s) 0x005)
          (fun _ => 0) (scattered s o))
    ∧ ∀ o : OpVB,
      StartsVector s (.vbcast o) o.m { d := o.d, rest := [], srcs := [], out := .produced } none (clsIs isAny) (fun _ => .ok ()) (fun _ => 0)
        fun v =>
          let each := (s.getG o.s).toNat % 2 ^ v.d1.fmt.bits
          .ok { bytes := packElts v.d1.fmt.bits (List.replicate (v.room * 8 / v.d1.fmt.bits) each) }

/-- The cell after one block (R266, R268), all of whose updates are sums, maxima and ORs: `ps` are its 32 pairs of elements. -/
def blockAdded (c : Cell) (anchor : Int) (ps : List (Val × Val)) (sa sb : Nat) : Cell :=
  let top (l : List (Bool × Nat)) : Nat := largest ((l.filter (·.1)).map (·.2))
  let cnt := min (c.cnt + 1) (2 ^ 24 - 1)
  let full := decide (cnt = 2 ^ 24 - 1)
  if sa = 255 ∨ sb = 255 then
    { c with nan := true, nanv := BitVec.ofNat 32 (max c.nanv.toNat 0x7FC00002), cnt, range := c.range || full }
  else
    let bad (p : Val × Val) : Bool := p.1.isNan || p.2.isNan
    let zeroInf (p : Val × Val) : Bool := !bad p && ((p.1.isInf && p.2.isZero) || (p.1.isZero && p.2.isInf))
    let inf (p : Val × Val) : Bool := !bad p && !zeroInf p && (p.1.isInf || p.2.isInf)
    let product (p : Val × Val) : Int := match p with
      | (.fin x m e, .fin y n f) => sgn (x != y) (m * n) * 2 ^ (e + f + 68).toNat
      | _ => 0
    let n := floorShift (ps.map product).sum ((sa : Int) + sb - 254 - 68 - anchor)
    let far := decide (2 ^ 103 ≤ n.natAbs)
    { v := if far then c.v else c.v + n, cnt, range := c.range || far || full
      nan := c.nan || ps.any bad || ps.any zeroInf
      nanv := BitVec.ofNat 32 (max c.nanv.toNat (top [(ps.any bad, 0x7FC00001), (ps.any zeroInf, 0x7FC00004)]))
      pinf := c.pinf || ps.any fun p => inf p && p.1.neg? == p.2.neg?
      ninf := c.ninf || ps.any fun p => inf p && p.1.neg? != p.2.neg? }

/-- Element k of row (or column) i of block-column m of a slot's bytes, and its scale code (R406). -/
def blockElt (k : Core) (f : Fmt) (bs : List Byte) (m i j : Nat) : Val :=
  decodeElt k f (leNat ((bs.drop (colBytes f * m)).take (128 * f.bits)) / 2 ^ (f.bits * (32 * i + j)) % 2 ^ f.bits)
def blockScaleAt (f : Fmt) (bs : List Byte) (m i : Nat) : Nat := leNat ((bs.drop (colBytes f * m + 128 * f.bits + i)).take 1)

/-- Cell (i, j) after the block products of R407, over B's block-columns; `bits` is the stream of MMAS. -/
def cellAfter (s : State) (a : Acc) (fa fb : Fmt) (as bs : List Byte) (nb : Nat) (bits : Option (List Bool)) (i j : Nat) : Cell :=
  (List.range nb).foldl (init := spGet a.cells (32 * i + j) {}) fun c kb =>
    let at_ (m : Nat) : Cell :=
      blockAdded c a.anchor ((List.range 32).map fun e => (blockElt s.here fa as m i e, blockElt s.here fb bs kb j e))
        (blockScaleAt fa as m i) (blockScaleAt fb bs kb j)
    match bits with
    | none => at_ kb
    | some l => if l.getD kb false then at_ ((l.take kb).count true) else c

/-- What the accumulator holds after an MMA or MMAS whose checks have passed (R407): POIS where an operand is poisoned; else, where it has not
POIS already, every cell with its block products; and the stream's position. -/
def MakesProducts (s : State) (o : OpMma) (skip : Bool) (op : EngineOp) : Prop :=
  ∀ ra rb da db pa pb, ringOf s s.L s.fibre o.ha = .ok ra → ringOf s s.L s.fibre o.hb = .ok rb →
    fdesc (s.me.f.getD o.m.fsel.val 0) = .ok da → fdesc (s.me.f.getD ((o.m.fsel.val + 1) % 4) 0) = .ok db →
    headPieces s ra .read = .ok pa → headPieces s rb .read = .ok pb →
    let nb := slotBytes s rb / colBytes db.fmt
    let k := s.here.skip.get o.q
    (op.skip = if skip then some (o.q, k.pos + nb) else none)
    ∧ op.pops = mmaPops o ra rb
    ∧ ∃ a, op.acc = some (o.q, a) ∧ a.anchor = (s.acc o.q).anchor ∧ a.own = true ∧ a.owner = s.fibre
      ∧ if headPoisoned s ra pa || headPoisoned s rb pb then a.pois = true
        else if (s.acc o.q).pois then a.cells = (s.acc o.q).cells
        else a.pois = false ∧ ∃ bits, (if skip then streamBits s k nb = .ok bits else True) ∧ ∀ i j, i < 32 → j < 32 →
          spGet a.cells (32 * i + j) {} = cellAfter s (s.acc o.q) da.fmt db.fmt (unlayout da.lay (viewPieces s s.L pa))
            (unlayout db.lay (viewPieces s s.L pb)) nb (if skip then some bits else none) i j

/-- What MMA (`skip` false) and MMAS do. When their checks pass they start, owning the accumulator, with no store, and end at its new
cells; a failed check traps, and an operand that is not there waits. -/
def StartsProduct (s : State) (i : Instr) (o : OpMma) (skip : Bool) : Prop :=
  (∀ op, mmaOp s s.mx o skip = .ok op → Unwatched s 56 →
    EngineStarts s (exec i s) true op false ∧ op.accQ = some o.q ∧ (s.acc o.q).own = true ∧ (s.acc o.q).owner = s.fibre
      ∧ op.puts = [] ∧ op.sends = [] ∧ op.credit = none ∧ MakesProducts s o skip op)
  ∧ (∀ c a x, restarts c = false → mmaOp s s.mx o skip = .error (.trap c a x false) → Traps s (exec i s) c a x false)
  ∧ (∀ w, mmaOp s s.mx o skip = .error (.wait w) → Waits s (exec i s) w)
  ∧ ∀ ra rb, ringOf s s.L s.fibre o.ha = .ok ra → ringOf s s.L s.fibre o.hb = .ok rb →
    (s.acc o.q).own = false ∨ (s.acc o.q).owner ≠ s.fibre → Traps s (exec i s) 0x089 0 0 false

/-- What a readout of a cell converts (R269). -/
def readoutOf (c : Cell) (anchor : Int) : Val :=
  if c.nan then .nan c.nanv
  else if c.pinf && c.ninf then .nan 0x7FC00003
  else if c.pinf then .inf false else if c.ninf then .inf true
  else if c.range then .nan 0x7FC00006
  else .fin (decide (c.v < 0)) c.v.natAbs anchor

/-- What MMRD writes (R411): the readout of cell (i, j) as element 32i + j, in the format and the layout of its descriptor, padded with zeros, and
a credit of what the producer's part of the slot lacks; of an accumulator with POIS, no byte and a credit with POIS. -/
def ReadsOut (s : State) (o : OpMmrd) (op : EngineOp) : Prop :=
  ∃ r d n ps, ringOf s s.L s.fibre o.d = .ok r ∧ fdesc (s.me.f.getD o.m.fsel.val 0) = .ok d ∧ prodIndex s r s.myId = some n ∧
    let slot := ringHead s r + cursor s r n
    let cnt := slotCnt s r slot n
    let room := ringShare s r - cnt
    let a := s.acc o.q
    let mode := if o.m.rnd.val = 0 then d.rnd else o.m.rnd.val - 1
    let out := (List.range 1024).map fun e =>
      let draw := kweash s.a6 d.step (BitVec.ofNat 32 (s.a7.toNat % 2 ^ 32 + e / 32)) (BitVec.ofNat 32 (s.a7.toNat / 2 ^ 32 + e % 32))
      let v := readoutOf (spGet a.cells e {}) a.anchor
      let c := encodeVal s.here d.fmt { mode, sat := d.sat, d := if mode = 2 then draw else 0 } v
      (c.1, c.2.or { nv := match v with | .nan x => x.extractLsb' 0 4 != 0 | _ => false })
    let bs := packElts d.fmt.bits (out.map (·.1))
    slotPieces s r 0 slot .write = .ok ps
      ∧ op.credit = some { desc := r.off, n, bytes := room, pois := a.pois }
      ∧ if a.pois then op.puts = [] ∧ op.flags = 0
        else op.puts = layoutPuts ps d.lay (n * ringShare s r + cnt) (bs ++ List.replicate (room - bs.length) 0)
          ∧ op.flags = ((out.map (·.2)).foldl Sticky.or {}).bits

/-- MMA, MMAS and MMRD start in the matrix unit when their checks pass, with their cells and their readout, and trap or wait as they say; a fibre
that does not own the accumulator traps (R266–R269, R405, R407, R408, R411). That all is computed at the start, from the operands as the
port then reads them, is the model's choice (log entry 21). -/
def Obligations.MatrixFormsStart : Prop :=
  (∀ (s : State) (o : OpMma), StartsProduct s (.mma o) o false)
  ∧ (∀ (s : State) (o : OpMma), StartsProduct s (.mmas o) o true)
  ∧ ∀ (s : State) (o : OpMmrd),
    (∀ op va n, mmrdOp s s.mx o = .ok (op, va, n) → Unwatched s 57 →
      EngineStarts s (exec (.mmrd o) s) true op false ∧ op.accQ = some o.q ∧ (s.acc o.q).own = true ∧ (s.acc o.q).owner = s.fibre
        ∧ op.acc = none ∧ op.sends = [] ∧ ReadsOut s o op)
    ∧ (∀ c a x, restarts c = false → mmrdOp s s.mx o = .error (.trap c a x false) → Traps s (exec (.mmrd o) s) c a x false)
    ∧ ∀ w, mmrdOp s s.mx o = .error (.wait w) → Waits s (exec (.mmrd o) s) w

/-- MMCLR takes a free accumulator with an anchor in range, and waits for a taken one; SKSET sets the owned accumulator's stream; MMRC
sends its command and awaits the status; a queued command starts in a free unit, or is dropped where it fails (R386, R405, R409, R410, R413).
That SKSET tests the owner (0x089) before its word (0x086), and how a queued command takes its turn, are the model's choice (log entries 20
and 22). -/
def Obligations.AccumulatorsAreClearedAndCommanded : Prop :=
  (∀ (s : State) (o : OpQG),
    let v := (s.getG o.s).toInt
    let a := s.here.acc.get o.q
    if v < -512 ∨ 511 < v then Traps s (exec (.mmclr o) s) 0x084 0 0 false
    else if s.heldForCut s.fibre = true then Waits s (exec (.mmclr o) s) .stepBoundary
    else if a.own = true ∧ a.owner ≠ s.fibre then Waits s (exec (.mmclr o) s) (.accumulator o.q)
    else if s.here.mat ≠ none then Waits s (exec (.mmclr o) s) (.engine true [])
    else s.here.waiters (.engine true []) = 0 → s.here.woken s.fibre s.onShadow (.engine true []) = 0 →
        Does s (exec (.mmclr o) s) fun c =>
          { c with acc := c.acc.set o.q { anchor := v, owner := s.fibre, own := true }, skip := c.skip.set o.q {} })
  ∧ (∀ (s : State) (o : OpQG),
    let v := s.getG o.s
    let a := s.here.acc.get o.q
    let off := v.toNat % 2 ^ 18
    let len := v.toNat / 2 ^ 18 % 2 ^ 16
    if a.own = false ∨ a.owner ≠ s.fibre then Traps s (exec (.skset o) s) 0x089 0 0 false
    else if off % 8 ≠ 0 ∨ len = 0 ∨ 2 ^ 34 ≤ v.toNat ∨ s.here.directBytes < off + (len + 7) / 8 then
      Traps s (exec (.skset o) s) 0x086 0 0 false
    else if s.heldForCut s.fibre = true then Waits s (exec (.skset o) s) .stepBoundary
    else if s.here.mat ≠ none then Waits s (exec (.skset o) s) (.engine true [])
    else s.here.waiters (.engine true []) = 0 → s.here.woken s.fibre s.onShadow (.engine true []) = 0 →
      Does s (exec (.skset o) s) fun c => { c with skip := c.skip.set o.q { off, len, pos := 0 } })
  ∧ (∀ (s : State) (o : OpGG) (i : Instr),
    let w := s.getRegs o.s.val 4
    let id : CoreId := (w.getD 0 0).extractLsb' 0 32
    let cmd : MatCmd := { instr := i, key := w.getD 2 0, row := (w.getD 3 0).extractLsb' 0 32, col := (w.getD 3 0).extractLsb' 32 32,
                          fibre := 0, src := s.coreId s.L s.slot, pc := s.cur.pc, srcFibre := s.fibre }
    regGroup o.s.val 4 = true → Names s id → s.localCore id ≠ some s.L → mmrcInstr (w.getD 1 0) = .ok i →
    (w.getD 1 0).extractLsb' 38 26 = 0 →
    Completes (exec (.mmrc o) s) fun t =>
      (match s.localCore id with
        | some _ => (∃ m : Msg, t.msgs = s.msgs ++ [m] ∧ m.dst = id ∧ m.body = .mmrc cmd ((w.getD 0 0).extractLsb' 32 32)) ∧ t.outMsgs = s.outMsgs
        | none => (∃ m : Msg, t.outMsgs = s.outMsgs ++ [m] ∧ m.dst = id ∧ m.body = .mmrc cmd ((w.getD 0 0).extractLsb' 32 32)) ∧ t.msgs = s.msgs)
        ∧ GoesOn s t ∧ s.plane.status t = .waiting .status ∧ (s.plane.pend t).map (·.dst) = some (some o.d) ∧ t.mem = s.mem)
  ∧ ∀ (s : State) (L : Fin 6144) (cmd : MatCmd) (rest : List MatCmd),
    s.ev = .mmrcCommandExecute L → (s.core L).matQ = cmd :: rest → (s.core L).mat = none → accPaused (s.core L) cmd.instr = false →
    let r := remoteOp { s with cur := { core := L, slot := 7 } } cmd
    (∀ op, r = .ok op → op.sends = [] →
      let o : EngineOp := { op with id := s.nextId }
      Completes (exec .mmrcCommandExecute s) fun t =>
        t = { s.modCore L fun c => { c with matQ := rest, mat := some o } with heldWrites := s.heldWrites ++ o.waiting L, nextId := s.nextId + 1 })
    ∧ (∀ c a x e, r = .error (.trap c a x e) → Completes (exec .mmrcCommandExecute s) fun t =>
        (t.core L).matQ = rest ∧ (t.core L).mat = none ∧ OtherCores s t [L.val])
    ∧ ∀ w, r = .error (.wait w) → exec .mmrcCommandExecute s = .next s

/-- An engine instruction of a core finishes, when nothing holds the engines back and its accesses need not wait. -/
def Finishes (s : State) (L : Fin 6144) (matrix : Bool) (op : EngineOp) : Prop :=
  s.ev = .engineInstructionComplete L matrix ∧ enginesHeld s L = false
    ∧ (if matrix then (s.core L).mat else (s.core L).vec) = some op ∧ effectWaits s L op = false

/-- A credit of an instruction to one slot: its producer's count takes the bytes, and besides it only TAIL may change. -/
def CreditsSlot (s t : State) (r : Ring) (n i b : Nat) : Prop :=
  let k := slotState s r i + 3 * n
  memGets t.mem k 3 = leBytes 3 (slotCnt s r i n + b)
    ∧ ∀ a, ¬(k ≤ a ∧ a < k + 3) → ¬(r.key + 12 ≤ a ∧ a < r.key + 16) → memGet t.mem a = memGet s.mem a

/-- An engine instruction finishes: the engine is free, its fibre is ready at the next chain with the flags it sets, its accumulator
stands, and its stores, credit and pops have been made: its puts stand at their keys, a pop raises HEAD and clears the slot's state, and a
credit raises the producer's count (R386, R407, R411, R412). A host write of a decode table waits while an instruction uses the table, and
is carried out otherwise; the end of a rebuild clears BUSY (R255, R256). That every effect stands at the one completion event is the model's
choice (log entry 21). -/
def Obligations.EngineInstructionsFinish : Prop :=
  (∀ (s : State) (L : Fin 6144) (matrix : Bool) (op : EngineOp), Finishes s L matrix op → s.grants = [] →
    s.heldWrites = op.waiting L → op.poison = [] →
    (op.credit = none → op.pops = [] → Completes (exec .engineInstructionComplete s) fun t =>
      t.heldWrites = [] ∧ t.mem = op.puts.foldl (fun m p => memPuts m p.key p.bytes) s.mem)
    ∧ (∀ d, op.puts = [] → op.credit = none → op.pops = [d] →
      let r : Ring := ⟨L, d⟩
      ringFilled s r ≠ 0 → Completes (exec .engineInstructionComplete s) fun t =>
        t.mem = memPuts (memPuts s.mem (slotState s r (ringHead s r)) (List.replicate 32 0)) (r.key + 8) (leBytes 4 (ringHead s r + 1)))
    ∧ ∀ c n i b, s.Inv → op.puts = [] → op.credit = some c → c.pois = false → op.pops = [] → ((s.core L).fib op.fibre).task = none →
      let r : Ring := ⟨L, c.desc⟩
      creditCheck s r (s.coreId L 0) c.bytes none = .ok (n, [(i, b)]) → n < 8 →
      (slotState s r i + 32 ≤ r.key ∨ r.key + 64 ≤ slotState s r i) →
      Completes (exec .engineInstructionComplete s) fun t => CreditsSlot s t r n i b)
  ∧
  (∀ (s u : State) (L : Fin 6144) (matrix : Bool) (op : EngineOp),
    s.ev = .engineInstructionComplete L matrix → enginesHeld s L = false →
    (if matrix then (s.core L).mat else (s.core L).vec) = some op → effectWaits s L op = false →
    let free (c : Core) : Core := (if matrix then { c with mat := none } else { c with vec := none }).dtDrain
    engineEffect { s.modCore L free with cur := op.iss } L op = .ok u →
    Completes (exec .engineInstructionComplete s) fun t =>
      t.mem = u.mem ∧ t.msgs = u.msgs ∧ (∀ M, M ≠ L.val → t.core M = u.core M)
        ∧ (∀ q a, op.acc = some (q, a) → (t.core L).acc.get q = a)
        ∧ (∀ q n, op.skip = some (q, n) → ((t.core L).skip.get q).pos = n)
        ∧ (op.remote = false →
            if op.shadow = true then
              (t.core L).shadowPc = op.next ∧ (t.core L).shadowSt = .ready ∧ (t.core L).shadowFl = (u.core L).shadowFl ||| op.flags
            else
              ((t.core L).fib op.fibre).pc = op.next ∧ ((t.core L).fib op.fibre).status = .ready
                ∧ ((t.core L).fib op.fibre).flags = ((u.core L).fib op.fibre).flags ||| op.flags
                ∧ ((t.core L).fib op.fibre).a = ((u.core L).fib op.fibre).a)
        ∧ (op.remote = true → ((t.core L).fib op.fibre).pc = ((u.core L).fib op.fibre).pc))
  ∧ (∀ (s : State) (L : Fin 6144) (matrix : Bool), s.ev = .engineInstructionComplete L matrix → enginesHeld s L = true →
    exec .engineInstructionComplete s = .next s)
  ∧ (∀ (s : State) (L : Fin 6144) (matrix : Bool) (op : EngineOp), s.ev = .engineInstructionComplete L matrix →
    (if matrix then (s.core L).mat else (s.core L).vec) = some op → effectWaits s L op = true →
    exec .engineInstructionComplete s = .next s)
  ∧ (∀ (s : State) (L : Fin 6144) (t : Bool) (i : BitVec 8) (v : Word),
    s.ev = .coreDtabWrite L t i v → s.recovery = false → tableUsed (s.core L) t = true →
    exec .coreDtabWrite s = .next (s.modCore L fun c => { c with dtWait := c.dtWait ++ [(t, some (i, v, 0xFFFFFFFF))] }))
  ∧ (∀ (s : State) (L : Fin 6144) (t : Bool) (i : BitVec 8) (v : Word),
    s.ev = .coreDtabWrite L t i v → s.recovery = false → tableUsed (s.core L) t = false →
    exec .coreDtabWrite s = .next (s.modCore L fun c => writeDtab c t i.toNat v 0xFFFFFFFF))
  ∧ (∀ (s : State) (L : Fin 6144), s.ev = .coreDtstatRst0 L → s.recovery = false → tableUsed (s.core L) false = false →
    exec .coreDtstatRst0 s = .next (s.modCore L fun c => c.reloadTable false))
  ∧ (∀ (s : State) (L : Fin 6144), s.ev = .coreDtstatRst1 L → s.recovery = false → tableUsed (s.core L) true = false →
    exec .coreDtstatRst1 s = .next (s.modCore L fun c => c.reloadTable true))
  ∧ ∀ (s : State) (L : Fin 6144) (b : Bool), s.ev = .dtabRebuildDone L b →
    Completes (exec .dtabRebuildDone s) fun t =>
      t = s.modCore L (fun c => if b then { c with dtBusy1 := false } else { c with dtBusy0 := false })

/-! ## Copies and stashes -/

/-- A tag is set, with a status. -/
def TagSet (t : State) (L : Nat) (i : Fin 64) (pois fail : Bool) (cause : Cause) : Prop :=
  (t.core L).tags.getLsbD i = true ∧ (t.core L).tagStatus i = BitVec.ofBool pois ++ BitVec.ofBool fail ++ cause

/-- What a copy command completes with: its tag is taken and its copy enters a channel of the cluster, with `.acq` with its source
read; or, where a check fails, its tag is set with the cause. On another slot, with a tag out of range or not set, it traps; without
a free channel it waits. -/
def EntersChannel (s : State) (r : Host.Outcome State Fault Refusal) (f : CopyForm) (o : OpM2) : Prop :=
  let k := clusterOf s.L
  let w := s.getRegs o.s.val 6
  let dead := s.here.courierDead && s.here.courierTask.isSome
  regGroup o.s.val 6 = true →
  (s.slot ≠ 7 → Traps s r 0x0D0 0 0 false)
  ∧ (s.slot = 7 → 64 ≤ (s.getG o.d).toNat → Traps s r 0x0D5 0 0 false)
  ∧ ∀ tag : Fin 64, s.slot = 7 → (s.getG o.d).toNat = tag.val →
    (s.here.tags.getLsbD tag = false → Traps s r 0x0D6 0 0 false)
    ∧ (s.here.tags.getLsbD tag = true →
        if channelFree s s.L = false then Waits s r .channel
        else PortFree s →
          (∀ op, copyChecks s s.L f w o.m.order = .ok op →
            let op' : CopyOp := { op with tag, task := s.here.courierTask, dead, pc := s.cur.pc, chan := freeChannel s s.L }
            ∀ held, (if acq o.m then copyGrant s op' else .ok op') = .ok held →
              Completes r fun t =>
                GoesOn s t ∧ t.mem = s.mem ∧ (t.core s.L).tags.getLsbD tag = false
                  ∧ (∀ j, j ≠ tag.val → (t.core s.L).tags.getLsbD j = (s.core s.L).tags.getLsbD j)
                  ∧ (t.cluster k).copies = (s.cluster k).copies ++ [held]
                  ∧ ((∀ id off, held.dst ≠ .away id off) → OtherCores s t [s.L]))
          ∧ ∀ c a x e, copyChecks s s.L f w o.m.order = .error (.trap c a x e) →
              Completes r fun t =>
                GoesOn s t ∧ t.mem = s.mem ∧ TagSet t s.L tag false true c
                  ∧ (t.cluster k).copies = (s.cluster k).copies ∧ OtherCores s t [s.L])

/-- CPY, CPYT, CPYG, CPYM and SHLD run on the courier alone. With a free channel of the cluster and a set tag, the command takes the tag
and enters a channel; a check that fails sets the tag with its cause. A plain CPY of bytes that do not overlap passes its checks (R414,
R416, R417). -/
def Obligations.CopyCommandsEnterAChannel : Prop :=
  (∀ (s : State) (o : OpM2), EntersChannel s (exec (.cpy o) s) .cpy o)
  ∧ (∀ (s : State) (o : OpM2), EntersChannel s (exec (.cpyt o) s) .cpyt o)
  ∧ (∀ (s : State) (o : OpM2), EntersChannel s (exec (.cpyg o) s) .cpyg o)
  ∧ (∀ (s : State) (o : OpM2), EntersChannel s (exec (.cpym o) s) .cpym o)
  ∧ (∀ (s : State) (o : OpM2), EntersChannel s (exec (.shld o) s) .shld o)
  ∧ ∀ (s : State) (o : OpM2) (tag : Fin 64),
    let w := s.getRegs o.s.val 6
    let sa : VAddr := (w.getD 0 0).setWidth 56
    let da : VAddr := (w.getD 1 0).setWidth 56
    let n := (w.getD 2 0).toNat
    regGroup o.s.val 6 = true → s.slot = 7 → (s.getG o.d).toNat = tag.val → s.here.tags.getLsbD tag = true → channelFree s s.L = true →
    PortFree s → acq o.m = false → w.getD 3 0 = 0 → w.getD 4 0 = 0 → w.getD 5 0 = 0 → 1 ≤ n → n ≤ 2 ^ 40 →
    (sa.toNat + n ≤ da.toNat ∨ da.toNat + n ≤ sa.toNat) →
    Completes (exec (.cpy o) s) fun t =>
      GoesOn s t ∧ t.mem = s.mem ∧ (t.core s.L).tags.getLsbD tag = false ∧ OtherCores s t [s.L]
        ∧ ∃ op : CopyOp, (t.cluster (clusterOf s.L)).copies = (s.cluster (clusterOf s.L)).copies ++ [op]
            ∧ op.core = s.L ∧ op.tag = tag ∧ op.segs = [(sa, n)] ∧ op.dst = .memory da ∧ op.nbytes = n ∧ op.granted = false

/-- The default courier serves a full mailbox: the mailbox empties, and the request's copy enters a channel, or its tag is set with the cause;
a request whose tag is not set traps, as the command would, and is kept (R193, R416). That the default courier serves in an event of its
own, and gives fibre 1's pc as the command's, is the model's choice (log entry 3). -/
def Obligations.TheCourierServesRequests : Prop :=
  ∀ (s : State) (L : Fin 6144) (q : Fin 4),
    let m := (s.core L).mb.get q
    let w6 := m.words.get 6
    let tag : Fin 64 := (w6.extractLsb' 0 6).toFin
    let u := s.modCore L fun c =>
      { c with mb := c.mb.set q { m with full := false }, mbLast := q, courierTask := m.task, courierDead := false, courierCmd := none }
    s.ev = .courierRequestServe L → (s.core L).courierFree = true → (s.core L).courierCmd = none → (s.core L).nextMail = some q →
    ((m.words.get 7 ≠ 0 ∨ w6.extractLsb' 11 53 ≠ 0 ∨ 4 < w6.toNat / 256 % 8) →
      Completes (exec .courierRequestServe s) fun t =>
        ((t.core L).mb.get q).full = false ∧ TagSet t L tag false true 0x0D1 ∧ OtherCores s t [L] ∧ t.mem = s.mem)
    ∧ (m.words.get 7 = 0 → w6.extractLsb' 11 53 = 0 → w6.toNat / 256 % 8 ≤ 4 → (s.core L).tags.getLsbD tag = false →
      Traps { s with cur := { core := L, slot := 7, pc := ((s.core L).fib 1).pc } } (exec .courierRequestServe s) 0x0D6 0 0 false
        ∧ Completes (exec .courierRequestServe s) fun t => ((t.core L).mb.get q).full = false ∧ ((t.core L).courierCmd).isSome = true ∧ t.mem = s.mem)
    ∧ (m.words.get 7 = 0 → w6.extractLsb' 11 53 = 0 → w6.toNat / 256 % 8 ≤ 4 → (s.core L).tags.getLsbD tag = true →
      channelFree s L = true → (w6.getLsbD 7 = true → s.portClear L = true) →
      (∀ op, copyChecks u L (courierForm (w6.toNat / 256 % 8)) (m.words.toList.take 6) (w6.toNat / 64 % 4) = .ok op →
        let op' : CopyOp := { op with tag, task := m.task, dead := m.dead, pc := ((s.core L).fib 1).pc, chan := freeChannel s L }
        ∀ held, (if w6.getLsbD 6 then copyGrant u op' else .ok op') = .ok held →
          Completes (exec .courierRequestServe s) fun t =>
            ((t.core L).mb.get q).full = false ∧ (t.core L).tags.getLsbD tag = false ∧ t.mem = s.mem
              ∧ ((∀ id off, held.dst ≠ .away id off) → OtherCores s t [L])
              ∧ (t.cluster (clusterOf L)).copies = (s.cluster (clusterOf L)).copies ++ [held])
      ∧ ∀ c a x e, copyChecks u L (courierForm (w6.toNat / 256 % 8)) (m.words.toList.take 6) (w6.toNat / 64 % 4) = .error (.trap c a x e) →
        Completes (exec .courierRequestServe s) fun t =>
          ((t.core L).mb.get q).full = false ∧ TagSet t L tag false true c ∧ OtherCores s t [L] ∧ t.mem = s.mem)

/-- A copy reads its source when its channel is granted, or keeps the cause of a failed page check; when it completes, what it delivers is in
memory or in its rings, it leaves its channel, and its tag is set. One to a ring of another module leaves for it and waits for the report on
it. A reservation at what it writes holds it back (R241, R416 step 14, R417). That the source is read at the grant (R244 leaves the time
open), that the tag of a copy that fails has POIS 0, and the cause 0x12D of poison that a copy would leave in part, are the model's choice
(log entry 23). -/
def Obligations.CopiesReadDeliverAndComplete : Prop :=
  (∀ (s : State) (L : Fin 6144) (before after : List CopyOp) (o : CopyOp),
    let k := clusterOf L
    s.ev = .copyChannelGrant L → enginesHeld s L = false → (s.cluster k).copies = before ++ o :: after →
    o.core = L.val → o.granted = false → (∀ p ∈ before, p.core ≠ L.val ∨ p.granted = true) →
    (∀ o', copyRead s o = .ok o' →
      exec .copyChannelGrant s = .next (s.modCluster k fun x => { x with copies := before ++ o' :: after })
        ∧ o'.granted = true ∧ o'.failed = o.failed)
    ∧ ∀ c a x e, copyRead s o = .error (.trap c a x e) →
      exec .copyChannelGrant s
        = .next (s.modCluster k fun y => { y with copies := before ++ { o with granted := true, failed := c, failAddr := a } :: after }))
  ∧ (∀ (s u : State) (L : Fin 6144) (tag : Fin 64) (o : CopyOp) (fail : Option (Cause × Word)),
    let k := clusterOf L
    let c := (fail.map (·.1)).getD 0
    s.ev = .copyComplete L tag → (s.cluster k).copies.find? (fun o => o.core == L.val && o.tag == tag) = some o →
    copyReady s (s.cluster k).copies o = true →
    ((s.grants = [] ∨ copyHeld s o = false) → (∀ id off, o.dst ≠ .away id off) → copyFinish s o = (u, fail) →
      Completes (exec .copyComplete s) fun t =>
        t.mem = u.mem ∧ t.poison = u.poison ∧ TagSet t L tag (c == 0 && o.pois.any id) (c != 0) c
          ∧ ∀ p ∈ (t.cluster k).copies, p.core = L.val → p.tag ≠ tag)
    ∧ (∀ id off, (s.grants = [] ∨ copyHeld s o = false) → o.dst = .away id off →
      Completes (exec .copyComplete s) fun t =>
        t.mem = s.mem ∧ t.cores = s.cores ∧ { o with sent := some s.nextId } ∈ (t.cluster k).copies
          ∧ ∃ m : Msg, t.outMsgs = s.outMsgs ++ [m] ∧ m.dst = id ∧ m.src = s.coreId L 0 ∧ m.ctx = s.ctxNum L
            ∧ ∃ d, m.body = .deliver d ∧ d.off = off.toNat ∧ d.data = o.data ∧ d.pois = o.pois ∧ d.nbytes = o.nbytes
              ∧ d.layout = o.layout ∧ d.failed = o.failed ∧ d.task = o.task ∧ d.dead = o.dead)
    ∧ (s.grants ≠ [] → copyHeld s o = true → exec .copyComplete s = .next s))
  ∧ (∀ (s : State) (L : Fin 6144) (id : Nat) (o : CopyOp) (fail : Option (Cause × Word)),
    let k := clusterOf L
    let c := (fail.map (·.1)).getD 0
    (s.cluster k).copies.find? (fun o => o.core == L.val && o.sent == some id) = some o → o.core = L.val →
    let t := copyReport s L id fail
    t.mem = s.mem ∧ TagSet t L o.tag (c == 0 && o.pois.any (·)) (c != 0) c ∧ ∀ p ∈ (t.cluster k).copies, p.core = L.val → p.tag ≠ o.tag)
  ∧ ∀ (s : State) (o : CopyOp) (da : VAddr) (l : Loc), s.Inv → s.grants = [] → s.heldWrites = [] →
    o.dst = .memory da → o.failed = 0 → o.data.length = o.nbytes → o.pois.any id = false →
    resolveRange s (s.engineOf o.core) da o.nbytes .write = .ok [(l, o.nbytes)] →
    Stores s (copyFinish s o).1 l.key o.data
      ∧ (copyFinish s o).2 = if (linesOf l.key o.nbytes).any (fun x => s.poison.contains x && (x * 64 < l.key || l.key + o.nbytes < x * 64 + 64))
          then some (0x12D, da.setWidth 64) else none

/-- What STASH and RESTORE complete with: the tag is taken, the source is read, and the operation runs beside the fibre. A check that fails
traps with its cause, and while the port holds the read back the fibre waits. -/
def StartsStash (s : State) (r : Host.Outcome State Fault Refusal) (stash : Bool) (o : OpM2) (source : List (Loc × Nat) → List (Loc × Nat) → List (Loc × Nat)) :
    Prop :=
  ∀ tag : Fin 64, regGroup o.s.val 6 = true → (s.getG o.d).toNat = tag.val → s.here.tags.getLsbD tag = true →
    (∀ (x : StashOp) (es bs : List (Loc × Nat)),
      stashChecks s stash (s.getRegs o.s.val 6) = .ok x →
      resolveRange s (s.party s.L) x.elems (x.n * x.esz) (if stash then .read else .write) = .ok es →
      resolveRange s (s.party s.L) x.blocks x.blockBytes (if stash then .write else .read) = .ok bs →
      (PortFree s →
        Completes r fun t =>
          GoesOn s t ∧ t.mem = s.mem ∧ (t.core s.L).tags.getLsbD tag = false ∧ OtherCores s t [s.L]
            ∧ (t.core s.L).stashes = (s.core s.L).stashes
                ++ [{ x with tag, data := (source es bs).flatMap fun (l, m) => s.view s.L l.key m, pois := poisonBytes s (source es bs) }])
      ∧ ∀ w, portGo s true true noGran = .error (.wait w) → Waits s r w)
    ∧ ∀ (c : Cause) (a x : Word), restarts c = false → stashChecks s stash (s.getRegs o.s.val 6) = .error (.trap c a x false) →
        Traps s r c a x false

/-- What the end of a STASH or RESTORE does with its operation: what it writes stands at its place, and its tag is set, with the failure of a
block that is not valid, or of its destination. -/
def EndsStash (s : State) (r : Host.Outcome State Fault Refusal) (L : Fin 6144) (tag : Fin 64) (stash : Bool) (dst : StashOp → VAddr)
    (out : StashOp → List Byte × List Bool × Bool) : Prop :=
  let mine (o : StashOp) : Bool := o.tag == tag && o.stash == stash
  let u := s.modCore L fun c => { c with stashes := c.stashes.filter fun o => !mine o }
  ∀ o : StashOp, enginesHeld s L = false → (s.core L).stashes.find? mine = some o →
    (∀ ps, resolveRange u (u.engineOf L) (dst o) (out o).1.length .write = .ok ps → s.grants = [] →
      Completes r fun t =>
        t.mem = (copyInto u ps (out o).1 (out o).2.1).mem ∧ t.poison = (copyInto u ps (out o).1 (out o).2.1).poison ∧ (∀ x ∈ (t.core L).stashes, mine x = false)
          ∧ TagSet t L tag ((out o).2.1.any id) (!(out o).2.2) (if (out o).2.2 then 0 else 0x0F6))
    ∧ ∀ c a x e, resolveRange u (u.engineOf L) (dst o) (out o).1.length .write = .error (.trap c a x e) →
      Completes r fun t => t.mem = s.mem ∧ (∀ x ∈ (t.core L).stashes, mine x = false) ∧ TagSet t L tag false true c

/-- The signed code of element j of a stash block, a number `v` of `m`-bit codes (R173). -/
def stashCodeAt (m v j : Nat) : Int := (BitVec.ofNat m (v / 2 ^ (16 + m * j))).toInt

/-- A block of 64 FP32 elements (R172–R174): SE, MODE, and the codes, rounded to nearest even or with the draws of a key, step, row and column. -/
def StashBlock (fmt : Nat) (sr : Bool) (key : Word) (step row col0 : BitVec 32) (xs : List (BitVec 32)) (b : List Byte) : Prop :=
  let m := if fmt = 2 then 3 else 7
  let v := leNat b
  let nf := xs.any fun x => expOf x == 255
  let se := if nf then 255 else max 1 (largest (xs.map expOf))
  v % 256 = se ∧ v / 256 % 256 = fmt + 4 * sr.toNat + 8 * nf.toNat ∧ v / 2 ^ (16 + 64 * m) = 0
    ∧ ∀ j, j < 64 →
      let x := xs.getD j 0
      let n := stashCodeAt m v j
      if nf then
        n = if x = 0x7F800000 then 2 ^ (m - 1) - 1 else if x = 0xFF800000 then -(2 ^ (m - 1) - 1) else if isNan32 x then -2 ^ (m - 1) else 0
      else ∀ ng k e, of32 x = .fin ng k e →
        let y : Int := e + m + 125 - se
        let u := min y (-32)
        let draw : Nat := (kweash key step row (col0 + BitVec.ofNat 32 j)).toNat
        n = min (2 ^ (m - 1) - 1) (if sr then floorShift (sgn ng k * 2 ^ (y - u).toNat + draw * 2 ^ (-32 - u).toNat) u else rneInt ng k y)

/-- The 64 FP32 elements of a stash block, or none of one that is not valid (R175). -/
def StashElements (fmt : Nat) (b : List Byte) : Prop :=
  let m := if fmt = 2 then 3 else 7
  let v := leNat b
  let se := v % 256
  let mode := v / 256 % 256
  stashDecode fmt b = if 16 ≤ mode ∨ mode % 4 ≠ fmt ∨ se = 0 ∨ (8 ≤ mode ∧ se ≠ 255) ∨ (mode < 8 ∧ se = 255) then none
    else some ((List.range 64).map fun j =>
      let n := stashCodeAt m v j
      if 8 ≤ mode then
        if n = 2 ^ (m - 1) - 1 then 0x7F800000 else if n = -(2 ^ (m - 1) - 1) then 0xFF800000
        else if n = -2 ^ (m - 1) then 0x7FC00000 else 0
      else if n = 0 then 0 else fp32Rne n ((se : Int) - 125 - m))

/-- Element i of a STASH's source, as FP32: BF16 or FP32 by the format, and +0.0 beyond the last (R171, R172). -/
def stashSource (o : StashOp) (i : Nat) : BitVec 32 :=
  if o.n ≤ i then 0
  else if o.fmt = 0 then BitVec.ofNat 32 (leNat ((o.data.drop (2 * i)).take 2) * 65536) else BitVec.ofNat 32 (leNat ((o.data.drop (4 * i)).take 4))

/-- What a STASH writes: its blocks, with poison on each block that a poisoned line of the source feeds. -/
def EncodesItsBlocks (o : StashOp) : Prop :=
  let bs := if o.fmt = 2 then 32 else 64
  let esz := if o.fmt = 0 then 2 else 4
  let nb := (o.n + 63) / 64
  o.fmt ≠ 3 → o.data.length = o.n * esz → o.pois.length = o.n * esz →
  o.encoded.1.length = nb * bs ∧ o.encoded.2.length = nb * bs
    ∧ ∀ i, i < nb →
      StashBlock o.fmt.toNat o.sr o.key o.step o.row (o.col0 + BitVec.ofNat 32 (64 * i)) ((List.range 64).map fun j => stashSource o (64 * i + j))
          ((o.encoded.1.drop (bs * i)).take bs)
        ∧ ∀ j, j < bs → o.encoded.2.getD (bs * i + j) false = ((o.pois.drop (64 * esz * i)).take (64 * esz)).any id

/-- What a RESTORE writes: the elements of the blocks before the first that is not valid; a poisoned block gives poison for its elements. -/
def DecodesItsBlocks (o : StashOp) : Prop :=
  let bs := if o.fmt = 2 then 32 else 64
  let esz := if o.fmt = 0 then 2 else 4
  let nb := (o.n + 63) / 64
  let block (i : Nat) : List Byte := (o.data.drop (bs * i)).take bs
  let bad (i : Nat) : Bool := ((o.pois.drop (bs * i)).take bs).any id
  let ok (i : Nat) : Prop := bad i = true ∨ stashDecode o.fmt.toNat (block i) ≠ none
  o.fmt ≠ 3 → o.data.length = nb * bs → o.pois.length = nb * bs → ∀ k, k ≤ nb → (∀ i, i < k → ok i) → (k < nb → ¬ok k) →
  (o.decoded.2.2 = decide (k = nb)) ∧ o.decoded.1.length = min (64 * k) o.n * esz ∧ o.decoded.2.1.length = min (64 * k) o.n * esz
    ∧ ∀ i j, i < k → j < 64 → 64 * i + j < o.n →
      (∀ x, x < esz → o.decoded.2.1.getD (esz * (64 * i + j) + x) false = bad i)
        ∧ ∀ ys, bad i = false → stashDecode o.fmt.toNat (block i) = some ys →
          (o.decoded.1.drop (esz * (64 * i + j))).take esz = leBytes esz ((ys.getD j 0).toNat / (if esz = 2 then 65536 else 1))

/-- STASH and RESTORE take a set tag, read their source, and run beside the fibre; at the end what they write stands at its place and their tag
is set, with the failure of a block that is not valid: the blocks that the codec makes, and the elements that it takes from them (R171–R175,
R418, R419). That the source is read at issue, which R245 and R419 let the engine do later, and that all is written at the end, are the
model's choice (log entry 24). -/
def Obligations.StashAndRestoreRun : Prop :=
  (∀ o : StashOp, EncodesItsBlocks o ∧ DecodesItsBlocks o)
  ∧ (∀ fmt b, fmt < 3 → StashElements fmt b)
  ∧ (∀ (s : State) (o : OpM2), StartsStash s (exec (.stash o) s) true o fun es _ => es)
  ∧ (∀ (s : State) (o : OpM2), StartsStash s (exec (.restore o) s) false o fun _ bs => bs)
  ∧ (∀ (s : State) (L : Fin 6144) (tag : Fin 64), s.ev = .stashComplete L tag →
    EndsStash s (exec .stashComplete s) L tag true (·.blocks) fun o => (o.encoded.1, o.encoded.2, true))
  ∧ ∀ (s : State) (L : Fin 6144) (tag : Fin 64), s.ev = .restoreComplete L tag →
    EndsStash s (exec .restoreComplete s) L tag false (·.elems) fun o => o.decoded

/-! ## Collectives and the tree -/

/-- What CSTART completes with: the tag is taken and the die joins the collective of its COLLID with its descriptor, or ends at once where the
collective's descriptors have been found to differ. -/
def StartsCollective (s : State) (r : Host.Outcome State Fault Refusal) (b : List Byte) (tag : Fin 64) : Prop :=
  let x := collDesc b
  Completes r fun t =>
    GoesOn s t ∧ t.mem = s.mem ∧ OtherCores s t [s.L]
      ∧ if (x.id, dieOf s.L) ∈ (s.ctx s.myCtx).collLate then
          TagSet t s.L tag false true 0x0E5 ∧ (t.ctx s.myCtx).collLate = (s.ctx s.myCtx).collLate.erase (x.id, dieOf s.L)
        else (t.core s.L).tags.getLsbD tag = false
          ∧ (t.ctx s.myCtx).colls = joinColl (s.ctx s.myCtx).colls x.id { die := dieOf s.L, core := s.L, tag, desc := b, nf := s.nfCfg }

/-- CSTART starts its die's part of a collective once the descriptor, which it reads as a load in port order, passes its checks; it traps on a
misaligned or poisoned descriptor and where a check fails, and waits at 16 collectives in flight on the die (R50, R51, R62, R420). The checks
are in the model's order where R51 and R420 print none (log entry 32). -/
def Obligations.CollectivesStart : Prop :=
  (∀ (s : State) (o : OpM2) (ps : List (Loc × Nat)) (tag : Fin 64),
    let va : VAddr := (s.getG o.s).extractLsb' 0 56
    let b := viewPieces s s.L ps
    let x := collDesc b
    let d := dieOf s.L
    va.toNat % 64 = 0 → resolveRange s (s.party s.L) va 128 .read = .ok ps → piecesGo s ps false = .ok () →
    (piecesPoisoned s ps = true → s.me.task = none → Traps s (exec (.cstart o) s) 0x120 0 0 false)
    ∧ (piecesPoisoned s ps = false → (s.getG o.d).toNat = tag.val → s.here.tags.getLsbD tag = true →
      (PortFree s → watchRange s va 128 true false = .ok () →
        x.meshOk s = true → x.layoutOk (x.num 16 8) = true → x.layoutOk (x.num 24 8) = true →
        (∀ i, i < x.rank → x.lens.getD i 1 ≠ 0) → x.bytes x.src ≤ 2 ^ 40 → x.bytes x.dst ≤ 2 ^ 40 → (∃ q ∈ x.here s, q.2 = d) →
        (∀ k ∈ (s.ctx (s.ctxNum s.L)).colls, k.id = x.id → ∀ p ∈ k.parts, p.die = d → p.done = true) → collsOn s d < 16 →
        x.reservedOk = true → (x.reduced = [] ∨ x.etype < 2) → x.ringdst = false →
        (x.srcVa.toNat + x.bytes x.src ≤ x.dstVa.toNat ∨ x.dstVa.toNat + x.bytes x.dst ≤ x.srcVa.toNat) →
        StartsCollective s (exec (.cstart o) s) b tag)
      ∧ (collChecks s s.L x = .ok () →
          (PortFree s → watchRange s va 128 true false = .ok () → StartsCollective s (exec (.cstart o) s) b tag)
          ∧ ∀ w, writeGo s noGran true = .error (.wait w) → Waits s (exec (.cstart o) s) w)
      ∧ (∀ c, collChecks s s.L x = trap0 c → restarts c = false → Traps s (exec (.cstart o) s) c 0 0 false)
      ∧ (collChecks s s.L x = wait .collective → Waits s (exec (.cstart o) s) .collective)))
  ∧ (∀ (s : State) (o : OpM2) (ps : List (Loc × Nat)) (w : Wait),
    let va : VAddr := (s.getG o.s).extractLsb' 0 56
    va.toNat % 64 = 0 → resolveRange s (s.party s.L) va 128 .read = .ok ps → piecesGo s ps false = .error (.wait w) →
    Waits s (exec (.cstart o) s) w)
  ∧ ∀ (s : State) (o : OpM2),
    let va : VAddr := (s.getG o.s).extractLsb' 0 56
    va.toNat % 64 ≠ 0 → Traps s (exec (.cstart o) s) 0x03D (va.setWidth 64) 0 false

/-- What the 32 bytes of a ready-to-receive message say (R55): COLLID, step, chunk index, destination address, length. -/
def ReadyMessage (b : List Byte) (id : BitVec 32) (step chunk : Nat) (va : VAddr) (len : Nat) : Prop :=
  b.length = 32 ∧ leNat (b.take 4) = id.toNat ∧ leNat ((b.drop 4).take 1) = step % 256 ∧ leNat ((b.drop 5).take 3) = chunk % 2 ^ 24
    ∧ leNat ((b.drop 8).take 8) = va.toNat ∧ leNat ((b.drop 16).take 4) = len

/-- A participant's chunk of `len` bytes at an address is ready: it is kept with its part, and each other module of the mesh hears of it. -/
def ReadyGoesOut (s t : State) (c : Nat) (k : Coll) (p : CollPart) (chunk : Nat) (va : VAddr) (len : Nat) : Prop :=
  let x := collDesc p.desc
  (t.ctx c).colls = [{ k with parts := [{ p with ready := p.ready ++ [chunk] }] }] ∧ t.mem = s.mem ∧ t.cores = s.cores
    ∧ ∀ m ∈ x.otherModules s, ∃ g ∈ t.outMsgs, g.dst = BitVec.ofNat 32 (m * 65536) ∧ ∃ b, g.body = .ready b
        ∧ ReadyMessage b x.id (x.steps - 1) chunk va len

/-- Chunks are made ready, are sent when another module is ready for them, and arrive, in memory and in rings (R55–R57). That a ready-to-receive
goes to every other module of the mesh, which step its byte counts, and that a chunk leaves at once when it is asked for, are the model's
choice (log entry 32). -/
def ChunksMove : Prop :=
  (∀ (s : State) (c : Fin 48) (id : BitVec 32) (d : Fin 8) (chunk : Nat) (k : Coll) (p : CollPart),
    let x := collDesc p.desc
    s.ev = .collReadyToReceive c id d chunk none → (s.ctx c).colls = [k] → k.id = id → k.agreed = true → k.parts = [p] → p.die = d.val →
    p.done = false → chunk ∉ p.got → chunk ∉ p.ready → enginesHeld s p.core = false →
    (x.ringdst = false → chunk * 0x10000 < x.bytes x.dst → Completes (exec .collReadyToReceive s) fun t =>
      ReadyGoesOut s t c k p chunk (x.dstVa + BitVec.ofNat 56 (0x10000 * chunk)) (min 0x10000 (x.bytes x.dst - 0x10000 * chunk)))
    ∧ ∀ r, r ∈ x.rings d → x.ringdst = true → (∀ r' ∈ x.rings d, slotBytes s r' = slotBytes s r) →
      chunk * slotBytes s r < x.bytes x.dst → chunk = p.got.length + p.ready.length →
      if ∀ r' ∈ x.rings d, p.ready.length < freeSlots s r' 0 then
        Completes (exec .collReadyToReceive s) fun t => ReadyGoesOut s t c k p chunk 0 (slotBytes s r)
      else exec .collReadyToReceive s = .next s)
  ∧ (∀ (s : State) (c : Fin 48) (id : BitVec 32) (d : Fin 8) (chunk : Nat) (m : Msg) (b : List Byte) (k : Coll) (p : CollPart) (q : List Nat),
    let x := k.desc
    let len := leNat ((b.drop 16).take 4)
    let i := leNat ((b.drop 5).take 3)
    let a : CollAsk := { dst := m.src, chunk := i, addr := BitVec.ofNat 56 (leNat ((b.drop 8).take 8)), len }
    let lo := (if x.ringdst then len else 0x10000) / x.esz * i
    let n := min (len / x.esz) (x.elems x.dst - lo)
    s.ev = .collReadyToReceive c id d chunk (some m) → m.body = .ready b → idModule m.src ≠ s.modNum.toNat →
    (s.ctx m.ctx).colls = [k] → m.ctx < 48 → k.id = BitVec.ofNat 32 (leNat (b.take 4)) → k.agreed = true → collRuns s k = true → k.asked = [] →
    k.served? s = false → x.coords.find? (x.idOf · == m.src) = some q → k.parts.head? = some p →
    (k.outgoing s q lo n = none → Completes (exec .collReadyToReceive s) fun t =>
      (t.ctx m.ctx).colls = [{ k with asked := [a] }] ∧ t.mem = s.mem ∧ t.outMsgs = s.outMsgs)
    ∧ ∀ runs pois, k.outgoing s q lo n = some (runs, pois) → runs ≠ [] → Completes (exec .collReadyToReceive s) fun t =>
        t.mem = s.mem ∧ (∃ g, t.outMsgs = s.outMsgs ++ [g] ∧ g.dst = m.src ∧ g.ctx = m.ctx ∧ g.body = .chunk k.id i a.addr runs pois)
          ∧ ((t.ctx m.ctx).colls = [] ∨ (t.ctx m.ctx).colls = [{ k with served := k.served ++ [a] }])
          ∧ ∀ j v bad, j < n → k.owed s q (lo + j) = true → k.elem s q (lo + j) = .known v bad →
            (bad = true → x.esz * j / 64 ∈ pois) ∧ ∃ r ∈ runs, r.1 ≤ x.esz * j ∧ x.esz * j + x.esz ≤ r.1 + r.2.length
              ∧ (r.2.drop (x.esz * j - r.1)).take x.esz = leBytes x.esz v)
  ∧ ∀ (s : State) (c : Fin 48) (id : BitVec 32) (d : Fin 8) (chunk : Nat) (data : List Byte) (pl : List Nat) (k : Coll) (p : CollPart)
      (q : List Nat) (b : List Byte) (pois : List Bool),
    let x := collDesc p.desc
    let took : List Coll := [{ k with parts := [{ p with ready := p.ready.erase chunk, got := p.got ++ [chunk] }] }]
    let arrives (n : Nat) : Prop :=
      k.piece s q (n / x.esz * chunk) (min (n / x.esz) (x.elems x.dst - n / x.esz * chunk)) data pl = some (b, pois)
    s.ev = .collChunkArrive c id d chunk data pl → (s.ctx c).colls = [k] → k.id = id → k.agreed = true → k.parts = [p] → p.die = d.val →
    chunk ∈ p.ready → (k.desc.here s).find? (·.2 == d.val) = some (q, d.val) → enginesHeld s p.core = false → true ∉ pois → s.grants = [] →
    (∀ ps, x.ringdst = false → arrives 0x10000 →
      resolveRange s (s.engineOf p.core) (x.dstVa + BitVec.ofNat 56 (0x10000 * chunk)) b.length .write = .ok ps →
      Completes (exec .collChunkArrive s) fun t => t.mem = (writePieces s none ps b).mem ∧ (t.ctx c).colls = took)
    ∧ ∀ r l i a, x.ringdst = true → x.rings d = [r] → chunk = p.got.length → arrives (slotBytes s r) → b.length ≤ slotBytes s r →
      s.Inv → s.heldWrites = [] → slotPieces s r 2 (ringHead s r + cursor s r 0) .write = .ok [(l, slotBytes s r)] →
      let slot := b ++ List.replicate (slotBytes s r - b.length) 0
      let u := s.homeWrite none l.key slot
      creditCheck u r (ringProd u r 0) (slotBytes u r) none = .ok (0, [(i, a)]) →
      (slotState u r i + 32 ≤ r.key ∨ r.key + 64 ≤ slotState u r i) →
      Completes (exec .collChunkArrive s) fun t => Stores s u l.key slot ∧ CreditsSlot u t r 0 i a ∧ (t.ctx c).colls = took

/-- A gateway's passes over a block of a group of modules, with what the other modules found: E, F and N by max, OR and max (R58); where the
policies agree, the elements by R60 from finite sums, by R61's table where a sum is not finite, and for INT32 the wrapped sum. -/
def GatewaysReduce : Prop :=
  (∀ (s : State) (c : Fin 48) (id : BitVec 32) (n : Nat) (peers : List (BitVec 8 × BitVec 8 × BitVec 32)) (k : Coll) (g : List (List Nat))
      (b : Nat),
    let all := modulePass (k.blockSums s g b) (k.nf.getLsbD 0) :: peers
    s.ev = .gatewayPassOne c id n peers → (s.ctx c).colls = [k] → k.id = id → k.agreed = true → k.desc.etype = 0 →
    k.pass1.any (·.1 == n) = false → k.block? s n = some (g, b) → peers.length + 1 = (k.desc.modules g).length → collRuns s k = true →
    ((all.any (·.2.1.getLsbD 6) && all.any (·.2.1.getLsbD 7)) = false →
      ∃ e f m, exec .gatewayPassOne s = .next (s.setColl c k { k with pass1 := k.pass1 ++ [(n, e, f, m)] })
        ∧ (∀ t ∈ all, t.1.toNat ≤ e.toNat ∧ t.2.2.toNat ≤ m.toNat)
        ∧ (∃ t ∈ all, e = t.1) ∧ (∃ t ∈ all, m = t.2.2)
        ∧ ∀ i, f.getLsbD i = all.any (·.2.1.getLsbD i))
    ∧ ((all.any (·.2.1.getLsbD 6) && all.any (·.2.1.getLsbD 7)) = true →
      Completes (exec .gatewayPassOne s) fun t =>
        (t.ctx c).colls = [] ∧ t.mem = s.mem ∧ ∀ p ∈ k.parts, p.done = false → TagSet t p.core p.tag false true 0x0E7))
  ∧ ∀ (s : State) (c : Fin 48) (id : BitVec 32) (n : Nat) (peers : List (List (BitVec 32))) (k : Coll) (g : List (List Nat)) (b : Nat),
    let P := (k.desc.modules g).length
    let sum (j : Nat) : BitVec 32 := (k.blockSums s g b).getD j 0
    let gives (t : State) (ys : List (BitVec 32)) : Prop :=
      t.mem = s.mem ∧ t.cores = s.cores ∧ ys.length = 64 ∧ (t.ctx c).colls = [{ k with pass2 := k.pass2 ++ [(n, ys)] }]
    s.ev = .gatewayPassTwo c id n peers → (s.ctx c).colls = [k] → k.id = id → k.agreed = true →
    k.pass2.any (·.1 == n) = false → k.block? s n = some (g, b) → collRuns s k = true → k.asked = [] → (∃ p ∈ k.parts, p.done = false) →
    (k.desc.etype = 1 → peers.length + 1 = P → Completes (exec .gatewayPassTwo s) fun t =>
      ∃ ys, gives t ys ∧ ∀ j, j < 64 → ys.getD j 0 = sum j + (peers.map fun p => p.getD j 0).sum)
    ∧ ∀ E F N, k.desc.etype = 0 → k.pass1.find? (·.1 == n) = some (n, E, F, N) →
      (F.extractLsb' 0 3 = 0 → peers.length + 1 = P → ∀ m, 2 ≤ P → P ≤ 2 ^ m → 2 ^ m < 2 * P → m ≤ 22 →
        let q : Nat := 24 - m
        let e : Int := (max E.toNat 1 : Nat) - 127
        Completes (exec .gatewayPassTwo s) fun t => ∃ ys, gives t ys ∧ ∀ j ng v x, j < 64 → of32 (sum j) = .fin ng v x →
          let own := max (-2 ^ (q - 1)) (min (2 ^ (q - 1) - 1) (rneInt ng v (x + ((q : Int) - 2 - e))))
          let S := own + (peers.map fun p => (p.getD j 0).toInt).sum
          ys.getD j 0 = if S = 0 then 0 else fp32Rne S (e + 2 - q))
      ∧ (F.extractLsb' 0 3 ≠ 0 → Completes (exec .gatewayPassTwo s) fun t =>
          gives t (List.replicate 64
            (if F.getLsbD 6 then 0 else if F.getLsbD 0 then N else if F.getLsbD 1 && F.getLsbD 2 then 0x7FC00003
             else if F.getLsbD 1 then 0x7F800000 else 0xFF800000))
          ∧ t.nfCnt = (if s.nfCnt = 0xFFFFFFFF then s.nfCnt else s.nfCnt + 1)
          ∧ t.dies = if k.nf.getLsbD 1 then
              (k.parts.foldl (fun u p => u.event p.die 0xFFFFFFFF 8 c (k.id.toNat + b % 2 ^ 64 * 2 ^ 64)) s).dies else s.dies)

/-- A collective in flight: its descriptors are compared and its sources read, chunks are made ready and arrive, in memory and in rings,
gateways exchange their two passes, and its end or its failure sets the tags of its participants (R52–R65). That the sources are read
when the descriptors are compared, the places of the message's fields, the count of its step, and what a collective of which other modules
still need something keeps, are the model's choice (log entry 32). -/
def Obligations.CollectivesRunAndEnd : Prop :=
  (∀ (s : State) (c : Fin 48) (id : BitVec 32) (peers : List (List Byte)) (k : Coll),
    let all := k.parts.map (·.desc) ++ peers
    let same (a b : List Byte) : Prop := a.take 50 ++ (a.drop 52).take 4 = b.take 50 ++ (b.drop 52).take 4
    s.ev = .collDescriptorCompare c id peers → s.coll? c id (!·.agreed) = some k → collRuns s k = true →
    (∃ b ∈ all, (∀ q ∈ (collDesc b).here s, k.parts.any (·.die == q.2) = true) ∧ (collDesc b).coords.length ≤ all.length) →
    ((∀ x ∈ all, ∀ y ∈ all, same x y) → k.asked = [] → ∀ ps, k.parts.mapM (readSource s) = .ok ps → (∃ p ∈ ps, p.done = false) →
      Completes (exec .collDescriptorCompare s) fun t =>
        (t.ctx c).colls = ((s.setColl c k { k with parts := ps, agreed := true }).ctx c).colls
          ∧ t.mem = s.mem ∧ t.cores = s.cores ∧ t.outMsgs = s.outMsgs)
    ∧ ((∃ x ∈ all, ∃ y ∈ all, ¬same x y) →
      Completes (exec .collDescriptorCompare s) fun t =>
        (t.ctx c).colls = (s.ctx c).colls.erase k ∧ t.mem = s.mem ∧ ((∃ p ∈ k.parts, p.done = false) → t.collAbort = true)
          ∧ (∀ p ∈ k.parts, p.done = false → TagSet t p.core p.tag false true 0x0E5)
          ∧ ∀ p ∈ k.parts, ∀ q ∈ (collDesc p.desc).here s, k.parts.any (·.die == q.2) = false → (k.id, q.2) ∈ (t.ctx c).collLate))
  ∧ ChunksMove
  ∧ GatewaysReduce
  ∧ (∀ (s : State) (c : Fin 48) (id : BitVec 32) (d : Fin 8) (k : Coll) (p : CollPart),
    let x := collDesc p.desc
    let k' : Coll := { k with parts := [{ p with done := true }] }
    s.ev = .collComplete c id d → (s.ctx c).colls = [k] → k.id = id → k.agreed = true → k.parts = [p] → p.die = d.val → p.done = false →
    enginesHeld s p.core = false → x.ringdst = false → x.bytes x.dst ≤ p.got.length * 0x10000 → x.donectr = 0 →
    Completes (exec .collComplete s) fun t =>
      TagSet t p.core p.tag false false 0 ∧ t.collSteps = s.collSteps + BitVec.ofNat 8 x.steps ∧ t.mem = s.mem ∧ OtherCores s t [p.core]
        ∧ ((t.ctx c).colls = [] ∨ (t.ctx c).colls = [k']) ∧ (x.otherModules s = [] → k.asked = [] → (t.ctx c).colls = [])
        ∧ (k.served? s = false → (t.ctx c).colls = [k']))
  ∧ ∀ (s : State) (c : Fin 48) (id : BitVec 32) (cause : Cause) (k : Coll),
    s.ev = .collFail c id cause → s.coll? c id (fun _ => true) = some k →
    Completes (exec .collFail s) fun t =>
      (t.ctx c).colls = (s.ctx c).colls.erase k ∧ t.mem = s.mem ∧ ((∃ p ∈ k.parts, p.done = false) → t.collAbort = true)
        ∧ ∀ p ∈ k.parts, p.done = false → TagSet t p.core p.tag false true cause

/-- A round of the tree whose members have all contributed gives each member, or the first one, its result, or the cause of a disagreement; a
result that waited enters a TREE_OUT with room (R67–R71). -/
def Obligations.TreeRoundsEnd : Prop :=
  (∀ (s : State) (c : Fin 48) (r : TreeRound) (rest : List TreeRound) (L0 : Nat) (w : Word) (ws : List (Nat × Word)) (L : Nat),
    s.ev = .treeRoundComplete c → (s.ctx c).rounds = r :: rest → roundDone r = true → r.words = (L0, w) :: ws → r.members.Nodup →
    L ∉ r.gone → (s.core L).treeOut.length < 4 → (s.core L).treeHeld = [] →
    let agree := treeSeqOf w = r.seq ∧ ∀ x ∈ ws, x.2.extractLsb' 32 16 = w.extractLsb' 32 16
    Completes (exec .treeRoundComplete s) fun t =>
      t.mem = s.mem
        ∧ (r.lost = true → L ∈ r.members → (t.core L).treeOut = (s.core L).treeOut ++ [{ word := treeResult 0 r.seq true, cause := 0x0EC }])
        ∧ (r.lost = false → ¬agree → L ∈ r.members →
            (t.core L).treeOut = (s.core L).treeOut ++ [{ word := treeResult 0 r.seq true, cause := 0x0EB }])
        ∧ (r.lost = false → agree →
            let v := (treeFold (treeOp w) (treeType w) r.words 0 13).getD 0
            if (treeBcast w = true ∧ L ∈ r.members) ∨ r.members.head? = some L then
              (t.core L).treeOut = (s.core L).treeOut ++ [{ word := treeResult v r.seq false }]
            else (t.core L).treeOut = (s.core L).treeOut))
  ∧ ∀ (s : State) (L : Fin 6144) (e : TreeEntry) (r : List TreeEntry),
    s.ev = .treeResultDeliver L → (s.core L).treeHeld = e :: r → (s.core L).treeOut.length < 4 →
    exec .treeResultDeliver s = .next (s.modCore L fun c => { c with treeOut := c.treeOut ++ [e], treeHeld := r })

/-! ## Accesses and the barrel -/

/-- The plane that a queued atomic was issued on, where it is still there. -/
def AtomicPlane (s : State) (g : Grant) (o : AtomicOp) (p : Plane) : Prop :=
  p = { L := g.core, f := g.fibre, sh := o.shadow } ∧ (s.core g.core).hasFib g.fibre = true

/-- A queued reservation that nothing stands before is granted: an LR's read is bound, or traps where its granule has been poisoned meanwhile,
and an atomic holds its grant, then writes as one write and releases; an LR held too long is revoked; and an access completes with its value
in its register (R182, R241, R363, R368). -/
def Obligations.ReservationsAreGrantedWrittenAndEnd : Prop :=
  (∀ (s : State) (g : Grant) (o : AtomicOp) (p : Plane),
    s.ev = .reservationGrant g.gran → s.arriving? (8 * g.gran) = false → s.grants = [g] → g.granted = false → g.away = false →
    g.op = some o → AtomicPlane s g o p →
    Completes (exec .reservationGrant s) fun t =>
      let g' := { g with granted := true, since := (s.die (homeDie (8 * g.gran))).cycle.toNat }
      if o.form = .lr then
          if s.poisoned o.key o.size = true then
            t.grants = [] ∧ (((s.core g.core).fib g.fibre).task = none → p.status t = .parked)
          else
            t.mem = s.mem ∧ t.grants = [{ g' with op := none }] ∧ p.status t = .waiting .access
              ∧ p.pend t = some { dst := o.dst, value := BitVec.ofNat 64 (leNat (s.view g.core o.key o.size)), pc := o.iss.pc, va := o.va }
        else t = { s with grants := [g'] })
  ∧ (∀ (s : State) (g : Grant) (o : AtomicOp) (p : Plane) (bs : List Byte) (old : Word) (st : Sticky),
    s.ev = .atomicReleaseWrite g.gran → s.Inv → s.grants = [g] → g.granted = true → g.op = some o → s.heldWrites = [] →
    AtomicPlane s g o p → atomicResult s o = .ok (bs, old, st) →
    Completes (exec .atomicReleaseWrite s) fun t =>
      Stores s t o.key bs ∧ t.grants = [] ∧ OtherCores s t [g.core] ∧ p.status t = .waiting .access
        ∧ p.pend t = some { dst := o.dst, value := old, pc := o.iss.pc, va := o.va } ∧ p.flags t = p.flags s ||| st.bits)
  ∧ (∀ (s : State) (g : Grant),
    s.ev = .reservationTimeout g.gran → s.grants = [g] → g.granted = true → g.op = none → s.heldWrites = [] →
    let d := s.die (homeDie (8 * g.gran))
    g.since + 2 ^ d.rsvTmo.toNat ≤ d.cycle.toNat →
    Completes (exec .reservationTimeout s) fun t =>
      t.grants = [] ∧ t.mem = s.mem ∧ OtherCores s t [g.core] ∧ ((t.core g.core).fib g.fibre).rsv = none
        ∧ ((t.core g.core).fib g.fibre).lost = true)
  ∧ ∀ (s : State) (L : Fin 6144) (f : BitVec 12) (p : Pending),
    let x := (s.core L).fib f.toNat
    s.ev = .accessComplete L f → f ≠ 0 → x.status = .waiting .access → x.pend = some p →
    Completes (exec .accessComplete s) fun t =>
      let y := (t.core L).fib f.toNat
      OtherCores s t [L] ∧ t.mem = s.mem ∧ y.pend = none ∧ y.pc = x.pc ∧ y.flags = x.flags
        ∧ match p.dst with
          | none => y.status = .ready ∧ y.a = x.a
          | some d =>
            if d.val < 8 then y.status = .ready ∧ ∀ i, i < 8 → y.a.getD i 0 = if i = d.val then p.value else x.a.getD i 0
            else y.status = .writeback ∧ y.a = x.a
              ∧ ∃ w, (t.core L).wb = (s.core L).wb ++ [w] ∧ w.value = p.value ∧ w.reg.val + 8 = d.val ∧ w.fibre = f.toNat

/-- A wait whose condition holds ends; a free slot takes the next fibre of the run queue; a spilled fibre returns; a fibre is pre-empted by a higher
priority or after its quantum; and a writeback that is due reaches its register (R181–R183, R186, R206, R207, R288, R348). That a spilled
fibre returns with what its spill record then holds of its registers, priority and bindings, and with its state otherwise as it was, is the
model's choice (log entry 12). -/
def Obligations.WaitsEndAndSlotsAreFilled : Prop :=
  (∀ (s : State) (L : Fin 6144) (f : BitVec 12),
    s.ev = .waitWake L f → f ≠ 0 → canWake s L f.toNat = true →
    Completes (exec .waitWake s) fun t =>
      let x := (s.core L).fib f.toNat
      let y := (t.core L).fib f.toNat
      OtherCores s t [L] ∧ t.mem = s.mem ∧ y.status = .ready ∧ y.since = s.cycleOf L ∧ y.pc = x.pc ∧ y.a = x.a ∧ y.flags = x.flags
        ∧ (t.core L).slots = (s.core L).slots)
  ∧ (∀ (s : State) (L : Fin 6144) (i : Fin 6) (f : Nat),
    s.ev = .slotFill L → (s.core L).held = false → (s.core L).freeWorker = some i → (s.core L).nextFibre = some f →
    Completes (exec .slotFill s) fun t =>
      OtherCores s t [L] ∧ t.mem = s.mem ∧ (t.core L).slots.get i = some f
        ∧ (∀ j, j ≠ i → (t.core L).slots.get j = (s.core L).slots.get j)
        ∧ ((t.core L).fib f).quantum = 0 ∧ ((t.core L).fib f).pc = ((s.core L).fib f).pc
        ∧ (((s.core L).fibres.map (·.1)).Nodup → ∀ g x, g ≠ f → (g, x) ∈ (s.core L).fibres → (s.core L).queued g x = true → x.prio.toNat ≤ ((s.core L).fib f).prio.toNat))
  ∧ (∀ (s : State) (L : Fin 6144) (f : BitVec 12) (b : List Byte),
    let x := (s.core L).fib f.toNat
    s.ev = .fibreRefill L f → x.spilled = true → x.status = .ready → (s.core L).rqUse < 256 →
    (readVa s (s.engineOf L) (spillAddr s L f.toNat) 224 = .ok (b, false) → Completes (exec .fibreRefill s) fun t =>
      let y := (t.core L).fib f.toNat
      let w (i : Nat) : Nat := leNat ((b.drop (8 * i)).take 8)
      OtherCores s t [L] ∧ t.mem = s.mem ∧ y.spilled = false ∧ y.status = .ready ∧ y.task = x.task ∧ y.rsv = x.rsv
        ∧ y.pc.toNat = w 0 % 2 ^ 56 / 2 * 2 ∧ (∀ i, i < 8 → y.a.getD i 0 = BitVec.ofNat 64 (w (1 + i)))
        ∧ (∀ i, y.flags.getLsbD i = ((w 9).testBit i && decide (i < 4 ∨ i = 8 ∨ i = 9 ∨ i = 10))) ∧ y.prio.toNat = w 10 / 2 ^ 12 % 4
        ∧ (∀ i, i < 4 → y.f.getD i 0 = BitVec.ofNat 64 (w (16 + i)) ∧ y.c.getD i 0 = BitVec.ofNat 64 (w (20 + i)))
        ∧ ∀ i : Fin 16, let h := leNat ((b.drop (96 + 2 * i.val)).take 2)
            y.h.get i = if h / 2 ^ 15 % 2 = 1 then some (BitVec.ofNat 12 h) else none)
    ∧ (readVa s (s.engineOf L) (spillAddr s L f.toNat) 224 = .ok (b, true) → exec .fibreRefill s = .next (s.fatal L 0x173)))
  ∧ (∀ (s : State) (L : Fin 6144) (f : Nat),
    s.ev = .preemptPriority L → (s.core L).outranked = some f → 2 ≤ f →
    Completes (exec .preemptPriority s) fun t =>
      OtherCores s t [L] ∧ t.mem = s.mem ∧ (t.core L).slotOf f = none ∧ ((t.core L).fib f).pc = ((s.core L).fib f).pc
        ∧ ((t.core L).fib f).status = ((s.core L).fib f).status ∧ ((t.core L).fib f).quantum = 0
        ∧ (((s.core L).fib f).status = .ready → ((t.core L).fib f).reason = 0x154))
  ∧ (∀ (s : State) (L : Fin 6144) (slot : Fin 8) (f : Nat),
    s.ev = .preemptQuantum L slot → (s.core L).overQuantum slot = some f → 2 ≤ f →
    Completes (exec .preemptQuantum s) fun t =>
      OtherCores s t [L] ∧ t.mem = s.mem ∧ (t.core L).slotOf f = none ∧ ((t.core L).fib f).pc = ((s.core L).fib f).pc
        ∧ ((t.core L).fib f).status = ((s.core L).fib f).status ∧ ((t.core L).fib f).quantum = 0
        ∧ (((s.core L).fib f).status = .ready → ((t.core L).fib f).reason = 0x155))
  ∧ ∀ (s : State) (L : Fin 6144) (w : Writeback), s.ev = .registerWriteback L → (s.core L).wb = [w] →
    (w.due < s.cycleOf L →
      Completes (exec .registerWriteback s) fun t =>
        OtherCores s t [L] ∧ t.mem = s.mem ∧ (t.core L).wb = [] ∧ (t.core L).s.get w.reg = w.value
          ∧ (∀ r, r ≠ w.reg → (t.core L).s.get r = (s.core L).s.get r)
          ∧ (w.shadow = false → ((s.core L).fib w.fibre).status = .writeback → ((t.core L).fib w.fibre).status = .ready)
          ∧ (w.shadow = true → (s.core L).shadowSt = .writeback → (t.core L).shadowSt = .ready))
    ∧ (s.cycleOf L ≤ w.due →
      Completes (exec .registerWriteback s) fun t =>
        OtherCores s t [L] ∧ t.mem = s.mem ∧ (t.core L).wb = [w] ∧ (t.core L).s = (s.core L).s ∧ (t.core L).fibres = (s.core L).fibres)

/-- The urgent fibre takes the lowest pending enabled event at CORE_UVEC with its PC, its flags and its idleness saved; a rotation's end opens the next
one and counts each slot's class; a trap parks its fibre with a record (R188, R189, R277, R296–R298). That an access in flight which is no load,
an LR's among them, completes at the delivery (R189 names the atomic) is the model's choice (log entry 28). -/
def Obligations.UrgentDeliveryRotationsAndTraps : Prop :=
  (∀ (s : State) (L : Fin 6144) (k : Nat),
    let c := s.core L
    s.ev = .urgentDelivery L → c.deliverable = true → (s.ctxOfCore L).isSome = true → c.urgentEvent = some k →
    Completes (exec .urgentDelivery s) fun t =>
      let d := t.core L
      OtherCores s t [L] ∧ t.mem = s.mem ∧ (d.fib 0).pc = c.uvec.setWidth 56 ∧ (d.fib 0).status = .ready ∧ d.idle = false
        ∧ d.uctl = c.uctl &&& ~~~1#64 ∧ d.uefl = (c.fib 0).flags ∧ d.uepc.extractLsb' 0 56 = (c.fib 0).resumePc
        ∧ d.uepc.getLsbD 56 = c.idle ∧ (d.uepc.extractLsb' 57 2).toNat = k ∧ d.s = c.s
        ∧ ((c.fib 0).status ≠ .waiting .access → (d.fib 0).a = (c.fib 0).a)
        ∧ (∀ p, (c.fib 0).status = .waiting .access → (c.fib 0).pend = some p →
            (p.load = true ∨ p.dst = none → (d.fib 0).a = (c.fib 0).a)
            ∧ ∀ r, p.load = false → p.dst = some r → r.val < 8 → (d.fib 0).a = (c.fib 0).a.setIfInBounds r.val p.value)
        ∧ (∀ i, i < k → (c.upend.getLsbD i && c.uctl.getLsbD (i + 1)) = false)
        ∧ c.upend.getLsbD k = true ∧ c.uctl.getLsbD (k + 1) = true ∧ c.uctl.getLsbD 0 = true)
  ∧ (∀ (s : State) (L : Fin 6144), s.ev = .rotationEnd L →
    Completes (exec .rotationEnd s) fun t =>
      let c := s.core L
      let d := t.core L
      OtherCores s t [L] ∧ t.mem = s.mem ∧ d.issued = 0 ∧ d.fibres = c.fibres ∧ d.slots = c.slots
        ∧ (c.pfClr = false → c.pfRun = true → c.stopped = false → c.halted = false →
            ∀ slot, slot < 8 → spGet d.sc (4 * slot + c.slotClass slot) 0
              = (let v := spGet c.sc (4 * slot + c.slotClass slot) 0; if v = BitVec.allOnes 64 then v else v + 1))
        ∧ (c.pfRun = false → c.pfClr = false → d.sc = c.sc ∧ d.rdyh = c.rdyh))
  ∧ (∀ (s : State) (L : Fin 6144), s.ev = .corePfctlClr L → s.recovery = false →
    exec .corePfctlClr s = .next (s.modCore L fun c => { c with pfClr := true }))
  ∧ ∀ (s : State) (L : Fin 6144) (slot : Fin 8) (cause : Cause) (eng : Bool) (addr aux : Word) (f : Nat),
    s.ev = .trap L slot cause eng addr aux → s.cur.core = L.val → s.cur.slot = slot.val → 1 ≤ slot.val → slot.val ≤ 6 →
    (s.core L).inSlot slot = some f → 2 ≤ f → ((s.core L).fib f).status ≠ .parked → restarts cause = false →
    Completes (exec .trap s) fun t =>
      let x := (s.core L).fib f
      let y := (t.core L).fib f
      y.status = .parked ∧ y.pc = x.pc ∧ y.a = x.a ∧ y.flags = x.flags ∧ y.h = x.h ∧ (t.core L).s = (s.core L).s
        ∧ y.trap.map (fun r => (r.cause, r.eng, r.addr, r.aux, r.pc, r.word, r.npfx))
            = some (cause, eng, addr, aux, s.cur.pc, s.cur.word, s.cur.npfx)

/-- Host writes of CORE_UPEND, CORE_TREE, CORE_SPLIT, CORE_COURIER and CORE_INBOX have their registers' effects (R70, R188, R192, R213, R214,
R374). -/
def Obligations.HostWritesOfCoreRegisters : Prop :=
  (∀ (s : State) (L : Fin 6144) (v : Word), s.ev = .coreUpendWrite L v → s.recovery = false →
    exec .coreUpendWrite s
      = .next (s.modCore L fun c => { c with upTimer := c.upTimer && !v.getLsbD 1, upSoft := v.getLsbD 3 }))
  ∧ (∀ (s : State) (L : Fin 6144) (v : Word), s.ev = .coreTreeWrite L v → s.recovery = false →
    exec .coreTreeWrite s
      = .next (if treePend s L = true ∨ treeOwe s L = true then s else s.modCore L fun c => { c with treeJoin := v.getLsbD 0 }))
  ∧ (∀ (s : State) (L : Fin 6144) (v : Word), s.ev = .coreSplitWrite L v → s.recovery = false → s.Inv →
    let c := s.core L
    let d := v.toNat % 16
    if 8 < d ∨ tcmPins s L ≠ [] ∨ c.locks ≠ [] ∨ (∃ e ∈ c.fibres, ∃ b ∈ e.2.h.toList, b ≠ none) then
      exec .coreSplitWrite s = .next (s.modCore L fun c => { c with split := c.split ||| 0x10 })
    else Completes (exec .coreSplitWrite s) fun t =>
      (t.core L).split.toNat = d ∧ OtherCores s t [L]
        ∧ (∀ o, min d c.direct * 0x8000 ≤ o → o < max d c.direct * 0x8000 → memGet t.mem (tcmKey L o) = 0)
        ∧ ∀ k, (∀ o, min d c.direct * 0x8000 ≤ o → o < max d c.direct * 0x8000 → k ≠ tcmKey L o) → memGet t.mem k = memGet s.mem k)
  ∧ (∀ (s : State) (L : Fin 6144) (v : Word), s.ev = .coreCourierWrite L v → s.recovery = false →
    let c := s.core L
    let e := v &&& 0xFFFFFFFFFFFFFE
    if c.courierCmd = none ∧ (∃ q, (c.fib 1).status = .waiting (.mailboxFull q)) ∧ c.mailEmpty = true then
      s.grants = [] → Completes (exec .coreCourierWrite s) fun t =>
        t.mem = s.mem ∧ (t.core L).courierNext = none
          ∧ (t.core L).courier = (c.courierNext.getD c.courier &&& ~~~0xFFFFFFFFFFFFFE#64) ||| e
          ∧ ((t.core L).fib 1).a = Vector.replicate 8 0 ∧ ((t.core L).fib 1).flags = 0 ∧ (t.core L).courierTask = none
          ∧ OtherCores s t [L]
    else exec .coreCourierWrite s
      = .next (s.modCore L fun c => { c with courierNext := some ((c.courierNext.getD c.courier &&& ~~~0xFFFFFFFFFFFFFE#64) ||| e) }))
  ∧ ∀ (s : State) (L : Fin 6144) (v : Word), s.ev = .coreInboxWrite L v → s.recovery = false → (s.core L).inbox.getLsbD 0 = false → v.getLsbD 0 = true →
    let base := v.toNat % 2 ^ 18 / 128 * 128
    let log2 := v.toNat / 4 % 16
    Completes (exec .coreInboxWrite s) fun t =>
      OtherCores s t [L] ∧ t.mem = s.mem
        ∧ if 11 < log2 ∨ (s.core L).directBytes < base + 128 * 2 ^ log2 then
            (t.core L).inbox.getLsbD 0 = false ∧ (t.core L).inbox.getLsbD 1 = true
          else
            (t.core L).inbox.getLsbD 0 = true ∧ (t.core L).inbox.getLsbD 1 = false ∧ (t.core L).inHead = 0 ∧ (t.core L).inTail = 0
              ∧ (t.core L).inBase = base ∧ (t.core L).inLog2 = log2

/-! ## Messages, tasks and books -/

/-- The only message in flight is at its target, which may take it, and no write waits at any home. -/
def Arrives (s : State) (i : Nat) (m : Msg) (T : Nat) : Prop :=
  s.msgs = [m] ∧ m.id = i ∧ s.localCore m.dst = some T ∧ (s.core T).fenced = false ∧ arrivalCtx s m T = none
    ∧ s.grants = [] ∧ s.heldWrites = []

/-- A status goes back to the sender of a message: inside the module, or to another one. -/
def Answers (s t : State) (m : Msg) (v : Word) : Prop :=
  ∃ a : Msg, a.dst = m.src ∧ a.body = .status m.fibre v ∧
    if s.foreign m then t.outMsgs = s.outMsgs ++ [a] ∧ t.msgs = [] else t.msgs = [a] ∧ t.outMsgs = s.outMsgs

/-- A stored message's bytes stand at its home, a signal adds to its counter, an append enters the inbox and answers, a credit counts in its
ring, a matrix command is queued, a status reaches its fibre, and what another module has discarded enters the fault queue; a fenced target
takes nothing (R103, R118, R365, R373–R375, R413, R423). That a message which is discarded has been counted at its target (R292 counts a
message when it is applied), and where the report on one that another module refused is entered, are the model's choice (log entries 25
and 22). -/
def Obligations.MessagesArrive : Prop :=
  (∀ (s : State) (i : Nat) (m : Msg) (T : Nat) (va : VAddr) (k : Nat) (bs : List Byte),
    s.ev = .remoteStoreArrive i → Arrives s i m T → m.body = .store va k bs → s.Inv → boundAt s T k bs.length = none →
    Completes (exec .remoteStoreArrive s) fun t =>
      Stores s t k bs ∧ t.msgs = [] ∧ OtherCores s t [T]
        ∧ (t.core T).msgRx = (s.core T).msgRx + (if idCore m.src = idCore (s.coreId T 0) ∨ s.foreign m = true then 0 else 1))
  ∧ (∀ (s : State) (i : Nat) (m : Msg) (T : Nat) (off : BitVec 18) (inc : BitVec 32),
    s.ev = .sigincArrive i none → Arrives s i m T → m.body = .siginc off inc → s.Inv → off.toNat < (s.core T).directBytes →
    Completes (exec .sigincArrive s) fun t =>
      Stores s t (tcmKey T off.toNat) (leBytes 4 (s.rd (tcmKey T off.toNat) 4 + inc.toNat)) ∧ t.msgs = [] ∧ OtherCores s t [T])
  ∧ (∀ (s : State) (i : Nat) (m : Msg) (T : Nat) (off : BitVec 18) (n others : Nat) (task : Option VAddr) (dead : Bool),
    s.ev = .ringCreditArrive i none → Arrives s i m T → m.body = .credit off n task dead others →
    let v := { s with msgs := [] }.countMsg m T
    (dead = true → exec .ringCreditArrive s = .next v)
    ∧ (dead = false → ringValid v ⟨T, off.toNat⟩ = false → exec .ringCreditArrive s = .next (discard v m 0x070 (off.setWidth 64) T))
    ∧ (∀ u, dead = false → remoteCredit v m ⟨T, off.toNat⟩ n task others = .ok u → exec .ringCreditArrive s = .next u)
    ∧ ∀ c, dead = false → remoteCredit v m ⟨T, off.toNat⟩ n task others = .error c →
      exec .ringCreditArrive s = .next (discard v m c (off.setWidth 64) T))
  ∧ (∀ (s : State) (m : Msg) (r : Ring) (n k others : Nat) (t : VAddr) (i b : Nat),
    ringValid s r = true → s.foreign m = true → prodIndex s r m.src = some n → 0 < k → k ≤ freeSlots s r n → k ≤ ringSlots s r →
    (creditPlan s r n (ringHead s r) (advtBytes s r n k) (ringSlots s r)).1 = [(i, b)] → 64 ≤ others + (s.awayOf m.src t).length →
    (∀ h ∈ s.awayOf m.src t, h.core = r.core → h.desc = r.off → h.slot.toNat ≠ i % 2 ^ 32) →
    remoteCredit s m r k (some t) others = .error 0x075)
  ∧ (∀ (s : State) (i : Nat) (m : Msg) (T : Nat) (ws : List Word),
    s.ev = .appendArrive i none → Arrives s i m T → m.body = .append ws → ws.length ≤ 8 → s.Inv →
    (s.core T).inEn = true → (s.core T).inCount < 2 ^ (s.core T).inLog2 →
    Completes (exec .appendArrive s) fun t =>
      Stores s t (inEntry (s.core T) T (s.core T).inTail) (inboxBytes m ws) ∧ (t.core T).inTail = (s.core T).inTail + 1
        ∧ OtherCores s t [T] ∧ Answers s t m 0)
  ∧ (∀ (s : State) (i : Nat) (m : Msg) (T : Nat) (cmd : MatCmd) (key : BitVec 32),
    s.ev = .mmrcArrive i none → Arrives s i m T → m.body = .mmrc cmd key →
    let st := mmrcStatus (s.core T) cmd key
    Completes (exec .mmrcArrive s) fun t =>
      t.mem = s.mem ∧ OtherCores s t [T] ∧ Answers s t m (st.setWidth 64)
        ∧ if st = 0 then
            (t.core T).matQ = (s.core T).matQ ++ [{ cmd with fibre := ((s.core T).mmcap.extractLsb' 36 12).toNat }]
              ∧ (t.core T).mmcap = (s.core T).mmcap - 0x0001000000000000
          else (t.core T).matQ = (s.core T).matQ ∧ (t.core T).mmcap = (s.core T).mmcap)
  ∧ (∀ (s : State) (i : Nat) (m : Msg) (L f : Nat) (v : Word) (p : Pending) (d : GReg),
    s.ev = .appendStatusReturn i none → s.msgs = [m] → m.id = i → s.localCore m.dst = some L → (s.core L).fenced = false →
    m.body = .status f v → f ≠ 0 → ((s.core L).fib f).status = .waiting .status → ((s.core L).fib f).pend = some p → p.dst = some d →
    Completes (exec .appendStatusReturn s) fun t =>
      t.mem = s.mem ∧ t.msgs = [] ∧ OtherCores s t [L] ∧ ((t.core L).fib f).pend = none
        ∧ if d.val < 8 then ((t.core L).fib f).status = .ready ∧ ((t.core L).fib f).a.getD d.val 0 = v
          else ((t.core L).fib f).status = .writeback
            ∧ (t.core L).wb.any (fun w => decide (w.reg.val + 8 = d.val) && w.value == v && w.fibre == f) = true)
  ∧ (∀ (s : State) (i : Nat) (m : Msg) (L : Nat) (cause : Cause) (eng : Bool) (addr aux : Word),
    s.ev = .appendStatusReturn i none → s.msgs = [m] → m.id = i → s.localCore m.dst = some L → (s.core L).fenced = false →
    m.body = .refused cause eng addr aux →
    let u := { s with msgs := [] }
    exec .appendStatusReturn s = .next (u.fqSend m.ctx (nofibEntry u m.ctx cause eng m.dst m.fibre m.pc addr aux (dieOf L))))
  ∧ ∀ (s : State) (i : Nat) (m : Msg) (T : Nat), s.msgs = [m] → m.id = i → s.localCore m.dst = some T → (s.core T).fenced = true →
    (∀ L, s.localCore m.src = some L → (s.core L).fenced = false) →
    (s.ev = .remoteStoreArrive i → exec .remoteStoreArrive s = .next s)
    ∧ (s.ev = .sigincArrive i none → exec .sigincArrive s = .next s)
    ∧ (s.ev = .appendArrive i none → exec .appendArrive s = .next s)
    ∧ (s.ev = .ringCreditArrive i none → exec .ringCreditArrive s = .next s)
    ∧ (s.ev = .mmrcArrive i none → exec .mmrcArrive s = .next s)

/-- The core holds every entry of its deques itself: none is spilled. -/
def Unspilled (c : Core) : Prop := ∀ p, p < 4 → (c.dq p).length ≤ c.hw p

/-- A dispatch pins a fitting task's footprint, keeps what it read of the record, its list and its format-and-scale block, and starts the fetch;
the fetch's end starts its fibre with the record's entry and arguments, and a fetch that faults waits for its mapping; thieves take the first
entry that fits them, and a deep deque gives to its shallowest neighbour (R138, R147–R151, R226). That an entry whose footprint cannot be read
counts as one that fits, so that it goes on to the check that fails it (log entry 11), and that a thief keeps which victims it has tried (log
entry 26), are the model's choice. -/
def Obligations.TasksAreDispatchedStolenAndBalanced : Prop :=
  (∀ (s u : State) (L : Fin 6144) (c : Nat) (e : DqEntry) (x : TRec) (rs : List Region) (fs : List Byte) (pins : List Pin) (m : Nat),
    s.ev = .taskDispatch L → taskCtx s L = some c → restarted s c L = none →
    (s.core L).ahead < (s.core L).aheadMax → hasEntry s L = true → pick s c L ((s.core L).order false) = (u, some e) →
    (u.core L).task? e.recAddr = none →
    let v := (spillAll u L).modCore L fun k => { k with tasks := k.tasks ++
      [{ recAddr := e.recAddr, launch := u.launchOf e.recAddr, prio := BitVec.ofNat 2 e.eff, phase := .dispatching,
         book := u.bookOf (u.launchOf e.recAddr) }] }
    let w := setRecState v c e.recAddr 3
    readTask w c L e.recAddr = .ok (x, rs, fs) → placeOn w c L rs = some (pins, m) →
    Completes (exec .taskDispatch s) fun t => ∃ k : Task,
      (t.core L).task? e.recAddr = some k ∧ k.phase = .fetching ∧ k.pins = pins ∧ k.pinMap = m ∧ k.fibre = none
        ∧ k.raw = x.raw ∧ k.srcs = rs.map (fun r => (r.src, r.len, r.scratch)) ∧ k.fs = fs)
  ∧ (∀ (s u : State) (L : Fin 6144) (r : VAddr) (k : Task) (c : Nat),
    let x : TRec := { raw := k.raw }
    s.ev = .footprintFetchDone L r → (s.core L).task? r = some k → k.phase = .fetching → s.ctxOfCore L = some c → enginesHeld s L = false →
    fetchRegions s L k.srcs k.pins = .ok (u, false) → (s.core L).fibres.length < fibreLimit s L →
    (u.core L).rqUse < 256 → (u.core L).fibres.length < 4094 →
    Completes (exec .footprintFetchDone s) fun t => ∃ f, 2 ≤ f ∧ f < 4096 ∧ (u.core L).hasFib f = false ∧ (t.core L).hasFib f = true
      ∧ ((t.core L).fib f).pc = x.entry ∧ ((t.core L).fib f).task = some k.recAddr ∧ ((t.core L).fib f).prio = k.prio
      ∧ ((t.core L).fib f).a.getD 0 0 = x.arg 0 ∧ ((t.core L).fib f).a.getD 1 0 = x.arg 1
      ∧ ((t.core L).fib f).a.getD 2 0 = x.arg 2 ∧ ((t.core L).fib f).a.getD 3 0 = x.arg 3
      ∧ ((t.core L).fib f).a.getD 4 0 = k.recAddr.setWidth 64 ∧ ((t.core L).fib f).flags = 0 ∧ ((t.core L).fib f).status = .ready
      ∧ (∀ i, i < 4 → ((t.core L).fib f).f.getD i 0 = BitVec.ofNat 64 (leNat ((k.fs.drop (8 * i)).take 8)))
      ∧ t.mem = u.mem)
  ∧ (∀ (s : State) (L : Fin 6144) (r : VAddr) (k : Task) (c : Nat) (cause : Cause) (a b : Word) (g : Bool),
    s.ev = .footprintFetchFault L r → (s.core L).task? r = some k → k.phase = .fetching → s.ctxOfCore L = some c → enginesHeld s L = false →
    fetchRegions s L k.srcs k.pins = .error (.trap cause a b g) →
    Completes (exec .footprintFetchFault s) fun t => ∃ j : Task,
      (t.core L).task? r = some j ∧ j.phase = .faulted ∧ j.waitVa = a.setWidth 56 ∧ j.pins = k.pins)
  ∧ (∀ (s : State) (L : Fin 6144), s.ev = .stealAnnounce L →
    Completes (exec .stealAnnounce s) fun t =>
      t.mem = s.mem ∧ (t.core L).announced = (s.core L).deques.toList.any (fun l => !l.isEmpty) ∧ (t.core L).deques = (s.core L).deques)
  ∧ (∀ (s : State) (thief victim : Fin 6144), s.ev = .stealRequest thief victim → nextVictim s thief = some victim.val → thief ≠ victim →
    let c := s.ctxNum thief
    match ((s.core victim).order true).find? fun x => chargesFit s c thief (queuedFootprint s c victim x.2.2.recAddr) with
    | none =>
      exec .stealRequest s = .next (s.modCore thief fun k => { k with stealIn := some none, stealTried := k.stealTried ++ [victim.val] })
    | some (p, _, e) =>
      Completes (exec .stealRequest s) fun t =>
        (t.core thief).stealIn = some (some e) ∧ OtherCores s t [thief, victim]
          ∧ (Unspilled (s.core victim) → (t.core victim).deques = ((s.core victim).removeEntry p e.recAddr).deques))
  ∧ (∀ (s : State) (thief : Fin 6144) (e : DqEntry), s.ev = .stealReply thief → (s.core thief).stealIn = some (some e) →
    Unspilled (s.core thief) →
    Completes (exec .stealReply s) fun t =>
      (t.core thief).stealIn = none ∧ (t.core thief).dq e.prio.toNat = e :: (s.core thief).dq e.prio.toNat ∧ OtherCores s t [thief]
        ∧ ∀ p, p ≠ e.prio.toNat → (t.core thief).dq p = (s.core thief).dq p)
  ∧ (∀ (s : State) (L : Fin 6144) (c m : Nat) (e : DqEntry) (l : List DqEntry),
    s.ev = .balanceStep L → taskCtx s L = some c → (s.core L).deques = #v[l ++ [e], [], [], []] →
    Unspilled (s.core L) →
    (l ++ [e]).all (fun x => holdable s c (queuedFootprint s c L x.recAddr)) = true → (l.all fun x => x.recAddr != e.recAddr) = true →
    shallowest s 0 (neighbours s c L) = some m → m ≠ L.val → (s.core L).bal.extractLsb' 0 8 ≠ 0 →
    ((s.core m).dq 0).length + ((s.core L).bal.extractLsb' 0 8).toNat < l.length + 1 →
    Completes (exec .balanceStep s) fun t =>
      (t.core L).dq 0 = l ∧ (t.core m).balIn = (s.core m).balIn ++ [e] ∧ (t.core m).deques = (s.core m).deques ∧ OtherCores s t [L, m])
  ∧ ∀ (s : State) (L : Fin 6144) (e : DqEntry) (r : List DqEntry), s.ev = .balanceEntryArrive L → (s.core L).balIn = e :: r →
    Unspilled (s.core L) →
    Completes (exec .balanceEntryArrive s) fun t =>
      (t.core L).balIn = r ∧ (t.core L).dq e.prio.toNat = (s.core L).dq e.prio.toNat ++ [e] ∧ OtherCores s t [L]

/-- A book's entry launches when its credits and its stash slot are there, and its stalls count; a launch that ends leaves its flight, the table's end
begins the next step, and a notice is a credit; the host's commands move its state (R163–R167). -/
def Obligations.BooksAdvance : Prop :=
  (∀ (s : State) (d : Fin 8), s.ev = .bookCtlGo d → s.recovery = false →
    exec .bookCtlGo s = .next (s.modDie d fun x => { x with book := afterGo x.book }))
  ∧ (∀ (s : State) (d : Fin 8), s.ev = .bookCtlPause d → s.recovery = false →
    exec .bookCtlPause s = .next (s.modDie d fun x => { x with book := afterPause x.book }))
  ∧ (∀ (s : State) (d : Fin 8),
    let b := (s.die d).book
    s.ev = .bookCtlClear d → s.recovery = false →
    if b.state = .ready ∨ ((b.state = .held ∨ b.state = .done ∨ b.state = .fault) ∧ b.flight = []) then
      Completes (exec .bookCtlClear s) fun t =>
        (t.die d).book.state = .empty ∧ (t.die d).book.entries = [] ∧ (t.die d).book.rings = [] ∧ (t.die d).book.pos = 0
          ∧ (t.die d).book.links = [] ∧ (t.die d).book.cause = 0 ∧ t.cores = s.cores
    else exec .bookCtlClear s = .next s)
  ∧ (∀ (s : State) (d : Fin 8) (e : BookEntry),
    let b := (s.die d).book
    s.ev = .bookAdvance d → (s.launches.find? fun l => b.flight.any (·.1 == l.id) && !l.unread.isEmpty) = none → b.state = .run →
    b.entries[b.pos]? = some e →
    (∀ k, b.stall e = some k → exec .bookAdvance s = .next (s.modDie d fun x => { x with book := x.book.idleUp k }))
    ∧ (b.stall e = none → (e.sop = 1 → b.stash.getLsbD e.slot.toNat = false) → (2 ≤ e.sop → b.stash.getLsbD e.slot.toNat = true) →
        let u := s.modDie d fun x => { x with book := x.book.take e }
        entryReadable u b.ctx.toNat e = true →
        ∃ k : BookTask, k.entry = BitVec.ofNat 10 b.pos ∧ k.step = b.step ∧ k.mb = e.mb ∧ k.stage = e.stage ∧ k.slot = e.slot
          ∧ exec .bookAdvance s
              = .next (openLaunch (u.modDie d fun x =>
                  { x with book := { x.book with flight := x.book.flight ++ [(s.nextId, b.pos)], pos := b.pos + 1 } })
                  b.ctx.toNat (.book d k) e.graph e.ntask.toNat)))
  ∧ (∀ (s : State) (d : Fin 8) (i n : Nat) (e : BookEntry) (l : Launch),
    let b := (s.die d).book
    s.ev = .bookLaunchComplete d i → b.flight.find? (·.1 == i) = some (i, n) → b.entries[n]? = some e →
    s.launches.find? (·.id == i) = some l → l.unread = [] → l.tasks = [] → l.failed = 0 →
    Completes (exec .bookLaunchComplete s) fun t =>
      (t.die d).book.flight = b.flight.filter (·.1 != i) ∧ (t.launches.any (·.id == i)) = false ∧ t.mem = s.mem ∧ t.cores = s.cores
        ∧ (t.die d).book.state = b.state
        ∧ (t.die d).book.stash = if e.sop = 3 then b.stash &&& ~~~(1#64 <<< e.slot.toNat) else b.stash)
  ∧ (∀ (s : State) (d : Fin 8),
    let b := (s.die d).book
    s.ev = .bookTableEnd d → b.state = .run → b.pos = b.entries.length → b.flight = [] → b.donea = 0 →
    exec .bookTableEnd s = .next (s.modDie d fun x =>
      { x with book := if b.loop then { x.book with pos := 0, step := b.step + 1 } else { x.book with state := .done } }))
  ∧ (∀ (s : State) (d : Fin 8) (j : Nat) (r : List Nat),
    s.ev = .bookNotice d none → (s.die d).book.notices = j :: r → j < 8 →
    Completes (exec .bookNotice s) fun t =>
      (t.die d).book.notices = r ∧ (t.die d).book.cred.getD j 0 = (s.die d).book.cred.getD j 0 + 1
        ∧ (∀ k, k ≠ j → (t.die d).book.cred.getD k 0 = (s.die d).book.cred.getD k 0) ∧ t.mem = s.mem ∧ t.cores = s.cores)
  ∧ ∀ (s : State) (d : Fin 8) (id : CoreId) (off : BitVec 16) (down : Bool) (j : Nat),
    s.ev = .bookNotice d (some (id, off, down)) → (s.die d).book.ringIdx id off.toNat down = some j → j < 8 →
    Completes (exec .bookNotice s) fun t =>
      (t.die d).book.cred.getD j 0 = (s.die d).book.cred.getD j 0 + 1 ∧ t.mem = s.mem ∧ t.cores = s.cores

/-! ## Queues and packets -/

/-- Completion queue `n` of a context has room for an entry, and nothing waits before it. -/
def CqRoom (s : State) (c n : Nat) : Prop := ((s.ctx c).cq n).held = [] ∧ ((s.ctx c).cq n).room = true

/-- Completion queue `n` of a context takes an entry: its 16 bytes with PHASE stand at the next slot, the count goes on by one, and the
queue's MSI-X message goes out unless MASK is set (R92, R94). -/
def TakesEntry (s t : State) (c n : Nat) (e : BitVec 128) : Prop :=
  let q := (s.ctx c).cq n
  Stores s t (q.slot 16) (leBytes 16 (e.toNat + q.phase * 2 ^ 24)) ∧ ((t.ctx c).cq n).count = q.count + 1
    ∧ t.msix = if q.mask then s.msix else s.msix ++ [q.vec.toNat]

/-- Submission, completion and fault queues are enabled and disabled by their registers, take a new head and tail, and are halted and resumed;
a packet is read at HEAD where its stamps agree and its fields are in order; a stamp that stays wrong, a malformed packet and an overrun
each leave one entry and halt the queue (R84–R94, R102, R148). HEAD passes a packet whose checks look at memory, a LAUNCH, MAP, BOOK or
CHECKPOINT, when it issues; the entry of a stale packet has KIND and USERTAG as they stand in its slot, and that of a host read error zeros;
and enabling a queue clears its HALT: all three are the model's choice (log entry 18). -/
def Obligations.QueuesAreEnabledAndRead : Prop :=
  (∀ (s : State) (c : Fin 48) (q : Fin 64) (v : Word),
    let y := (s.ctx c).sq q
    s.ev = .sqEnable c q .both v → s.recovery = false → y.en = false →
    Completes (exec .sqEnable s) fun t =>
      let z := (t.ctx c).sq q
      t = (s.modCtx c fun x => { x with sqs := (t.ctx c).sqs })
        ∧ z.cq = v.extractLsb' 3 4 ∧ z.log2 = v.extractLsb' 7 4 ∧ z.seq = v.extractLsb' 16 16 ∧ z.head = v.extractLsb' 32 32 ∧ z.base = y.base
        ∧ if 3 ≤ (v.extractLsb' 7 4).toNat ∧ ((s.ctx c).cq (v.extractLsb' 3 4).toNat).en = true then
            z.en = true ∧ z.err = false ∧ z.halt = false ∧ z.tail = z.head
          else z.en = false ∧ z.err = true)
  ∧ (∀ (s : State) (c : Fin 48) (q : Fin 64) (lane : Lane) (v : Word),
    let y := (s.ctx c).sq q
    s.ev = .sqDisable c q lane v → s.recovery = false → y.en = true → lane ≠ .high →
    Completes (exec .sqDisable s) fun t =>
      let z := (t.ctx c).sq q
      z.en = false ∧ z.base = y.base ∧ z.head = y.head ∧ z.tail = y.tail ∧ z.seq = y.seq ∧ t.mem = s.mem ∧ t.cores = s.cores
        ∧ (t.ctx c).packets = (s.ctx c).packets.filter fun p => p.q != q.val || p.issued)
  ∧ (∀ (s : State) (c : Fin 48) (q : Fin 64), s.ev = .sqResume c q → s.recovery = false → ((s.ctx c).sq q).en = true →
    exec .sqResume s = .next (s.modSq c q fun y => { y with halt := false, tries := 0 }))
  ∧ (∀ (s : State) (c : Fin 48) (q : Fin 16) (v : Word),
    let y := (s.ctx c).cq q
    s.ev = .cqEnable c q .both v → s.recovery = false → y.en = false → y.held = [] →
    Completes (exec .cqEnable s) fun t =>
      let z := (t.ctx c).cq q
      t = (s.modCtx c fun x => { x with cqs := (t.ctx c).cqs })
        ∧ z.log2 = v.extractLsb' 1 4 ∧ z.vec = v.extractLsb' 5 11 ∧ z.mask = v.getLsbD 16 ∧ z.base = y.base ∧ z.head = y.head
        ∧ if 4 ≤ z.log2.toNat ∧ z.vec ≠ 0 then z.en = true ∧ z.err = false ∧ z.count = y.head else z.en = false ∧ z.err = true)
  ∧ (∀ (s : State) (c : Fin 48) (v : Word),
    let y := (s.ctx c).fq
    s.ev = .fqEnable c .both v → s.recovery = false → y.en = false → (s.ctx c).fqHeld = [] →
    Completes (exec .fqEnable s) fun t =>
      let z := (t.ctx c).fq
      t = (s.modCtx c fun x => { x with fq := z })
        ∧ z.log2 = v.extractLsb' 1 4 ∧ z.vec = v.extractLsb' 5 11 ∧ z.mask = v.getLsbD 16 ∧ z.base = y.base ∧ z.head = y.head
        ∧ if 4 ≤ z.log2.toNat ∧ z.vec ≠ 0 then z.en = true ∧ z.err = false ∧ z.count = y.head else z.en = false ∧ z.err = true)
  ∧ (∀ (s : State) (c : Fin 48) (q : Fin 16) (v : Word) (e : BitVec 128),
    let y := (s.ctx c).cq q
    let z : CompQ := { y with head := v.setWidth 32 }
    s.ev = .cqHeadWrite c q .both v → s.recovery = false → s.Inv → y.held = [e] → z.room = true →
    Completes (exec .cqHeadWrite s) fun t =>
      Stores s t (z.slot 16) (leBytes 16 (e.toNat + z.phase * 2 ^ 24)) ∧ ((t.ctx c).cq q).held = [] ∧ ((t.ctx c).cq q).head = z.head
        ∧ ((t.ctx c).cq q).count = y.count + 1 ∧ t.msix = if y.mask then s.msix else s.msix ++ [y.vec.toNat])
  ∧ (∀ (s : State) (c : Fin 48) (v : Word), s.ev = .fqHeadWrite c .both v → s.recovery = false → (s.ctx c).fqHeld = [] →
    exec .fqHeadWrite s = .next (s.modCtx c fun x => { x with fq := { x.fq with head := v.setWidth 32 }, fqHeld := [] }))
  ∧ (∀ (s : State) (c : Fin 48) (q : Fin 64) (off : BitVec 18) (v : BitVec 32),
    let y := (s.ctx c).sq q
    s.ev = .kick off 4 v → s.recovery = false → off.toNat = c.val * 0x1000 + q.val * 64 → y.en = true →
    if y.halt = true ∨ (v - y.head).toNat ≤ 2 ^ y.log2.toNat then
      exec .kick s = .next (s.modSq c q fun y => { y with tail := v })
    else
      s.Inv → CqRoom s c y.cq.toNat → Completes (exec .kick s) fun t =>
        TakesEntry s t c y.cq.toNat (compEntry y.seq.toNat 0 2 0x161 q 0 0) ∧ ((t.ctx c).sq q).tail = v ∧ ((t.ctx c).sq q).halt = true
          ∧ ((t.ctx c).sq q).head = y.head)
  ∧ (∀ (s : State) (c : Fin 48) (q : Fin 64) (err : Bool),
    let y := (s.ctx c).sq q
    let b := s.hostRead (y.base.toNat / 4096 * 4096 + 64 * (y.head.toNat % 2 ^ y.log2.toNat)) 64
    let p := (packetOf b s.nextId q).1
    let same := p.stamp = y.seq ∧ leNat ((b.drop 56).take 2) = y.seq.toNat
    let wrong : Option Cause := if (packetOf b s.nextId q).2 then bodyCause p else some 0x160
    s.ev = .sqPacketRead c q err → canRead s c q = true → y.tries = 0 →
    (err = true → s.Inv → CqRoom s c y.cq.toNat → Completes (exec .sqPacketRead s) fun t =>
      TakesEntry s t c y.cq.toNat (compEntry y.seq.toNat 0 2 0x163 q 0 0) ∧ ((t.ctx c).sq q).halt = true)
    ∧ (err = false → same → wrong = none → Completes (exec .sqPacketRead s) fun t =>
      let n : Nat := if p.kind = 1 ∨ p.kind = 5 ∨ p.kind = 6 ∨ p.kind = 7 then 0 else 1
      t.mem = s.mem ∧ t.cores = s.cores ∧ ((t.ctx c).sq q).head = y.head + BitVec.ofNat 32 n ∧ ((t.ctx c).sq q).seq = y.seq + BitVec.ofNat 16 n
        ∧ (t.ctx c).packets = (s.ctx c).packets ++ [p] ∧ t.nextId = s.nextId + 1)
    ∧ (∀ cause, err = false → same → wrong = some cause → s.Inv → CqRoom s c y.cq.toNat → Completes (exec .sqPacketRead s) fun t =>
      TakesEntry s t c y.cq.toNat (compEntry y.seq.toNat p.kind.toNat 2 cause.toNat q p.tag.toNat 0) ∧ ((t.ctx c).sq q).halt = true
        ∧ ((t.ctx c).sq q).head = y.head)
    ∧ (err = false → ¬same → exec .sqPacketRead s = .next (s.modSq c q fun y => { y with tries := 1 })))
  ∧ (∀ (s : State) (c : Fin 48) (q : Fin 64),
    let y := (s.ctx c).sq q
    let b := s.hostRead (y.base.toNat / 4096 * 4096 + 64 * (y.head.toNat % 2 ^ y.log2.toNat)) 64
    let p := (packetOf b s.nextId q).1
    s.ev = .sqStampRetry c q → canRead s c q = true → 1 ≤ y.tries →
    ¬(p.stamp = y.seq ∧ leNat ((b.drop 56).take 2) = y.seq.toNat) →
    if y.tries = 64 then
      s.Inv → CqRoom s c y.cq.toNat → Completes (exec .sqStampRetry s) fun t =>
        TakesEntry s t c y.cq.toNat (compEntry y.seq.toNat p.kind.toNat 1 0x162 q p.tag.toNat 0) ∧ ((t.ctx c).sq q).halt = true
    else exec .sqStampRetry s = .next (s.modSq c q fun y => { y with tries := y.tries + 1 }))
  ∧ (∀ (s : State) (c : Fin 48) (q : Fin 64) (p : Packet) (e : Event),
    s.ev = .packetIssueUnblock c q → unblocked s c q = some p → pktEvent c p = some e →
    exec .packetIssueUnblock s = .next (s.raise e) ∧ p ∈ (s.ctx c).packets ∧ p.q = q ∧ p.issued = false)
  ∧ ∀ (s : State) (c : Fin 48) (v : Word), s.ev = .ctxPinqWrite c .both v → s.recovery = false →
    if 256 < (v.extractLsb' 0 9).toNat ∨ 48 < (v.extractLsb' 16 6).toNat then exec .ctxPinqWrite s = .next s
    else Completes (exec .ctxPinqWrite s) fun t =>
      t = (s.modCtx c fun x => { x with pinq := (t.ctx c).pinq })
        ∧ (t.ctx c).pinTcm = (v.extractLsb' 0 9).toNat ∧ (t.ctx c).pinSp = (v.extractLsb' 16 6).toNat

/-- A MAP packet of one page, by its CTL: its leaf, or the 16 of a 64 KiB page, is written, over none or over a leaf of its size, or removed,
and the fibres that waited are replayed (R99, R219–R224). -/
def MapsOnePage : Prop :=
  ∀ (s u : State) (c : Fin 48) (i t : Nat) (p : Packet),
    let m := mapReq u p
    let ctl := p.num 12 1
    let va := p.num 0 8
    let lvl := [0, 0, 1, 2].getD (ctl % 4) 0
    let size := [2 ^ 12, 2 ^ 16, 2 ^ 21, 2 ^ 30].getD (ctl % 4) 0
    let k := if ctl % 4 = 1 then 16 else 1
    let at_ := t + 8 * (va / 2 ^ (12 + 9 * lvl) % 512)
    let old := (List.range k).map fun j => u.rd64 (at_ + 8 * j)
    let was := old.find? fun o => pteV o && pteLeaf o
    s.ev = .mapPacket c i → issuing s c i 5 = some (u, p) → u.Inv → ctl < 8 → p.num 8 4 = 1 → va % size = 0 → va + size ≤ 0xFD * 2 ^ 48 →
    tableAt u va 4 (u.ctx c).poolBase lvl = .ok (some t) →
    (∀ o ∈ old, pteV o = true → pteLeaf o = true ∧ ptePS o = decide (ctl % 4 = 1)) → overQuota (u.ctx c) (useAfter (u.ctx c) m [was]) = false →
    let ends (w : State) : Prop := exec .mapPacket s = .next ((w.ctxCores c).foldl (fun x L => replayCore x m L) (pktDone w c p 0 0 0))
    (∀ e : Word, ctl < 4 → e = BitVec.ofNat 64 (leNat (u.hostRead (p.w 2).toNat 8)) → entryValid u m e = true →
      ∃ w, ends w ∧ Stores u w at_ (List.replicate k (leBytes 8 (e.toNat + 32 + if k = 16 then 64 else 0))).flatten)
    ∧ (4 ≤ ctl → ∃ w, ends w ∧ if was = none then w.mem = u.mem else Stores u w at_ (List.replicate (8 * k) 0))

/-- A COPY packet moves its bytes: from host to device memory, the other way, or within device memory (R96). -/
def CopiesMove : Prop :=
  ∀ (s : State) (c : Fin 48) (i n : Nat) (p : Packet),
    s.ev = .copyPacketDone c i → running s c i 2 = some p → p.num 16 8 = n → n ≠ 0 → s.Inv → s.grants = [] → s.heldWrites = [] →
    (∀ l : Loc, p.num 24 1 = 1 → s.rangePieces (p.va 1) n = [((p.va 1).toNat, n)] → resolve s (noCore c) (p.va 1) .write = .ok l →
      ∃ u, exec .copyPacketDone s = .next (pktDone u c p 0 0 0) ∧ Stores s u l.key (s.bytes (hostKey (p.w 0).toNat) n))
    ∧ (∀ l : Loc, p.num 24 1 = 2 → s.rangePieces (p.va 0) n = [((p.va 0).toNat, n)] → resolve s (noCore c) (p.va 0) .read = .ok l →
      ∃ u, exec .copyPacketDone s = .next (pktDone u c p 0 0 0) ∧ Stores s u (hostKey (p.w 1).toNat) (s.bytes l.key n))
    ∧ ∀ l d : Loc, p.num 24 1 = 0 → s.rangePieces (p.va 0) n = [((p.va 0).toNat, n)] → resolve s (noCore c) (p.va 0) .read = .ok l →
      s.rangePieces (p.va 1) n = [((p.va 1).toNat, n)] → resolve s (noCore c) (p.va 1) .write = .ok d →
      ∃ u, exec .copyPacketDone s = .next (pktDone u c p 0 0 0) ∧ Stores s u d.key (s.bytes l.key n)

/-- A packet that ends leaves its queue and its one entry, none where it was OK and QUIET; a LAUNCH pushes its array, and ends when its launch has;
a COPY moves its bytes in one direction and says how far it came; a SIGNAL stores or adds; a WAIT ends when its counter has come, when it
fails, or at its timeout; a MAP writes or removes its leaves and replays the fibres that waited; a BOOK loads its image (R87, R92, R95–R100,
R219–R226). That a microsecond is 1,900 cycles of die 0, that a WAIT of a poisoned counter ends with 0x120 and RESULT 0 and a SIGNAL of one
with 0x122, that a launch with failed tasks reports the first of them though its DONEA fails too, and that HEAD stays at a packet whose body is
found malformed at its issue, are the model's choice (log entry 38). -/
def Obligations.PacketsDoTheirWork : Prop :=
  (∀ (s : State) (c : Nat) (p : Packet) (status : Nat) (cause : Cause) (result : Nat),
    let t := pktDone s c p status cause result
    let n := ((s.ctx c).sq p.q).cq.toNat
    (t.ctx c).packets = (s.ctx c).packets.filter (·.id != p.id)
      ∧ if p.quiet = true ∧ status = 0 then t.mem = s.mem ∧ t.msix = s.msix
        else s.Inv → CqRoom s c n → TakesEntry s t c n (compEntry p.stamp.toNat p.kind.toNat status cause.toNat p.q p.tag.toNat result))
  ∧ (∀ (s u : State) (c : Fin 48) (i : Nat) (p : Packet), s.ev = .launchPacket c i → issuing s c i 1 = some (u, p) →
    exec .launchPacket s = .next (if anyForeign u c (p.va 0) (p.num 8 4) = true then haltBefore (pktDone u c p 2 0x101 0) c p.q
      else openLaunch u c (.packet c i) (p.va 0) (p.num 8 4)))
  ∧ (∀ (s : State) (i c : Nat) (l : Launch) (p : Packet),
    s.ev = .launchComplete i → s.launch? i = some l → overPacket s l = some (c, p) →
    let fin (s : State) : State :=
      match l.firstFail with
      | some (_, cause) => pktDone (s.dropLaunch i) c p 3 cause l.failed
      | none => pktDone (s.dropLaunch i) c p 0 0 0
    (p.w 2 = 0 → exec .launchComplete s = .next (fin s))
    ∧ ∀ d : Loc, p.w 2 ≠ 0 → s.Inv → s.grants = [] → s.heldWrites = [] → resolveRange s (noCore c) (p.va 2) 4 .atomic = .ok [(d, 4)] →
        resolve s (noCore c) (p.va 2) .atomic = .ok d → s.poisoned d.key 4 = false →
        ∃ u, exec .launchComplete s = .next (fin u) ∧ Stores s u d.key (leBytes 4 (s.rd d.key 4 + 1)))
  ∧ (∀ (s u : State) (c : Fin 48) (i : Nat) (p : Packet), s.ev = .copyPacket c i → issuing s c i 2 = some (u, p) →
    exec .copyPacket s = .next (
      if p.num 24 1 = 3 then haltBefore (pktDone u c p 2 0x164 0) c p.q
      else if p.num 24 1 = 0 ∧ overlap (p.va 0) (p.num 16 8) (p.va 1) (p.num 16 8) = true then haltBefore (pktDone u c p 2 0x165 0) c p.q
      else u))
  ∧ CopiesMove
  ∧ (∀ (s u : State) (c : Fin 48) (i pages : Nat) (p : Packet) (cause : Cause),
    s.ev = .copyPacketDone c i → running s c i 2 = some p → pktCopyHeld s c p = false → copyBody s c p = (u, some (cause, pages)) →
    exec .copyPacketDone s = .next (pktDone u c p 3 cause pages))
  ∧ (∀ (s : State) (c : Fin 48) (i : Nat) (p : Packet),
    s.ev = .copyPacketDone c i → running s c i 2 = some p → pktCopyHeld s c p = true → exec .copyPacketDone s = .next s)
  ∧ (∀ (s u : State) (c : Fin 48) (i : Nat) (p : Packet),
    s.ev = .signalPacket c i → issuing s c i 3 = some (u, p) →
    (p.num 12 1 = 2 → exec .signalPacket s = .next (haltBefore (pktDone u c p 2 0x166 0) c p.q))
    ∧ (p.num 12 1 = 3 → u.Inv → ∃ w, exec .signalPacket s = .next (pktDone w c p 0 0 (p.num 8 4))
        ∧ Stores u w (hostKey (p.w 0).toNat) (leBytes 4 (p.num 8 4)))
    ∧ ∀ l : Loc, u.Inv → u.grants = [] → u.heldWrites = [] → resolveRange u (noCore c) (p.va 0) 4 .atomic = .ok [(l, 4)] →
        resolve u (noCore c) (p.va 0) .atomic = .ok l →
        (p.num 12 1 = 1 → ∃ w, exec .signalPacket s = .next (pktDone w c p 0 0 (p.num 8 4)) ∧ Stores u w l.key (leBytes 4 (p.num 8 4)))
        ∧ (p.num 12 1 = 0 → u.poisoned l.key 4 = false →
            let n := (u.rd l.key 4 + p.num 8 4) % 2 ^ 32
            ∃ w, exec .signalPacket s = .next (pktDone w c p 0 0 n) ∧ Stores u w l.key (leBytes 4 n))
        ∧ (p.num 12 1 = 0 → u.poisoned l.key 4 = true → exec .signalPacket s = .next (pktDone u c p 3 0x122 0)))
  ∧ (∀ (s u : State) (c : Fin 48) (i : Nat) (p : Packet), s.ev = .waitPacket c i → issuing s c i 4 = some (u, p) →
    let p' := { p with mark := (u.die 0).cycle.toNat }
    let v := u.setPacket c p'
    exec .waitPacket s = .next (match waitState v c p' with
      | .ok true => pktDone v c p' 0 0 0
      | .ok false => v
      | .error cause => pktDone v c p' 3 cause 0))
  ∧ (∀ (s : State) (c : Nat) (p : Packet) (l : Loc), resolveRange s (noCore c) (p.va 0) 4 .read = .ok [(l, 4)] →
    waitState s c p = if s.poisoned l.key 4 then .error 0x120
      else .ok (decide ((BitVec.ofNat 32 (s.rd l.key 4) - BitVec.ofNat 32 (p.num 8 4)).toNat < 2 ^ 31)))
  ∧ (∀ (s : State) (c : Fin 48) (i : Nat) (p : Packet), s.ev = .waitPacketSatisfied c i → running s c i 4 = some p →
    exec .waitPacketSatisfied s = .next (match waitState s c p with
      | .ok true => pktDone s c p 0 0 0
      | .ok false => s
      | .error cause => pktDone s c p 3 cause 0))
  ∧ (∀ (s : State) (c : Fin 48) (i : Nat) (p : Packet), s.ev = .waitPacketTimeout c i → running s c i 4 = some p →
    exec .waitPacketTimeout s = .next (
      if p.num 12 4 ≠ 0 ∧ p.mark + 1900 * p.num 12 4 ≤ (s.die 0).cycle.toNat then haltBefore (pktDone s c p 5 0x167 0) c p.q else s))
  ∧ (∀ (s u : State) (c : Fin 48) (i : Nat) (p : Packet) (cause : Cause),
    s.ev = .mapPacket c i → issuing s c i 5 = some (u, p) → mapBody u c (mapReq u p) = .error cause →
    exec .mapPacket s = .next (haltBefore (pktDone u c p 2 cause 0) c p.q))
  ∧ MapsOnePage
  ∧ (∀ (s : State) (c d : Nat),
    ((∀ k, k < 6 → (s.ctx c).owns (d * 6 + k) = false) → bookMay s c d = .error (2, 0x168, 0))
    ∧ ∀ k, k < 6 → (s.ctx c).owns (d * 6 + k) = true →
      bookMay s c d = if (s.book d).state = .run ∨ (s.book d).flight ≠ [] then .error (2, 0x169, 0) else .ok ())
  ∧ ∀ (s u : State) (c : Fin 48) (i : Nat) (p : Packet) (remote : Option (List (Nat × Nat × Nat))),
    s.ev = .bookPacket c i remote → issuing s c i 6 = some (u, p) →
    let asked := bookAsks u c (p.va 0)
    let may : Bool := match bookMay u c (p.num 10 1) with | .ok _ => true | .error _ => false
    exec .bookPacket s = .next (
      if remote = none ∧ may = true ∧ asked ≠ [] then asked.foldl (fun s e => bookMsg s (p.num 10 1) c e.1 (.ask e.2.1 e.2.2)) u
      else match bookLoad u c (p.num 10 1) (p.va 0) (p.num 8 2) (p.num 11 1 == 1) (remote.getD []) with
        | .ok (w, r) =>
          let p' := { p with mark := r + 1 }
          let x := w.setPacket c p'
          if (∃ h ∈ x.heldWrites, h.core = none) then x else pktDone x c p' 0 0 r
        | .error (2, cause, r) => haltBefore (pktDone u c p 2 cause r) c p.q
        | .error (status, cause, r) => pktDone u c p status cause r)

/-! ## Contexts, stops and traps -/

/-- Enabling a context clears its root table and its cores' message counters, or sets ERR; disabling it stops it, and when it has stopped closes its queues
and packets; a stop marks every core and empties its worker slots, is in force when its messages are drained, and ends with its reason; the host and the
urgent handler replay or skip a trap, or restart or fail its task (R82, R143, R189, R219, R284, R285, R291–R295). That the fibre of a task whose
retirement has begun then goes on at its instruction is the model's choice (log entry 26). -/
def Obligations.ContextsStopAndTrapsAreResolved : Prop :=
  (∀ (s : State) (c : Fin 48) (lane : Lane) (v : Word), s.ev = .ctxEnable c lane v → s.recovery = false → lane ≠ .high → v.getLsbD 0 = true →
    (s.ctx c).en = false →
    (mayEnable s c = false → exec .ctxEnable s = .next (s.modCtx c fun x => { x with err := true }))
    ∧ (mayEnable s c = true → s.Inv → Completes (exec .ctxEnable s) fun t =>
        Stores s t (s.ctx c).poolBase (List.replicate 4096 0) ∧ (t.ctx c).en = true ∧ (t.ctx c).err = false ∧ (t.ctx c).rect = (s.ctx c).rect
          ∧ (t.ctx c).ptUsed = [] ∧ (t.ctx c).useDs = 0 ∧ (t.ctx c).useHbm = 0 ∧ (t.ctx c).useLp = 0
          ∧ ∀ L, if (s.ctx c).owns (clusterOf L) = true then
              (t.core L).msgTx = 0 ∧ (t.core L).msgRx = 0 ∧ (t.core L).xmTx = 0 ∧ (t.core L).xmRx = 0
            else t.core L = s.core L))
  ∧ (∀ (s : State) (c : Fin 48), s.ev = .ctxDisable c → s.recovery = false →
    ((s.ctx c).en = false → exec .ctxDisable s = .next s)
    ∧ ((s.ctx c).en = true → (s.ctx c).stopped = false → exec .ctxDisable s = .next (gangStop s c 0x158))
    ∧ ((s.ctx c).en = true → (s.ctx c).stopped = true → dumpPending s c = false → Completes (exec .ctxDisable s) fun t =>
        (t.ctx c).en = false ∧ (t.ctx c).packets = [] ∧ (t.ctx c).reasons = [] ∧ (t.ctx c).stopped = false ∧ (t.ctx c).fq.en = false
          ∧ (∀ q, ((t.ctx c).sq q).en = false ∧ ((t.ctx c).cq q).en = false) ∧ t.launches.any (·.ctx == c.val) = false))
  ∧ (∀ (s : State) (c : Fin 48) (r : Cause), s.ev = .gangStop c r → (s.ctx c).en = true → (s.ctx c).stopped = false → (s.ctx c).stopping = false →
    Completes (exec .gangStop s) fun t =>
      t.mem = s.mem ∧ (t.ctx c).stopping = true ∧ (r ∈ (t.ctx c).reasons) ∧ OtherCores s t (ctxLeaves s c)
        ∧ ∀ L ∈ ctxLeaves s c, (t.core L).stopped = true ∧ (t.core L).gsCyc = BitVec.ofNat 64 (s.cycleOf L)
            ∧ (t.core L).latched = #v[(s.core L).msgTx, (s.core L).msgRx, (s.core L).xmTx, (s.core L).xmRx]
            ∧ (t.core L).s = (s.core L).s ∧ ∀ i, i < 6 → (t.core L).slots.getD i none = none)
  ∧ (∀ (s : State) (c : Fin 48), s.ev = .ctxGctlStop c → s.recovery = false → exec .ctxGctlStop s = .next (gangStop s c 0x156))
  ∧ (∀ (s : State) (c : Fin 48), s.ev = .gangStopDrained c → (s.ctx c).stopping = true → drained s c = true → (s.ctx c).disabling = false →
    let t := s.modCtx c fun x => { x with stopping := false, stopped := true }
    exec .gangStopDrained s = .next (if cutConsistent s c = true then t else t.raise (.fatalFault c 0x178 0xFFFFFFFF)))
  ∧ (∀ (s : State) (c : Fin 48), s.ev = .ctxGctlResume c → s.recovery = false →
    ((s.ctx c).reasons = [] ∨ (s.ctx c).reason ≠ 0x156 → exec .ctxGctlResume s = .next s)
    ∧ ((s.ctx c).reasons = [0x156] → (s.ctx c).reason = 0x156 → Completes (exec .ctxGctlResume s) fun t =>
        (t.ctx c).reasons = [] ∧ (t.ctx c).stopped = false ∧ ∀ L ∈ s.ctxCores c, (t.core L).stopped = false))
  ∧ (∀ (s : State) (c : Fin 48) (id : CoreId) (f : BitVec 12) (i : Instr),
    (s.ev = .ctxFcmdReplay c id f ∧ i = .ctxFcmdReplay) ∨ (s.ev = .ctxFcmdSkip c id f ∧ i = .ctxFcmdSkip)
      ∨ (s.ev = .ctxFcmdRestart c id f ∧ i = .ctxFcmdRestart) ∨ (s.ev = .ctxFcmdFail c id f ∧ i = .ctxFcmdFail) →
    s.recovery = false → hostParked s c id f.toNat = none → exec i s = .next (s.modCtx c fun x => { x with fcmdErr := true }))
  ∧ (∀ (s : State) (c : Fin 48) (id : CoreId) (f : BitVec 12) (L : Nat) (x : TrapInfo) (i : Instr) (pc : VAddr),
    (s.ev = .ctxFcmdReplay c id f ∧ i = .ctxFcmdReplay ∧ pc = x.pc) ∨ (s.ev = .ctxFcmdSkip c id f ∧ i = .ctxFcmdSkip ∧ pc = x.skipPc) →
    s.recovery = false → hostParked s c id f.toNat = some L → 2 ≤ f.toNat → ((s.core L).fib f.toNat).trap = some x →
    Completes (exec i s) fun t =>
      let y := (t.core L).fib f.toNat
      t.mem = s.mem ∧ OtherCores s t [L] ∧ (t.ctx c).fcmdErr = false ∧ y.status = .ready ∧ y.trap = none ∧ y.pc = pc
        ∧ y.a = ((s.core L).fib f.toNat).a ∧ y.flags = ((s.core L).fib f.toNat).flags ∧ (t.core L).s = (s.core L).s)
  ∧ (∀ (s : State) (c : Fin 48) (id : CoreId) (f : BitVec 12) (L : Nat) (x : TrapInfo),
    s.recovery = false → hostParked s c id f.toNat = some L → 2 ≤ f.toNat → ((s.core L).fib f.toNat).trap = some x →
    let u := withdraw (s.modCtx c fun x => { x with fcmdErr := false }) L f.toNat
    (s.ev = .ctxFcmdRestart c id f → exec .ctxFcmdRestart s = .next (match ((s.core L).fib f.toNat).task with
      | some r => if (u.live? L r).isNone then unpark u L f.toNat x.pc false else restartTask u L r
      | none => endFib u L f.toNat))
    ∧ (s.ev = .ctxFcmdFail c id f → exec .ctxFcmdFail s = .next (match ((s.core L).fib f.toNat).task with
      | some r => if (u.live? L r).isNone then unpark u L f.toNat x.pc false else failTask u L r (if x.hcall then 0x16F else x.cause)
      | none => endFib u L f.toNat)))
  ∧ (∀ (s : State) (L : Fin 6144) (i : Instr),
    (s.ev = .coreTactReplay L ∧ i = .coreTactReplay) ∨ (s.ev = .coreTactSkip L ∧ i = .coreTactSkip)
      ∨ (s.ev = .coreTactRestart L ∧ i = .coreTactRestart) ∨ (s.ev = .coreTactFail L ∧ i = .coreTactFail) →
    s.recovery = false → (s.core L).trapQ = [] → exec i s = .next s)
  ∧ (∀ (s : State) (L : Fin 6144) (f : Nat) (q : List Nat) (x : TrapInfo) (i : Instr),
    (s.ev = .coreTactReplay L ∧ i = .coreTactReplay) ∨ (s.ev = .coreTactSkip L ∧ i = .coreTactSkip) →
    s.recovery = false → (s.core L).trapQ = f :: q → 2 ≤ f → ((s.core L).fib f).trap = some x →
    Completes (exec i s) fun t =>
      let y := (t.core L).fib f
      t.mem = s.mem ∧ OtherCores s t [L] ∧ y.status = .ready ∧ y.trap = none ∧ f ∉ (t.core L).trapQ
        ∧ if i = .coreTactReplay then y.pc = x.pc ∧ y.a = ((s.core L).fib f).a ∧ y.flags = ((s.core L).fib f).flags
          else y.pc = x.skipPc ∧ ∀ j, j < 8 → y.a.getD j 0 = ((s.core L).treg.getD j none).getD (((s.core L).fib f).a.getD j 0))
  ∧ ∀ (s : State) (L : Fin 6144) (f : Nat) (q : List Nat) (x : TrapInfo),
    s.recovery = false → (s.core L).trapQ = f :: q → 2 ≤ f → ((s.core L).fib f).trap = some x →
    let u := withdraw s L f
    (s.ev = .coreTactRestart L → exec .coreTactRestart s = .next (match ((s.core L).fib f).task with
      | some r => if (u.live? L r).isNone then unpark u L f x.pc false else restartTask u L r
      | none => endFib u L f))
    ∧ (s.ev = .coreTactFail L → exec .coreTactFail s = .next (match ((s.core L).fib f).task with
      | some r => if (u.live? L r).isNone then unpark u L f x.pc false else failTask u L r (if x.hcall then 0x16F else x.cause)
      | none => endFib u L f))

/-! ## Fatal faults, dumps and debug halts -/

/-- A slot's worker fibre that may issue. -/
def ReadyWorker (s : State) (L slot f : Nat) : Prop :=
  1 ≤ slot ∧ slot ≤ 6 ∧ 2 ≤ f ∧ (s.core L).inSlot slot = some f ∧ (s.core L).slotReady (s.cycleOf L) slot = true

/-- A fibre parks with a cause, its PC, registers and flags as they were. -/
def ParksFor (s t : State) (L f : Nat) (cause : Cause) : Prop :=
  let x := (s.core L).fib f
  let y := (t.core L).fib f
  y.status = .parked ∧ y.trap.map (·.cause) = some cause ∧ y.pc = x.pc ∧ y.a = x.a ∧ y.flags = x.flags ∧ (t.core L).s = (s.core L).s

/-- A cluster halts with a reason and a source, and every one of its cores. -/
def HaltsFor (t : State) (k : Nat) (reason : Cause) (src : CoreId) : Prop :=
  (t.cluster k).halted = true ∧ (t.cluster k).reason = reason ∧ (t.cluster k).src = src ∧ ∀ M ∈ clusterCores k, (t.core M).halted = true

/-- A fatal fault ends the context's packets and launches and queues a dump, or is a secondary record of the dump that is being written;
dumps start in order and end with DONE; breakpoints, watchpoints, match points, a fibre that completes an armed task's counted instruction,
and the host halt or trap, and a resume lets the cluster go on (R125–R128, R300, R303–R309). That a further fault of a context whose dump is
queued adds nothing and a dump is written in one step (log entry 34), and which die records what belongs to none (log entry 9), are the
model's choice. -/
def Obligations.FatalFaultsDumpsAndHalts : Prop :=
  (∀ (s : State) (c : Fin 48) (cause : Cause) (core : CoreId), s.ev = .fatalFault c cause core →
    let d := ((idLeaf core).map dieOf).getD 0
    Completes (exec .fatalFault s) fun t =>
      (t.die d).evPos = (if s.dump.busy = true ∧ s.dump.ctx.toNat = c.val then (t.die d).evPos else (s.die d).evPos + 1)
        ∧ ((s.ctx c).drain = none → (t.ctx c).packets = []) ∧ ((s.ctx c).en = true → 0x170 ∈ (t.ctx c).reasons)
        ∧ (∀ l ∈ t.launches, ∀ i, l.owner ≠ .packet c i)
        ∧ if s.dump.busy = true ∧ s.dump.ctx.toNat = c.val then t.dump.second = s.dump.second + 1 ∧ t.dump.queue = s.dump.queue
          else if s.dump.queue.any (·.1 == c.val) = true then t.dump.queue = s.dump.queue
          else
            let behind (q : Nat × Cause × CoreId) : Prop := (s.ctx q.1).fatalAt = (s.die 0).cycle.toNat ∧ c.val < q.1
            ∃ l r, s.dump.queue = l ++ r ∧ t.dump.queue = l ++ (c.val, cause, core) :: r
              ∧ (∀ q ∈ l, ¬behind q) ∧ ∀ q, r.head? = some q → behind q)
  ∧ (∀ (s : State) (c : Nat) (cause : Cause) (core : CoreId) (r : List (Nat × Cause × CoreId)),
    s.ev = .dumpStart → s.dump.queue = (c, cause, core) :: r → c < 48 → s.dump.busy = false → (s.ctx c).stopped = true →
    Completes (exec .dumpStart s) fun t =>
      t.dump.busy = true ∧ t.dump.ctx.toNat = c ∧ t.dump.queue = r ∧ t.dump.base = (s.ctx c).dumpBase.toNat
        ∧ t.dump.len = (s.ctx c).dumpLen.toNat ∧ t.dump.recs = 0 ∧ t.dump.second = 0 ∧ t.dump.cause = cause ∧ t.dump.core = core
        ∧ t.mem = s.mem ∧ t.cores = s.cores ∧ t.ctxs = s.ctxs)
  ∧ (∀ s : State, s.ev = .dumpComplete → s.dump.busy = true →
    let c := s.dump.ctx.toNat
    let img := dumpImage s
    Completes (exec .dumpComplete s) fun t =>
      t.dump.busy = false ∧ t.dump.done = true
        ∧ (s.dump.len = 0 → t.dump.recs = 0 ∧ t.dump.trunc = s.dump.trunc)
        ∧ (s.dump.len ≠ 0 → ∀ u, writePoisoned s (noCore c) (BitVec.ofNat 56 s.dump.base) (img.1.1.take s.dump.len) (img.1.2.take s.dump.len) = .ok u →
            t.dump.recs = img.2.1 ∧ t.dump.trunc = (s.dump.trunc || img.2.2)
              ∧ ((s.ctx c).fqHeld = [] → (s.ctx c).fq.room = false → t.mem = u.mem)))
  ∧ (∀ (s : State) (L : Fin 6144) (slot : Fin 8) (f i : Nat),
    s.ev = .pcMatchFire L slot → ReadyWorker s L slot f → ((s.core L).fib f).noMatch = false →
    matchPoint (s.core L) ((s.core L).slotPc slot) = some i → i < 16 →
    if (s.core L).pmhnd.getD i 0 &&& 0xFFFFFFFFFFFFFE = 0 then
      Completes (exec .pcMatchFire s) fun t => ParksFor s t L f 0x147
    else Completes (exec .pcMatchFire s) fun t =>
      ((t.core L).fib f).status = .matched ∧ ((t.core L).fib f).pc = ((s.core L).fib f).pc ∧ (t.core L).s = (s.core L).s
        ∧ match (s.core L).handler with
          | none => (t.core L).handler = some f ∧ (t.core L).shadowSt = .ready
              ∧ (t.core L).shadowPc = (((s.core L).pmhnd.getD i 0).extractLsb' 0 56) &&& ~~~1#56
          | some h => (t.core L).handler = some h ∧ (t.core L).matchQ = (s.core L).matchQ ++ [(f, BitVec.toFin (BitVec.ofNat 4 i), slot.val)])
  ∧ (∀ (s : State) (L : Fin 6144) (slot : Fin 8) (f : Nat) (w : Word),
    s.ev = .clusterBreakpoint L slot → ReadyWorker s L slot f →
    ((s.cluster (clusterOf L)).bp.toList.find? fun w => w.getLsbD 0 && w.extractLsb' 1 55 == ((s.core L).slotPc slot).extractLsb' 1 55) = some w →
    (w.getLsbD 56 = false → Completes (exec .clusterBreakpoint s) fun t => ParksFor s t L f 0x140)
    ∧ (w.getLsbD 56 = true → (s.cluster (clusterOf L)).halted = false → (s.cluster (clusterOf L)).halting = false →
        Completes (exec .clusterBreakpoint s) fun t => HaltsFor t (clusterOf L) 0x140 (s.coreId L slot)))
  ∧ (∀ (s : State) (L : Fin 6144) (slot : Fin 8) (f : Nat) (g : BitVec 53) (st : Bool) (w : Word),
    s.ev = .clusterWatchpoint L slot g st → ReadyWorker s L slot f → s.cur.core = L.val → s.cur.slot = slot.val →
    ((s.cluster (clusterOf L)).wp.toList.find? fun w => w.extractLsb' 3 53 == g && w.getLsbD (if st then 57 else 56)) = some w →
    let cause : Cause := if st then 0x142 else 0x141
    (w.getLsbD 58 = false → Completes (exec .clusterWatchpoint s) fun t => ParksFor s t L f cause)
    ∧ (w.getLsbD 58 = true → (s.cluster (clusterOf L)).halted = false → (s.cluster (clusterOf L)).halting = false →
        Completes (exec .clusterWatchpoint s) fun t => HaltsFor t (clusterOf L) cause (s.coreId L slot)))
  ∧ (∀ (s : State) (k : Fin 48), s.ev = .cluDbgctlHalt k → s.recovery = false → (s.cluster k).halted = false → (s.cluster k).halting = false →
    Completes (exec .cluDbgctlHalt s) fun t => HaltsFor t k 0x145 (t.cluster k).src)
  ∧ (∀ (s : State) (k : Fin 48) (r : Cause) (src : CoreId), s.ev = .clusterHalt k r src →
    if (s.cluster k).halted = true ∨ (s.cluster k).halting = true then exec .clusterHalt s = .next s
    else Completes (exec .clusterHalt s) fun t => HaltsFor t k r src)
  ∧ (∀ (s : State) (k : Fin 48), s.ev = .cluDbgctlResume k → s.recovery = false →
    if (s.cluster k).halted = false ∧ (s.cluster k).halting = false then exec .cluDbgctlResume s = .next s
    else Completes (exec .cluDbgctlResume s) fun t =>
      (t.cluster k).halted = false ∧ (t.cluster k).halting = false ∧ OtherCores s t (clusterCores k)
        ∧ ∀ M ∈ clusterCores k, t.core M = { s.core M with halted := false })
  ∧ (∀ (s : State) (L : Fin 6144), s.ev = .replayStop L →
    (∀ f, replayHit s L = some f → (s.cluster (clusterOf L)).halted = false → (s.cluster (clusterOf L)).halting = false →
      Completes (exec .replayStop s) fun t =>
        HaltsFor t (clusterOf L) 0x146 (s.coreId L f.slot.toNat) ∧ (t.cluster (clusterOf L)).rptask.getLsbD 0 = false)
    ∧ ((∀ e ∈ (s.core L).fibres, e.2.counted = true) → exec .replayStop s = .next s))
  ∧ ∀ (s : State) (k : Fin 48), s.ev = .traceSample k →
    Completes (exec .traceSample s) fun t =>
      t.cores = s.cores ∧ (t.cluster k).trNext = ((s.cluster k).trNext + 1) % 128 ∧ (t.cluster k).halted = (s.cluster k).halted
        ∧ ((s.cluster k).traces 1 = false → t.mem = s.mem)

/-! ## Migration, hangs and fences -/

/-- A page move checks its request, copies its lines in ascending order to their new home, and rewrites the leaf where it still stands; a
reservation answered with MOVED is asked for again at the new home, and a fifth time traps; a hung or broken core is fenced, and a spare takes
it up or the context ends (R117–R120, R228–R230, R280, R368). That GO for a disabled context is error 1 (log entry 36), and the order of a
fence's causes and the end of a fenced core's copies (log entry 37), are the model's choice. -/
def Obligations.PagesMoveAndCoresAreFenced : Prop :=
  (∀ (s : State) (d : Fin 8), s.ev = .migrationGo d → s.recovery = false →
    exec .migrationGo s = .next (
      if (s.die d).mig.isSome then s
      else match migrationCheck s d with
        | .error e => s.modDie d fun x => { x with migDone := true, migErr := BitVec.ofNat 3 e }
        | .ok m => s.modDie d fun x => { x with mig := some m, migErr := 0 })
    ∧ ((s.ctx ((s.die d).migVa.extractLsb' 56 6).toNat).en = false → migrationCheck s d = .error 1)
    ∧ ∀ m, migrationCheck s d = .ok m → m.moved = 0 ∧ m.dst % m.size = 0 ∧ homeDie m.src = d ∧ homeDie m.dst ≠ d
        ∧ physOk s m.dst m.size = true)
  ∧ (∀ (s : State) (d : Fin 8) (m : Migration), s.ev = .migrationLineMove d → s.Inv → (s.die d).mig = some m → m.moved < m.size →
    lineDrained s (m.src + m.moved) = true →
    Completes (exec .migrationLineMove s) fun t =>
      Stores s t (m.dst + m.moved) (s.bytes (m.src + m.moved) 64)
        ∧ (t.die d).mig = some { m with moved := m.moved + 64, pois := m.pois || s.poisoned (m.src + m.moved) 64 })
  ∧ (∀ (s : State) (d : Fin 8) (m : Migration), s.ev = .migrationDone d → s.Inv → (s.die d).mig = some m → m.size ≤ m.moved →
    let e := s.rd64 m.leaf
    let ends (t : State) : Prop :=
      t.cores = s.cores ∧ (t.die d).mig = none ∧ (t.die d).migDone = true ∧ (t.die d).migErr = if m.pois then 5 else 0
    (leafStands s m = true → ptePS e = false → Completes (exec .migrationDone s) fun t =>
      Stores s t m.leaf (leBytes 8 (((e &&& ~~~(bitMask 47 12)) ||| BitVec.ofNat 64 m.dst).toNat)) ∧ ends t)
    ∧ (leafStands s m = false → Completes (exec .migrationDone s) fun t => t.mem = s.mem ∧ ends t))
  ∧ (∀ (s : State) (L : Fin 6144) (f : BitVec 12) (g : Grant) (o : AtomicOp) (m : Migration) (p : Plane),
    s.ev = .movedReply L f → s.grants = [g] → g.away = true → g.core = L → g.fibre = f.toNat → g.op = some o → AtomicPlane s g o p →
    (s.moves.find? fun m => m.covers false (8 * g.gran)) = some m →
    (g.moved < 4 → Completes (exec .movedReply s) fun t =>
      ∃ h : Grant, t.grants = [h] ∧ h.gran = (8 * g.gran - m.src + m.dst) / 8 ∧ h.moved = g.moved + 1 ∧ h.core = g.core ∧ h.fibre = g.fibre
        ∧ p.status t = .waiting (.reservation h.gran) ∧ t.mem = s.mem ∧ OtherCores s t [L])
    ∧ (4 ≤ g.moved → o.iss.core = L → Completes (exec .movedReply s) fun t =>
      t.grants = [] ∧ p.status t = .parked ∧ p.pc t = o.iss.pc
        ∧ (if o.shadow then (t.core L).shadowTrap else ((t.core L).fib f.toNat).trap).map (·.cause) = some 0x0AC))
  ∧ (∀ (s : State) (L : Fin 6144), s.ev = .watchdogExpiry L →
    exec .watchdogExpiry s = .next (match wdogSlot s L with
      | some slot => (s.modCore L fun c => { c with fenced := true, fenceCause := BitVec.ofNat 9 (0x110 + 2 * slot) }).raise (.coreFence L)
      | none => s)
    ∧ ∀ slot, wdogSlot s L = some slot → (s.core L).wdSince + 2 ^ (s.die (dieOf L)).wdog.toNat ≤ s.cycleOf L)
  ∧ (∀ (s : State) (L : Fin 6144) (slot : Fin 8) (o : EngineOp),
    s.ev = .engineHang L slot none → enginesHeld s L = false → (s.core L).vec = some o → o.remote = false → o.iss.slot = slot.val → o.iss.core = L →
    o.shadow = false → 2 ≤ o.fibre → ((s.core L).fib o.fibre).task = none →
    Completes (exec .engineHang s) fun t =>
      (t.core L).vec = none ∧ ((t.core L).fib o.fibre).status = .parked
        ∧ ((t.core L).fib o.fibre).trap.map (fun x => (x.cause, x.eng)) = some (BitVec.ofNat 9 (0x111 + 2 * slot.val), true))
  ∧ (∀ (s : State) (L : Fin 6144) (slot : Fin 8) (tag : Fin 64) (o : CopyOp),
    s.ev = .engineHang L slot (some tag) → enginesHeld s L = false → (s.cluster (clusterOf L)).copies = [o] → o.core = L → o.tag = tag →
    o.slot = slot → o.granted = true → o.failed = 0 →
    exec .engineHang s
      = .next (s.modCluster (clusterOf L) fun k => { k with copies := [{ o with failed := BitVec.ofNat 9 (0x111 + 2 * slot.val) }] }))
  ∧ (∀ (s : State) (L : Fin 6144) (port : Bool), s.ev = .coreStateError L port →
    let u := if port then s.modCore L fun c => { c with portBad := true } else s
    exec .coreStateError s = .next (if (u.core L).fenced = true then u
      else (u.modCore L fun c => { c with fenced := true, fenceCause := 0x127 }).raise (.coreFence L)))
  ∧ ∀ (s : State) (L : Fin 6144), s.ev = .coreFence L →
    let c := s.core L
    let fatal (cause : Cause) : Prop := exec .coreFence s = .next ((s.modCore L fun c => { c with fenceCause := 0 }).fatal L cause)
    ((c.fenced = false ∨ c.fenceCause = 0) → exec .coreFence s = .next s)
    ∧ (c.fenced = true → c.fenceCause ≠ 0 →
      (c.portBad = true → s.writesOpen L = true → fatal 0x127)
      ∧ (c.portBad = false ∨ s.writesOpen L = false →
        (c.unrestartable = true → fatal 0x172)
        ∧ (c.unrestartable = false → (s.cluster (clusterOf L)).spares = [] → fatal 0x171)
        ∧ ∀ spare rest, c.unrestartable = false → (s.cluster (clusterOf L)).spares = spare :: rest →
            (s.writesOpen L = true → exec .coreFence s = .next s)
            ∧ (s.writesOpen L = false → Completes (exec .coreFence s) fun t =>
              (t.cluster (clusterOf L)).spares = rest ∧ (t.cluster (clusterOf L)).l2pOf (inCluster L) = BitVec.ofNat 9 (256 + spare)
                ∧ (t.core L).fenced = false ∧ (t.core L).vec = none ∧ (t.core L).mat = none ∧ (t.core L).locks = []
                ∧ (t.core L).s = c.s)))

/-! ## The host's side of the link -/

/-- A register access reaches the slot at its offset, an unassigned one reads as all ones and writes nothing; the CXL window reads and writes memory
behind it; the CXL window and the peer-write windows are enabled where they are in order; a peer write stores behind its window, or counts as dropped, or is
reported; a peer read changes nothing (R33, R75–R80, R104–R106). That a host read enters the line's number among those that the host caches, that
poisoned peer data is written under poison, and that die 0 makes the entry of a peer write without a mapping, are the model's choice (log
entry 42). -/
def Obligations.HostAccessesReachTheirTargets : Prop :=
  (∀ (s : State) (off : BitVec 26) (lane : Lane) (v : Word), s.ev = .barRegisterWrite off lane v →
    exec .barRegisterWrite s = .next (match s.slotAt off.toNat with | some x => slotWrite s x (lane.place v) lane.mask | none => s)
    ∧ (off = 0x10080 → lane = .both → s.mgmt.boot.extractLsb' 0 2 ≠ 2 → exec .barRegisterWrite s = .next { s with lmthr := v.setWidth 8 }))
  ∧ (∀ (s : State) (off : BitVec 26) (lane : Lane) (x : Slot), s.ev = .rcRegisterRead off lane → s.slotAt off.toNat = some x →
    Completes (exec .rcRegisterRead s) fun t =>
      t.mem = s.mem ∧ t.hostPois = false
        ∧ t.hostData = match lane with
          | .low => slotRead s x &&& 0xFFFFFFFF
          | .high => slotRead s x >>> 32
          | .both => slotRead s x)
  ∧ (∀ (s : State) (bar : Fin 3) (off size : Nat) (w : Option Word), s.ev = .barUnassignedAccess bar off size w → bar ≠ 2 →
    (barAssigned s bar off size w.isSome = false → exec .barUnassignedAccess s
      = .next (if w = none then { s with hostData := 0xFFFFFFFFFFFFFFFF, hostPois := false } else s))
    ∧ (bar = 1 → w = none → barAssigned s bar off size w.isSome = false))
  ∧ (∀ (s : State) (d : Fin 8) (lane : Lane) (w : Option Word), s.ev = .dieCdataAccess d lane w → s.mgmt.boot.extractLsb' 0 2 ≠ 2 →
    match (s.die d).selected d, w with
    | some (L, reg, idx), some v => exec .dieCdataAccess s = .next (hostWriteCore s L reg idx (lane.place v) lane.mask)
    | none, some _ => exec .dieCdataAccess s = .next s
    | some (L, reg, idx), none => Completes (exec .dieCdataAccess s) fun t =>
        t.hostData = lane.value (coreReg s L {} reg idx) ∧ t.hostPois = false ∧ t.mem = s.mem
    | none, none => exec .dieCdataAccess s
        = .next { s with hostData := if lane = .both then 0xFFFFFFFFFFFFFFFF else 0xFFFFFFFF, hostPois := false })
  ∧ (∀ (s : State) (off size pa : Nat) (b : List Byte), s.ev = .hostCxlAccess off size (some b) → s.Inv → s.grants = [] → s.heldWrites = [] →
    cxlPa s.cxlWin off = some pa → b.length ≤ 64 - off % 64 →
    Completes (exec .hostCxlAccess s) fun t => Stores s t (s.forward pa) b ∧ t.cores = s.cores)
  ∧ (∀ (s : State) (off size pa : Nat), s.ev = .hostCxlAccess off size none → cxlPa s.cxlWin off = some pa → size ≤ 64 - off % 64 →
    Completes (exec .hostCxlAccess s) fun t =>
      t.hostBytes = s.view nCores (s.forward pa) size ∧ t.hostData = BitVec.ofNat 64 (leNat t.hostBytes) ∧ t.hostPois = s.poisoned (s.forward pa) size ∧ t.mem = s.mem
        ∧ s.forward pa / 64 ∈ t.hostLines)
  ∧ (∀ (w : Word) (off : Nat), w.getLsbD 0 = true → off < (w.extractLsb' 4 7).toNat * 2 ^ 30 →
    cxlPa w off = some (0x10000000000 + (w.extractLsb' 1 3).toNat * 0x1000000000 + (w.extractLsb' 11 6).toNat * 2 ^ 30 + off))
  ∧ (∀ (s : State) (v : Word), s.ev = .devCxlwinEnable .both v → s.cxlWin.getLsbD 0 = false →
    let size := (v.extractLsb' 4 7).toNat
    let ok := decide (1 ≤ size ∧ size ≤ 64 ∧ (v.extractLsb' 11 6).toNat + size ≤ 64)
    Completes (exec .devCxlwinEnable s) fun t =>
      t = { s with cxlWin := t.cxlWin } ∧ t.cxlWin.getLsbD 0 = ok ∧ t.cxlWin.getLsbD 17 = !ok
        ∧ t.cxlWin.extractLsb' 1 16 = v.extractLsb' 1 16)
  ∧ (∀ (s : State) (w : Fin 64) (v : Word),
    let x := spGet s.pwWins w {}
    let n : PwWin := { x with win := merge x.win v (BitVec.allOnes 64) (bitMask 6 1 ||| bitMask 39 8) }
    s.ev = .devPwwinEnable w .both v → x.en = false →
    Completes (exec .devPwwinEnable s) fun t =>
      let y := spGet t.pwWins w {}
      t = { s with pwWins := t.pwWins } ∧ y.en = pwOk s w n ∧ y.win.getLsbD 7 = !pwOk s w n ∧ y.va = x.va
        ∧ y.win.extractLsb' 1 6 = v.extractLsb' 1 6 ∧ y.win.extractLsb' 8 32 = v.extractLsb' 8 32)
  ∧ (∀ (s : State) (req : BitVec 16) (off : BitVec 36) (data : List Byte) (ep : Bool), s.ev = .peerWrite req off data ep →
    (s.pwAt off.toNat = none → exec .peerWrite s
      = .next { s with pwDrop := if s.pwDrop = BitVec.allOnes 32 then s.pwDrop else s.pwDrop + 1 })
    ∧ ∀ x : PwWin, s.pwAt off.toNat = some x →
        let va : VAddr := BitVec.ofNat 56 ((x.va.extractLsb' 20 36).toNat * 2 ^ 20 + off.toNat - x.boff * 2 ^ 20)
        s.rangePieces va data.length = [(va.toNat, data.length)] →
        match peerHome s x.ctx va.toNat with
        | some k => s.Inv → s.grants = [] → s.heldWrites = [] → Completes (exec .peerWrite s) fun t =>
            Stores s t k data ∧ t.cores = s.cores ∧ (ep = true → data ≠ [] → t.poisoned k data.length = true)
        | none => exec .peerWrite s
            = .next (s.fqSend x.ctx (nofibEntry s x.ctx 0x05F false 0xFFFFFFFF 0 0 (BitVec.ofNat 64 va.toNat) (req.setWidth 64) 0)))
  ∧ ∀ (s : State) (off : BitVec 36), s.ev = .peerRead off → exec .peerRead s = .next s

/-! ## Resets, links and budgets -/

/-- A reset request merges with one that waits, and a cold one wins; a warm reset keeps the configuration and ends the work; a cold one empties every memory and loads
the flash; the firmware boots from the first good slot; ports train, deliver in order, replay and go down; weak lanes are replaced;
budgets begin their periods; rails throttle; the scrubber reports and poisons (R25–R42, R107–R109). That a warm reset drops messages in flight
and ends a context that is being disabled, the window of sequence numbers that count as duplicates (log entry 41), and what the firmware boots
where both slots are good, and its vector (log entry 40), are the model's choice. -/
def Obligations.ResetsLinksAndBudgets : Prop :=
  (∀ s : State,
    exec .perstAssert s = .next { s with reset? := some true }
      ∧ exec .modRstCold s = .next (if s.recovery = true then s else { s with reset? := some true })
      ∧ exec .pcieHotReset s = .next { s with reset? := some (s.reset? == some true) }
      ∧ exec .modRstWarm s = .next (if s.recovery = true then s else { s with reset? := some (s.reset? == some true) }))
  ∧ (∀ s : State, s.reset? = some false → mayReset s = true →
    Completes (exec .warmReset s) fun t =>
      t.reset? = none ∧ t.msgs = [] ∧ t.grants = [] ∧ t.heldWrites = [] ∧ t.launches = [] ∧ t.modNum = s.modNum ∧ t.mgmt.boot = s.mgmt.boot
        ∧ t.mgmt.partRec = s.mgmt.partRec ∧ t.part = s.part ∧ t.ports = s.ports
        ∧ (∀ c, (t.ctx c).en = ((s.ctx c).en && !(s.ctx c).disabling) ∧ (t.ctx c).ptPool = (s.ctx c).ptPool ∧ (t.ctx c).packets = [] ∧ (t.ctx c).stopped = false
            ∧ ∀ q, ((t.ctx c).sq q).en = false ∧ ((t.ctx c).cq q).en = false)
        ∧ (∀ L, (t.core L).split = (s.core L).split ∧ (t.core L).uvec = (s.core L).uvec ∧ (t.core L).idle = true ∧ (t.core L).tasks = []
            ∧ (t.core L).slots = Vector.replicate 6 none ∧ (t.core L).tags = BitVec.allOnes 64)
        ∧ ∀ d : Fin 8, (t.die d).book = {} ∧ (t.die d).cycle = (s.die d).cycle)
  ∧ (∀ s : State, s.Inv → s.reset? = some true → mayReset s = true →
    Completes (exec .coldReset s) fun t =>
      t.reset? = none ∧ (∀ k, memGet t.mem k = if k < 2 ^ 64 then 0 else memGet s.mem k) ∧ t.mgmt = { partRec := s.mgmt.partRec }
        ∧ t.modNum = s.modNum ∧ t.cores = [] ∧ t.ctxs = [] ∧ t.running = false
        ∧ (t.part = s.mgmt.partRec ∨ t.part = s.mgmt.partRec &&& ~~~0x4000000#64))
  ∧ (∀ (s : State) (a b : Option FwSlot), s.ev = .firmwareBoot a b → s.mgmt.boot.extractLsb' 0 2 = 0 →
    let good (x : FwSlot) : Prop := x.bootable = true ∧ Config.vendorOk (sha512 x.image) x.sig x.key = true ∧ Config.minSvn.toNat ≤ x.svn.toNat
      ∧ ∃ i : Fin 4, Config.keyRevoked i = false ∧ Config.keyHash i = sha512 x.key
    let boots (t : State) (x : FwSlot) (slot : Bool) : Prop := t.mgmt.boot.extractLsb' 0 2 = 1 ∧ t.mgmt.boot.getLsbD 2 = slot
      ∧ t.mgmt.boot.extractLsb' 8 8 = x.svn ∧ t.mgmt.meas = x.measure
    Completes (exec .firmwareBoot s) fun t =>
      t = State.irq { s with mgmt := { s.mgmt with boot := t.mgmt.boot, meas := t.mgmt.meas } } 0
        ∧ (∀ x, a = some x → good x → boots t x false)
        ∧ ((∀ x, a = some x → ¬good x) → ∀ x, b = some x → good x → boots t x true)
        ∧ ((∀ x, a = some x → ¬good x) → (∀ x, b = some x → ¬good x) → t.mgmt.boot.extractLsb' 0 2 = 2 ∧ t.mgmt.meas = []))
  ∧ (∀ (s : State) (p : Fin 16) (peer : Word), s.ev = .linkTraining p peer → (s.port p).up = false → (s.port p).failed = false →
    s.part.getLsbD 26 = true → edgeInside s p = true →
    exec .linkTraining s = .next (if peer = s.part then s.setPort p { s.port p with up := true } else portEvent s p))
  ∧ (∀ (s : State) (p : Fin 16) (peer : Word), s.ev = .linkTraining p peer → (s.port p).failed = true → exec .linkTraining s = .next s)
  ∧ (∀ (s : State) (p : Fin 16) (f : Flit), s.ev = .flitReceive p f → (s.port p).up = true →
    let x := s.port p
    let nak : State := s.setPort p { x with acks := x.acks ++ [(x.rxSeq, true)], out := x.out ++ [ackFlit x x.rxSeq true] }
    let heard (u : State) : State := u.raise (if f.nak = 1 then .flitNakReceive p f.ack else .flitAckReceive p f.ack)
    (crc32 f.covered ≠ f.crc → exec .flitReceive s = .next nak)
    ∧ (crc32 f.covered = f.crc → f.ftype ≠ Config.flitType + 1 →
        (f.seq = x.rxSeq + 1 → exec .flitReceive s = .next (heard (s.setPort p
          { x with rxSeq := f.seq, rx := x.rx ++ [f], acks := x.acks ++ [(f.seq, false)], out := x.out ++ [ackFlit x f.seq false] })))
        ∧ (f.seq ≠ x.rxSeq + 1 → (x.rxSeq - f.seq).toNat < 2048 → exec .flitReceive s = .next (heard (s.setPort p x)))
        ∧ (f.seq ≠ x.rxSeq + 1 → 2048 ≤ (x.rxSeq - f.seq).toNat → exec .flitReceive s = .next nak)))
  ∧ (∀ (s : State) (p : Fin 16) (f : Flit), s.ev = .flitReceiveInReset p f → (s.port p).up = true → s.reset?.isSome = true →
    crc32 f.covered = f.crc → f.ftype ≠ Config.flitType + 1 → f.seq = (s.port p).rxSeq + 1 →
    let x := s.port p
    exec .flitReceiveInReset s = .next (s.setPort p
      { x with rxSeq := f.seq, acks := x.acks ++ [(f.seq, false)], out := x.out ++ [ackFlit x f.seq false] }))
  ∧ (∀ (s : State) (i : Nat) (m : Msg), s.ev = .destinationInResetReport i → (s.outMsgs.take s.linked).find? (·.id == i) = some m →
    let u := { s with outMsgs := s.outMsgs.erase m, linked := s.linked - 1 }
    (∀ ws, m.body = .append ws → ∀ L, s.localCore m.src = some L → exec .destinationInResetReport s = .next (giveStatus u L m.fibre 0x131))
    ∧ (∀ va k bs, m.body = .store va k bs →
        exec .destinationInResetReport s = .next (u.fqSend m.ctx (nofibEntry u m.ctx 0x131 false m.src m.fibre m.pc (va.setWidth 64)
          (BitVec.ofNat 64 m.dst.toNat) ((idLeaf m.src).map dieOf |>.getD 0)))))
  ∧ (∀ (s : State) (p : Fin 16) (seq : BitVec 12), s.ev = .flitNakReceive p seq → (s.port p).up = true →
    let x := s.port p
    let l := acked x.replay seq
    let tries := if l.length < x.replay.length then 1 else x.tries + 1
    Completes (exec .flitNakReceive s) fun t =>
      let y := t.port p
      t.mem = s.mem ∧ t.cores = s.cores
        ∧ if l = [] then y.replay = [] ∧ y.tries = 0 ∧ y.out = x.out ∧ y.retry = x.retry ∧ t.agenda = s.agenda
          else if 17 ≤ tries then y.tries = tries ∧ y.replay = x.replay ∧ y.out = x.out ∧ y.retry = x.retry ∧ t.agenda = .portDown p :: s.agenda
          else y.tries = tries ∧ y.replay = l ∧ y.out = x.out ++ l ∧ t.agenda = s.agenda
            ∧ y.retry = if x.retry = BitVec.allOnes 16 then x.retry else x.retry + 1)
  ∧ (∀ (s : State) (p : Fin 16) (seq : BitVec 12), s.ev = .flitAckReceive p seq →
    let x := s.port p
    let l := acked x.replay seq
    exec .flitAckReceive s = .next (s.setPort p { x with replay := l, tries := if l.length < x.replay.length then 0 else x.tries }))
  ∧ (∀ (s : State) (p : Fin 16), s.ev = .portDown p → (s.port p).up = true → 17 ≤ (s.port p).tries →
    let x := s.port p
    let u := portEvent (s.setPort p { x with up := false, failed := true, replay := [], moved := [], tries := 0 }) p
    (∀ q : Fin 16, usePort u (p.val / 4) (p.val % 4) = some q → Completes (exec .portDown s) fun t =>
      (t.port p).up = false ∧ (t.port p).failed = true ∧ (t.port p).replay = [] ∧ p ≠ q
        ∧ (∃ l, (t.port q).out = (s.port q).out ++ l
            ∧ l.map (·.payload) ++ (t.port q).moved = (s.port q).moved ++ x.replay.map (·.payload) ++ x.moved)
        ∧ ((s.port q).replay.length ≤ 512 → (t.port q).replay.length ≤ 512))
    ∧ (usePort u (p.val / 4) (p.val % 4) = none → Completes (exec .portDown s) fun t =>
        (t.port p).up = false ∧ (t.port p).failed = true
          ∧ ∀ (c : Fin 48) (y : Ctx), (c.val, y) ∈ s.ctxs → y.en = true → .fatalFault c 0x130 0xFFFFFFFF ∈ t.agenda))
  ∧ (∀ (s : State) (p lane : Fin 16) (m : BitVec 8), s.ev = .laneMarginMeasure p lane m → (s.port p).up = true →
    Completes (exec .laneMarginMeasure s) fun t =>
      t = s.setPort p (t.port p) ∧ spGet (t.port p).margins lane 0 = m
        ∧ (t.port p).training = if m.toNat < s.lmthr.toNat ∧ (s.port p).degr = false ∧ (s.port p).training = none then some lane
            else (s.port p).training)
  ∧ (∀ (s : State) (p lane : Fin 16), s.ev = .laneSwap p → (s.port p).training = some lane →
    Completes (exec .laneSwap s) fun t =>
      (t.port p).degr = true ∧ (t.port p).swap.toNat = lane ∧ (t.port p).training = none ∧ (t.port p).up = (s.port p).up ∧ t.mem = s.mem)
  ∧ (∀ (s : State) (cls : Fin 5), s.ev = .budgetPeriodStart cls →
    Completes (exec .budgetPeriodStart s) fun t =>
      (∀ i, spGet t.used i 0 = if i / 8 = cls then 0 else spGet s.used i 0)
        ∧ (∀ i v, s.budgetNext = [(i, v)] → i / 8 = cls → t.share i = v.toNat ∧ t.budgetNext = [])
        ∧ ∀ i, (∀ e ∈ s.budgetNext, e.1 ≠ i) → t.share i = s.share i)
  ∧ (∀ (s : State) (cls : Fin 5) (act : Fin 7) (v : Word), s.ev = .modBudgetWrite cls act .both v → s.recovery = false →
    let i := cls.val * 8 + act
    let new := (v.extractLsb' 0 13).toNat
    let others := ((List.range 7).filter fun a => a != act.val).foldl (fun n a => n + s.shareSet (cls.val * 8 + a)) 0
    exec .modBudgetWrite s = .next (
      if s.shareSet i < new ∧ 4096 < others + new then { s with bErr := BitVec.ofNat 7 (1 + cls.val * 2 + act * 16) }
      else { s with budgetNext := s.budgetNext.filter (·.1 != i) ++ [(i, BitVec.ofNat 13 new)] }))
  ∧ (∀ (s : State) (d : Fin 8) (amps : BitVec 12), s.ev = .railThrottle d amps → 2000 ≤ amps.toNat →
    Completes (exec .railThrottle s) fun t =>
      (t.die d).throttled = true ∧ (t.die d).amps = amps ∧ (t.die d).throtAt = some (s.die d).cycle.toNat ∧ t.mem = s.mem ∧ t.cores = s.cores)
  ∧ (∀ (s : State) (d : Fin 8), s.ev = .railThrottleEnd d → (s.die d).throttled = true →
    Completes (exec .railThrottleEnd s) fun t =>
      (t.die d).throttled = false ∧ (t.die d).throtAt = some (s.die d).cycle.toNat ∧ t.mem = s.mem ∧ t.cores = s.cores)
  ∧ ∀ (s : State) (a : EccAt) (k d : Nat), eccHome a = some (k, d) →
    (∀ syn, s.ev = .scrubRead a (.corrected syn) → exec .scrubRead s = .next (s.event d 0xFFFFFFFF 3 0xFF (k % 2 ^ 64 + syn.toNat * 2 ^ 64)))
    ∧ (s.ev = .scrubRead a .uncorrectable → Completes (exec .scrubRead s) fun t =>
        (∀ i < 64, t.poisoned (k / 64 * 64 + i) 1 = true) ∧ t.mem = s.mem ∧ t.cores = s.cores)
    ∧ (s.ev = .scrubRead a .clean → exec .scrubRead s = .next s)

/-! ## Checkpoints, attestation and the mailbox -/

/-- A CHECKPOINT checks its regions, waits for the step boundary, stops the context, copies, lets it go on, exchanges digests and drains to the host; a RESTORE
checks its manifest, waits, installs and completes; the controller writes attestation reports and certificates, and takes a
partition record (R101, R111, R112, R129–R134). That GO clears DEV_ATTCMD.DONE (log entry 40), and the order of a CHECKPOINT's checks and the
FAULT of both its entries for a list that cannot be read (log entry 39), are the model's choice. -/
def Obligations.CheckpointsAndTheController : Prop :=
  (∀ (s u : State) (c : Fin 48) (i : Nat) (p : Packet), s.ev = .checkpointPacket c i → issuing s c i 7 = some (u, p) →
    (∀ cause, regionList u c = .error cause → exec .checkpointPacket s = .next (pktDone (pktEntry u c p 3 cause 1) c p 3 cause 2))
    ∧ ∀ l, regionList u c = .ok l →
        if (p.va 1).toNat / 2 ^ 48 = 0xFF then exec .checkpointPacket s = .next (pktDone (pktEntry u c p 3 0x068 1) c p 3 0x068 2)
        else if devaHolds u c (p.va 1) (shardsLen (l.map (·.1)) + (shardBytes u c).length) = false then
          exec .checkpointPacket s = .next (haltBefore (pktDone u c p 2 0x16E 0) c p.q)
        else if (∃ x ∈ l, x.2 = false) then exec .checkpointPacket s = .next (haltBefore (pktDone u c p 2 0x160 0) c p.q)
        else Completes (exec .checkpointPacket s) fun t =>
          (t.ctx c).cutting = true ∧ (t.ctx c).ckPhase = 1 ∧ t.mem = s.mem ∧ t.cores = s.cores
            ∧ ((t.ctx c).ckpt.map fun k => (k.pkt, k.restore, k.deva, k.hosta, k.dedup, k.cuts, k.shards))
                = some (i, false, p.va 1, p.w 2, p.num 24 1 == 1, false, l.map (·.1))
            ∧ ∀ d : Fin 8, (u.die d).book.state = .run → (u.die d).book.ctx.toNat = c → (t.die d).book.state = .held ∧ (t.die d).book.ckhold = true)
  ∧ (∀ (s : State) (c : Fin 48) (k : Ckpt), s.ev = .checkpointStepBoundary c → (s.ctx c).ckpt = some k → k.restore = false → k.cuts = false →
    exec .checkpointStepBoundary s = .next (if atBoundary s c = true then
      ckptEvent ((gangStop s c 0x157).modCtx c fun x => { x with ckpt := some { k with cuts := true }, ckPhase := 2 }) c k.id else s))
  ∧ (∀ (s : State) (c : Fin 48) (k : Ckpt) (p : Packet), s.ev = .checkpointCopyDone c → (s.ctx c).ckpt = some k → running s c k.pkt 7 = some p →
    k.cuts = true → (s.ctx c).stopped = true → (s.ctx c).reasons.contains 0x170 = false →
    rangeHeld s c k.deva (shardsLen k.shards + (shardBytes s c).length) = false →
    exec .checkpointCopyDone s = .next (match secondCopy s c k with
      | .ok (u, k') =>
        let u := (releaseCut u c).modCtx c fun x => { x with drain := some k', ckPhase := 3 }
        let u := sendDigests (ckptEvent (pktEntry u c p 0 0 1) c k.id) c k'
        if k.hosta = 0 then
          drainEnd u c p k.id (match drainBytes u c k' with | .ok (_, pois) => pois | .error _ => true)
        else u
      | .error cause =>
        let u := (releaseCut s c).modCtx c fun x => { x with ckFail := true, ckPhase := 0 }
        ckptEvent (pktDone (pktEntry u c p 3 cause 1) c p 3 cause 2) c k.id))
  ∧ (∀ (s : State) (c : Fin 48) (i : Nat) (ridx : BitVec 16) (dig : BitVec 512) (k : Ckpt) (x : Shard),
    s.ev = .dedupDigestReceive c i ridx dig → (s.ctx c).drain = some k → k.shards[i]? = some x → k.exchanges x = true → ridx ≠ x.ridx →
    (s.die 0).cycle.toNat ≤ k.since + 19000000 →
    Completes (exec .dedupDigestReceive s) fun t =>
      t = (s.modCtx c fun y => { y with drain := (t.ctx c).drain })
        ∧ ((t.ctx c).drain.bind (·.shards[i]?)).map (fun y => (y.owner, y.ref, y.heard))
            = some (if dig = x.digest ∧ ridx.toNat < x.owner.toNat ∧ x.full = false then (ridx, true, ridx :: x.heard)
                else (x.owner, x.ref, ridx :: x.heard)))
  ∧ (∀ (s : State) (c : Fin 48) (i : Nat) (ridx : BitVec 16) (k : Ckpt) (x : Shard),
    s.ev = .dedupDigestTimeout c i ridx → (s.ctx c).drain = some k → k.shards[i]? = some x → k.exchanges x = true → ridx ≠ x.ridx →
    ridx ∉ x.heard → k.since + 19000000 ≤ (s.die 0).cycle.toNat →
    Completes (exec .dedupDigestTimeout s) fun t =>
      t = (s.modCtx c fun y => { y with drain := (t.ctx c).drain })
        ∧ if x.flags.getLsbD 1 then (t.ctx c).drain = some { k with failed := 0x174 }
          else ((t.ctx c).drain.bind (·.shards[i]?)).map (fun y => (y.owner, y.ref, y.full)) = some (x.ridx, false, true))
  ∧ (∀ (s : State) (c : Fin 48) (e : Bool) (k : Ckpt) (p : Packet) (b : List Byte) (pois : Bool),
    s.ev = .checkpointDrainDone c e → (s.ctx c).drain = some k → running s c k.pkt 7 = some p →
    drainBytes s c k = .ok (b, pois) →
    let l := placeShards (256 + 128 * k.shards.length + 132) k.shards
    let fails : Bool := pois || k.failed != 0 || e
    let u := if fails then s else drainShards (s.hostWrite k.hosta.toNat (manifest s c k l)) k.hosta.toNat l b
    let v := u.modCtx c fun x => { x with drain := none, ckPhase := 0, ckFail := x.ckFail || fails }
    exec .checkpointDrainDone s = .next (ckptEvent (if fails then pktDone v c p 3 0x174 2 else pktDone v c p 0 0 2) c k.id))
  ∧ (∀ (s u : State) (c : Fin 48) (i : Nat) (p : Packet), s.ev = .restorePacket c i → issuing s c i 8 = some (u, p) →
    let n := 256 + 128 * leNat (((u.hostRead (p.w 2).toNat 256).drop 6).take 2)
    let m := u.hostRead (p.w 2).toNat (n + 132)
    if Config.manifestOk (m.take n) (m.drop n) (if p.w 4 = 0 then [] else u.hostRead (p.w 4).toNat 4096) = false then
      exec .restorePacket s = .next (pktDone u c p 3 0x175 0)
    else Completes (exec .restorePacket s) fun t =>
      t = (u.modCtx c fun x => { x with ckpt := (t.ctx c).ckpt, cutting := true })
        ∧ ((t.ctx c).ckpt.map fun k => (k.pkt, k.restore, k.deva, k.hosta, k.ended)) = some (i, true, p.va 1, p.w 2, false))
  ∧ (∀ (s u : State) (c : Fin 48) (k : Ckpt) (cause : Cause), s.ev = .restoreStepBoundary c → (s.ctx c).ckpt = some k → k.restore = true →
    k.ended = false → atBoundary s c = true →
    (match readShards s c k.hosta.toNat k.shards k.deva with
      | (v, some cause) => (v, cause)
      | (v, none) => installShards v c k) = (u, cause) →
    exec .restoreStepBoundary s = .next (u.modCtx c fun x => { x with ckpt := some { k with ended := true, failed := cause } }))
  ∧ (∀ (s : State) (c : Fin 48) (k : Ckpt) (p : Packet), s.ev = .restorePacketDone c → (s.ctx c).ckpt = some k → k.restore = true → k.ended = true →
    running s c k.pkt 8 = some p →
    exec .restorePacketDone s = .next (pktDone (s.modCtx c fun x => { x with ckpt := none, cutting := false }) c p
      (if k.failed = 0 then 0 else 3) k.failed 0))
  ∧ (∀ s : State, s.ev = .devAttcmdGo → s.mgmt.attBusy = false →
    exec .devAttcmdGo s = .next { s with mgmt := { s.mgmt with attBusy := true, attDone := false } })
  ∧ (∀ s : State, s.ev = .attestationDone → s.Inv → s.mgmt.attBusy = true →
    Completes (exec .attestationDone s) fun t =>
      Stores s t (hostKey s.mgmt.attAddr.toNat) (attReport s) ∧ (attReport s).length = 512 ∧ t.msix = s.msix ++ [0]
        ∧ t.mgmt = { s.mgmt with attBusy := false, attDone := true } ∧ t.cores = s.cores)
  ∧ (∀ (s : State) (i : Instr) (cert : List Byte),
    (s.ev = .mbxReadIdentityCert ∧ i = .mbxReadIdentityCert ∧ cert = Config.identityCert)
      ∨ (s.ev = .mbxReadCheckpointCert ∧ i = .mbxReadCheckpointCert ∧ cert = Config.checkpointCert)
      ∨ (s.ev = .mbxReadAuthorityCert ∧ i = .mbxReadAuthorityCert ∧ cert = Config.authorityCert) →
    s.Inv → s.mgmt.mbxBusy = false →
    Completes (exec i s) fun t =>
      Stores s t (hostKey s.mgmt.mbxAddr.toNat) (cert.take 4096)
        ∧ t.mgmt = { s.mgmt with mbxBusy := true, mbxErr := false, mbxLen := BitVec.ofNat 16 (cert.take 4096).length } ∧ t.cores = s.cores)
  ∧ (∀ s : State, s.ev = .mbxWritePartitionRecord → s.mgmt.mbxBusy = false →
    let w := BitVec.ofNat 64 (leNat (s.hostRead s.mgmt.mbxAddr.toNat 8))
    Completes (exec .mbxWritePartitionRecord s) fun t =>
      t.mem = s.mem ∧ t.cores = s.cores
        ∧ t.mgmt = { s.mgmt with
            mbxBusy := true, mbxLen := 0, mbxErr := decide (2 ^ 27 ≤ w.toNat), partRec := if 2 ^ 27 ≤ w.toNat then s.mgmt.partRec else w })
  ∧ (∀ (s : State) (cmd : BitVec 8), s.ev = .mbxInvalidCommand cmd → cmd = 0 ∨ 4 < cmd.toNat → s.mgmt.mbxBusy = false →
    exec .mbxInvalidCommand s = .next { s with mgmt := { s.mgmt with mbxBusy := true, mbxErr := true, mbxLen := 0 } })
  ∧ ∀ s : State, s.ev = .mbxCommandDone → s.mgmt.mbxBusy = true →
    exec .mbxCommandDone s = .next { s with msix := s.msix ++ [0], mgmt := { s.mgmt with mbxBusy := false, mbxDone := true } }

/-! ## Words -/

/-- The chains that chapters 13 and 14 work out decode as printed there: the instruction, or the cause with WORD and NPFX (R311–R325, R335–R343). -/
def Obligations.WorkedChainsDecodeAsPrinted : Prop :=
  decode [0x08D0] = .ok (.add { d := 1, s := 10 }, [])
  ∧ decode [0xF80C, 0x501A] = .ok (.ldd { d := 0, b := 3, disp := 2, m := { scope := 4, order := 1 } }, [])
  ∧ decode [0xF001, 0xFB00, 0x0918] = .ok (.vadd { d := 2, s := 3, m := { hints := { h0 := true, h1 := true } } }, [])
  ∧ decode [0x0001] = .ok (.nop, [])
  ∧ decode [0x012C] = .ok (.fence 2 0b1100, [])
  ∧ decode [0xEC9E, 0x0B18] = .error ⟨.registerClass, 0x0B18, 1⟩
  ∧ decode [0xEC96, 0x0898] = .ok (.add { d := 17, s := 35, t := some 9 }, [])
  ∧ decode [0xF001, 0xFC00, 0x0918] = .error ⟨.hintMustBeZero, 0x0918, 2⟩
  ∧ decode [0x0010] = .error ⟨.minorUnassigned, 0x0010, 0⟩
  ∧ decode [0xA000] = .error ⟨.majorUnassigned, 0xA000, 0⟩
  ∧ decode [0xF001, 0xC000] = .error ⟨.pageNotAccepted, 0xC000, 1⟩
  ∧ decode [0xF004, 0x0918] = .error ⟨.pageUnassigned, 0x0918, 1⟩
  ∧ decode [0xF007, 0x0918] = .error ⟨.formNotInRevision, 0x0918, 1⟩
  ∧ decode [0xE001, 0x08D0] = .error ⟨.immNotAccepted, 0x08D0, 1⟩
  ∧ decode [0xEC00, 0xC000] = .error ⟨.regNotAccepted, 0xC000, 1⟩
  ∧ decode [0xF801, 0x08D0] = .error ⟨.formatReserved, 0x08D0, 1⟩
  ∧ decode [0xF002, 0x0807] = .error ⟨.minorUnassigned, 0x0807, 1⟩
  ∧ decode [0xF003, 0x8004] = .error ⟨.minorUnassigned, 0x8004, 1⟩
  ∧ decode [0xE001, 0xE002, 0xE003, 0x3000] = .error ⟨.thirdImm, 0xE003, 2⟩
  ∧ decode [0xF002, 0xF003, 0x3000] = .error ⟨.repeatedPrefix, 0xF003, 1⟩
  ∧ decode [0xE001, 0xEC90, 0xF002, 0xFA0A, 0xE005, 0x3000] = .error ⟨.fifthPrefix, 0xE005, 4⟩
  ∧ decode [0xF000, 0x3000] = .error ⟨.pageNumberInvalid, 0x3000, 1⟩
  ∧ decode [0xFA05, 0x5000] = .error ⟨.scopeReserved, 0x5000, 1⟩
  ∧ decode [0xE001, 0x0000] = .error ⟨.undefinedWord, 0x0000, 1⟩
  ∧ decode [0xE001, 0xE7FF, 0x3040] = .ok (.addi { d := 0, imm := 524224 }, [])
  ∧ decode [0xE4F2, 0x3060] = .ok (.addi { d := 0, imm := -100000 }, [])
end

