-- ==== Sys2Proof/Laws/Maps.lean ====
section
/-! SUPPORT. Laws of the sparse maps and of the accessors of the module's parts: a read after a write of the same key
gives the value written, and a write leaves every other key alone. -/

namespace Sys2Proof.Machine

variable {α : Type}

@[simp] theorem spGet_spPut_same (m : Sparse α) (k : Nat) (x d : α) : spGet (spPut m k x) k d = x := by
  induction m with
  | nil => simp [spPut, spGet]
  | cons e r ih =>
    obtain ⟨i, y⟩ := e
    simp only [spPut]
    split
    · simp [spGet]
    · split
      · simp [spGet]
      · simp [spGet, *]

theorem spGet_spPut_ne {k j : Nat} (m : Sparse α) (x d : α) (h : j ≠ k) : spGet (spPut m k x) j d = spGet m j d := by
  induction m with
  | nil => simp [spPut, spGet, h.symm]
  | cons e r ih =>
    obtain ⟨i, y⟩ := e
    simp only [spPut]
    split
    · simp [spGet, h.symm]
    · split
      · subst_vars; simp [spGet, h.symm]
      · simp [spGet, ih]

@[simp] theorem spPut_spPut (m : Sparse α) (k : Nat) (x y : α) : spPut (spPut m k x) k y = spPut m k y := by
  induction m with
  | nil => simp [spPut]
  | cons e r ih =>
    obtain ⟨i, z⟩ := e
    simp only [spPut]
    split
    · simp [spPut]
    · split
      · simp [spPut]
      · simp [spPut, *]

/-! ## The module's parts -/

@[simp] theorem core_setCore_same (s : State) (L : Nat) (c : Core) : (s.setCore L c).core L = c := by
  simp [State.core, State.setCore]

theorem core_setCore_ne {L M : Nat} (s : State) (c : Core) (h : M ≠ L) : (s.setCore L c).core M = s.core M := by
  simp [State.core, State.setCore, spGet_spPut_ne _ _ _ h, State.cycleOf, State.die]

@[simp] theorem core_modCore_same (s : State) (L : Nat) (f : Core → Core) : (s.modCore L f).core L = f (s.core L) := by
  simp [State.modCore]

theorem core_modCore_ne {L M : Nat} (s : State) (f : Core → Core) (h : M ≠ L) : (s.modCore L f).core M = s.core M := by
  simp [State.modCore, core_setCore_ne _ _ h]

@[simp] theorem setCore_setCore (s : State) (L : Nat) (c d : Core) : (s.setCore L c).setCore L d = s.setCore L d := by
  simp [State.setCore]

@[simp] theorem modCore_modCore (s : State) (L : Nat) (f g : Core → Core) :
    (s.modCore L f).modCore L g = s.modCore L fun c => g (f c) := by
  simp [State.modCore]

@[simp] theorem cluster_setCluster_same (s : State) (k : Nat) (x : Cluster) : (s.setCluster k x).cluster k = x := by
  simp [State.cluster, State.setCluster]

theorem cluster_setCluster_ne {k j : Nat} (s : State) (x : Cluster) (h : j ≠ k) :
    (s.setCluster k x).cluster j = s.cluster j := by
  simp [State.cluster, State.setCluster, spGet_spPut_ne _ _ _ h]

@[simp] theorem ctx_setCtx_same (s : State) (c : Nat) (x : Ctx) : (s.setCtx c x).ctx c = x := by
  simp [State.ctx, State.setCtx]

theorem ctx_setCtx_ne {c d : Nat} (s : State) (x : Ctx) (h : d ≠ c) : (s.setCtx c x).ctx d = s.ctx d := by
  simp [State.ctx, State.setCtx, spGet_spPut_ne _ _ _ h]

@[simp] theorem fib_setFib_same (c : Core) (f : Nat) (x : Fibre) : (c.setFib f x).fib f = x := by
  simp [Core.fib, Core.setFib]

theorem fib_setFib_ne {f g : Nat} (c : Core) (x : Fibre) (h : g ≠ f) : (c.setFib f x).fib g = c.fib g := by
  simp [Core.fib, Core.setFib, spGet_spPut_ne _ _ _ h]

@[simp] theorem fib_modFib_same (c : Core) (f : Nat) (g : Fibre → Fibre) : (c.modFib f g).fib f = g (c.fib f) := by
  simp [Core.modFib]

theorem fib_modFib_ne {f h : Nat} (c : Core) (g : Fibre → Fibre) (n : h ≠ f) : (c.modFib f g).fib h = c.fib h := by
  simp [Core.modFib, fib_setFib_ne _ _ n]

@[simp] theorem modFib_modFib (c : Core) (f : Nat) (g h : Fibre → Fibre) :
    (c.modFib f g).modFib f h = c.modFib f fun x => h (g x) := by
  simp [Core.modFib, Core.setFib, Core.fib]

@[simp] theorem inSlot_modFib (c : Core) (f : Nat) (g : Fibre → Fibre) (i : Nat) : (c.modFib f g).inSlot i = c.inSlot i := rfl

@[simp] theorem shadow_modFib (c : Core) (f : Nat) (g : Fibre → Fibre) (i : Nat) : (c.modFib f g).shadow i = c.shadow i := rfl

end Sys2Proof.Machine
end

