-- ==== Sys2Proof/Laws/Memory.lean ====
section
/-! SUPPORT. Laws of memory: every operation keeps the canonical form, a read after a write gives the bytes written, and
a write leaves every other key alone. -/

namespace Sys2Proof.Machine

/-! ## The canonical form -/

theorem memWfFrom_mono {a b : Nat} {m : List Host.Cell} (h : memWfFrom b m = true) (hab : a ≤ b) : memWfFrom a m = true := by
  cases m with
  | nil => rfl
  | cons e r =>
    obtain ⟨i, x⟩ := e
    simp only [memWfFrom, Bool.and_eq_true, decide_eq_true_eq] at h ⊢
    exact ⟨⟨by omega, h.1.2⟩, h.2⟩

theorem memWfFrom_filter (p : Host.Cell → Bool) {lo : Nat} {m : List Host.Cell} (h : memWfFrom lo m = true) :
    memWfFrom lo (m.filter p) = true := by
  induction m generalizing lo with
  | nil => rfl
  | cons e r ih =>
    obtain ⟨i, x⟩ := e
    simp only [memWfFrom, Bool.and_eq_true, decide_eq_true_eq] at h
    rw [List.filter_cons]
    split
    · simp only [memWfFrom, Bool.and_eq_true, decide_eq_true_eq]
      exact ⟨h.1, ih h.2⟩
    · exact ih (memWfFrom_mono h.2 (by omega))

theorem memWfFrom_memPut {lo k : Nat} (b : Byte) {m : List Host.Cell} (h : memWfFrom lo m = true) (hk : lo ≤ k) :
    memWfFrom lo (memPut m k b) = true := by
  induction m generalizing lo with
  | nil => simp only [memPut]; split <;> simp_all [memWfFrom]
  | cons e r ih =>
    obtain ⟨i, x⟩ := e
    have h' := h
    simp only [memWfFrom, Bool.and_eq_true, decide_eq_true_eq] at h
    simp only [memPut]
    split
    · split
      · exact h'
      · simp only [memWfFrom, Bool.and_eq_true, decide_eq_true_eq]
        exact ⟨⟨hk, by assumption⟩, ⟨by omega, h.1.2⟩, h.2⟩
    · split
      · subst_vars
        split
        · exact memWfFrom_mono h.2 (by omega)
        · simp only [memWfFrom, Bool.and_eq_true, decide_eq_true_eq]
          exact ⟨⟨hk, by assumption⟩, h.2⟩
      · simp only [memWfFrom, Bool.and_eq_true, decide_eq_true_eq]
        exact ⟨h.1, ih h.2 (by omega)⟩

theorem memPut_wf {m : List Host.Cell} (k : Nat) (b : Byte) (h : Memory.wf m = true) : Memory.wf (memPut m k b) = true :=
  memWfFrom_memPut b h (Nat.zero_le k)

theorem memPuts_wf {m : List Host.Cell} (k : Nat) (bs : List Byte) (h : Memory.wf m = true) :
    Memory.wf (memPuts m k bs) = true := by
  induction bs generalizing m k with
  | nil => exact h
  | cons b r ih => exact ih (k + 1) (memPut_wf k b h)

theorem memFilter_wf {m : List Host.Cell} (p : Host.Cell → Bool) (h : Memory.wf m = true) : Memory.wf (m.filter p) = true :=
  memWfFrom_filter p h

theorem memClear_wf {m : List Host.Cell} (k n : Nat) (h : Memory.wf m = true) : Memory.wf (memClear m k n) = true :=
  memFilter_wf _ h

/-- Every write of bytes keeps the canonical form. -/
theorem wr_wf {s : State} (k : Nat) (bs : List Byte) (h : Memory.wf s.mem = true) : Memory.wf (s.wr k bs).mem = true :=
  memPuts_wf k bs h

theorem wrN_wf {s : State} (k n v : Nat) (h : Memory.wf s.mem = true) : Memory.wf (s.wrN k n v).mem = true := wr_wf _ _ h

theorem markPoison_mem (s : State) (k n : Nat) : (s.markPoison k n).mem = s.mem := rfl

/-- Reset memory lists nothing. -/
theorem reset_memory_wf : Memory.wf State.reset.mem = true := rfl

/-! ## Reads after writes -/

theorem memGet_below {lo k : Nat} {m : List Host.Cell} (h : memWfFrom lo m = true) (hk : k < lo) : memGet m k = 0 := by
  cases m with
  | nil => rfl
  | cons e r =>
    obtain ⟨i, x⟩ := e
    simp only [memWfFrom, Bool.and_eq_true, decide_eq_true_eq] at h
    simp only [memGet]
    rw [if_neg (by omega), if_pos (by omega)]

theorem memGet_memPut {lo : Nat} {m : List Host.Cell} (h : memWfFrom lo m = true) (k j : Nat) (b : Byte) :
    memGet (memPut m k b) j = if j = k then b else memGet m j := by
  induction m generalizing lo with
  | nil =>
    simp only [memPut]
    split <;> simp only [memGet] <;> repeat' split
    all_goals first | rfl | omega | simp_all
  | cons e r ih =>
    obtain ⟨i, x⟩ := e
    have h' := h
    simp only [memWfFrom, Bool.and_eq_true, decide_eq_true_eq] at h
    have hlow := fun hj : j < i + 1 => memGet_below h.2 hj
    simp only [memPut]
    split
    · split
      · subst_vars
        by_cases hj : j = k
        · subst_vars
          simp only [memGet]
          rw [if_neg (by omega), if_pos (by omega), if_pos trivial]
        · rw [if_neg hj]
      · by_cases hj : j = k
        · subst_vars; simp [memGet]
        · simp only [memGet, hj, if_false, if_neg (Ne.symm hj)]
          split
          · rw [if_neg (by omega), if_pos (by omega)]
          · rfl
    · split
      · subst_vars
        by_cases hj : j = i
        · subst_vars
          split
          · simp_all
          · simp [memGet]
        · split
          · simp only [memGet, if_neg (Ne.symm hj)]
            split
            · exact hlow (by omega)
            · rfl
          · simp [memGet, Ne.symm hj]
      · simp only [memGet, ih h.2]
        repeat' split
        all_goals first | rfl | omega

/-- A read of a byte after bytes were written: the byte written there, or the byte that stood there. -/
theorem memGet_memPuts {m : List Host.Cell} (h : Memory.wf m = true) (k j : Nat) (bs : List Byte) :
    memGet (memPuts m k bs) j = if k ≤ j ∧ j < k + bs.length then bs.getD (j - k) 0 else memGet m j := by
  induction bs generalizing m k with
  | nil =>
    simp only [memPuts, List.length_nil]
    rw [if_neg (by omega)]
  | cons b r ih =>
    simp only [memPuts, List.length_cons]
    rw [ih (memPut_wf k b h), memGet_memPut (lo := 0) h]
    by_cases hj : j = k
    · subst_vars; simp [show ¬ k + 1 ≤ k by omega]
    · by_cases hin : k + 1 ≤ j ∧ j < k + 1 + r.length
      · rw [if_pos hin, if_pos (by omega)]
        obtain ⟨n, rfl⟩ : ∃ n, j = k + 1 + n := ⟨j - (k + 1), by omega⟩
        simp [show k + 1 + n - k = n + 1 by omega]
      · rw [if_neg hin, if_neg hj, if_neg (by omega)]

/-- A write leaves every byte outside it as it was. -/
theorem memGet_wr_outside {s : State} (h : Memory.wf s.mem = true) (k j : Nat) (bs : List Byte)
    (hj : j < k ∨ k + bs.length ≤ j) : memGet (s.wr k bs).mem j = memGet s.mem j := by
  simp only [State.wr]
  rw [memGet_memPuts h, if_neg (by omega)]

theorem memGets_length (m : List Host.Cell) (k n : Nat) : (memGets m k n).length = n := by
  induction n generalizing k with
  | zero => rfl
  | succ n ih => simp [memGets, ih]

theorem memGets_memPuts_same {m : List Host.Cell} (h : Memory.wf m = true) (k : Nat) (bs : List Byte) :
    memGets (memPuts m k bs) k bs.length = bs := by
  have key : ∀ (n i : Nat), i + n = bs.length → memGets (memPuts m k bs) (k + i) n = bs.drop i := by
    intro n
    induction n with
    | zero => intro i hi; simp [memGets, ← hi]
    | succ n ih =>
      intro i hi
      have hlt : i < bs.length := by omega
      simp only [memGets]
      rw [memGet_memPuts h, if_pos (by omega), show k + i + 1 = k + (i + 1) by omega, ih (i + 1) (by omega),
        List.drop_eq_getElem_cons hlt]
      simp [show k + i - k = i by omega, hlt]
  simpa using key bs.length 0 (by omega)

/-! ## Little-endian numbers (R12) -/

theorem leBytes_length (n v : Nat) : (leBytes n v).length = n := by
  induction n generalizing v with
  | zero => rfl
  | succ n ih => simp [leBytes, ih]

theorem leNat_leBytes (n v : Nat) : leNat (leBytes n v) = v % 256 ^ n := by
  induction n generalizing v with
  | zero => simp [leBytes, leNat, Nat.mod_one]
  | succ n ih =>
    simp only [leBytes, leNat, ih, BitVec.toNat_ofNat]
    rw [show 256 ^ (n + 1) = 256 * 256 ^ n from Nat.pow_succ', Nat.mod_mul]

/-- A number reads back as it was written. -/
theorem rd_wrN_same {s : State} (h : Memory.wf s.mem = true) (k n v : Nat) : (s.wrN k n v).rd k n = v % 256 ^ n := by
  simp only [State.rd, State.wrN, State.wr]
  have := memGets_memPuts_same h k (leBytes n v)
  rw [leBytes_length] at this
  rw [this, leNat_leBytes]

end Sys2Proof.Machine
end

