-- ==== Sys2Proof/Laws/State.lean ====
section
/-! SUPPORT. One lemma per field per update of the state and of a core: what an update of one part leaves as it was. -/

namespace Sys2Proof.Machine

section
variable (s : State) (n : Nat)

@[simp] theorem mem_setCore (c : Core) : (s.setCore n c).mem = s.mem := rfl
@[simp] theorem poison_setCore (c : Core) : (s.setCore n c).poison = s.poison := rfl
@[simp] theorem clusters_setCore (c : Core) : (s.setCore n c).clusters = s.clusters := rfl
@[simp] theorem dies_setCore (c : Core) : (s.setCore n c).dies = s.dies := rfl
@[simp] theorem ctxs_setCore (c : Core) : (s.setCore n c).ctxs = s.ctxs := rfl
@[simp] theorem ports_setCore (c : Core) : (s.setCore n c).ports = s.ports := rfl
@[simp] theorem modNum_setCore (c : Core) : (s.setCore n c).modNum = s.modNum := rfl
@[simp] theorem part_setCore (c : Core) : (s.setCore n c).part = s.part := rfl
@[simp] theorem lmthr_setCore (c : Core) : (s.setCore n c).lmthr = s.lmthr := rfl
@[simp] theorem budget_setCore (c : Core) : (s.setCore n c).budget = s.budget := rfl
@[simp] theorem budgetNext_setCore (c : Core) : (s.setCore n c).budgetNext = s.budgetNext := rfl
@[simp] theorem used_setCore (c : Core) : (s.setCore n c).used = s.used := rfl
@[simp] theorem bErr_setCore (c : Core) : (s.setCore n c).bErr = s.bErr := rfl
@[simp] theorem reset_setCore (c : Core) : (s.setCore n c).reset? = s.reset? := rfl
@[simp] theorem pwrDie_setCore (c : Core) : (s.setCore n c).pwrDie = s.pwrDie := rfl
@[simp] theorem nfCfg_setCore (c : Core) : (s.setCore n c).nfCfg = s.nfCfg := rfl
@[simp] theorem nfCnt_setCore (c : Core) : (s.setCore n c).nfCnt = s.nfCnt := rfl
@[simp] theorem collSteps_setCore (c : Core) : (s.setCore n c).collSteps = s.collSteps := rfl
@[simp] theorem collPois_setCore (c : Core) : (s.setCore n c).collPois = s.collPois := rfl
@[simp] theorem collAbort_setCore (c : Core) : (s.setCore n c).collAbort = s.collAbort := rfl
@[simp] theorem dump_setCore (c : Core) : (s.setCore n c).dump = s.dump := rfl
@[simp] theorem cxlWin_setCore (c : Core) : (s.setCore n c).cxlWin = s.cxlWin := rfl
@[simp] theorem pwWins_setCore (c : Core) : (s.setCore n c).pwWins = s.pwWins := rfl
@[simp] theorem pwDrop_setCore (c : Core) : (s.setCore n c).pwDrop = s.pwDrop := rfl
@[simp] theorem mgmt_setCore (c : Core) : (s.setCore n c).mgmt = s.mgmt := rfl
@[simp] theorem msgs_setCore (c : Core) : (s.setCore n c).msgs = s.msgs := rfl
@[simp] theorem outMsgs_setCore (c : Core) : (s.setCore n c).outMsgs = s.outMsgs := rfl
@[simp] theorem linked_setCore (c : Core) : (s.setCore n c).linked = s.linked := rfl
@[simp] theorem grants_setCore (c : Core) : (s.setCore n c).grants = s.grants := rfl
@[simp] theorem heldWrites_setCore (c : Core) : (s.setCore n c).heldWrites = s.heldWrites := rfl
@[simp] theorem watches_setCore (c : Core) : (s.setCore n c).watches = s.watches := rfl
@[simp] theorem launches_setCore (c : Core) : (s.setCore n c).launches = s.launches := rfl
@[simp] theorem todos_setCore (c : Core) : (s.setCore n c).todos = s.todos := rfl
@[simp] theorem poisKept_setCore (c : Core) : (s.setCore n c).poisKept = s.poisKept := rfl
@[simp] theorem awayHolds_setCore (c : Core) : (s.setCore n c).awayHolds = s.awayHolds := rfl
@[simp] theorem msix_setCore (c : Core) : (s.setCore n c).msix = s.msix := rfl
@[simp] theorem hostData_setCore (c : Core) : (s.setCore n c).hostData = s.hostData := rfl
@[simp] theorem hostBytes_setCore (c : Core) : (s.setCore n c).hostBytes = s.hostBytes := rfl
@[simp] theorem hostPois_setCore (c : Core) : (s.setCore n c).hostPois = s.hostPois := rfl
@[simp] theorem hostLines_setCore (c : Core) : (s.setCore n c).hostLines = s.hostLines := rfl
@[simp] theorem snoops_setCore (c : Core) : (s.setCore n c).snoops = s.snoops := rfl
@[simp] theorem nextId_setCore (c : Core) : (s.setCore n c).nextId = s.nextId := rfl
@[simp] theorem free_setCore (c : Core) : (s.setCore n c).free = s.free := rfl
@[simp] theorem agenda_setCore (c : Core) : (s.setCore n c).agenda = s.agenda := rfl
@[simp] theorem ev_setCore (c : Core) : (s.setCore n c).ev = s.ev := rfl
@[simp] theorem focus_setCore (c : Core) : (s.setCore n c).focus = s.focus := rfl
@[simp] theorem cur_setCore (c : Core) : (s.setCore n c).cur = s.cur := rfl
@[simp] theorem mem_modCore (f : Core → Core) : (s.modCore n f).mem = s.mem := rfl
@[simp] theorem poison_modCore (f : Core → Core) : (s.modCore n f).poison = s.poison := rfl
@[simp] theorem clusters_modCore (f : Core → Core) : (s.modCore n f).clusters = s.clusters := rfl
@[simp] theorem dies_modCore (f : Core → Core) : (s.modCore n f).dies = s.dies := rfl
@[simp] theorem ctxs_modCore (f : Core → Core) : (s.modCore n f).ctxs = s.ctxs := rfl
@[simp] theorem ports_modCore (f : Core → Core) : (s.modCore n f).ports = s.ports := rfl
@[simp] theorem modNum_modCore (f : Core → Core) : (s.modCore n f).modNum = s.modNum := rfl
@[simp] theorem part_modCore (f : Core → Core) : (s.modCore n f).part = s.part := rfl
@[simp] theorem lmthr_modCore (f : Core → Core) : (s.modCore n f).lmthr = s.lmthr := rfl
@[simp] theorem budget_modCore (f : Core → Core) : (s.modCore n f).budget = s.budget := rfl
@[simp] theorem budgetNext_modCore (f : Core → Core) : (s.modCore n f).budgetNext = s.budgetNext := rfl
@[simp] theorem used_modCore (f : Core → Core) : (s.modCore n f).used = s.used := rfl
@[simp] theorem bErr_modCore (f : Core → Core) : (s.modCore n f).bErr = s.bErr := rfl
@[simp] theorem reset_modCore (f : Core → Core) : (s.modCore n f).reset? = s.reset? := rfl
@[simp] theorem pwrDie_modCore (f : Core → Core) : (s.modCore n f).pwrDie = s.pwrDie := rfl
@[simp] theorem nfCfg_modCore (f : Core → Core) : (s.modCore n f).nfCfg = s.nfCfg := rfl
@[simp] theorem nfCnt_modCore (f : Core → Core) : (s.modCore n f).nfCnt = s.nfCnt := rfl
@[simp] theorem collSteps_modCore (f : Core → Core) : (s.modCore n f).collSteps = s.collSteps := rfl
@[simp] theorem collPois_modCore (f : Core → Core) : (s.modCore n f).collPois = s.collPois := rfl
@[simp] theorem collAbort_modCore (f : Core → Core) : (s.modCore n f).collAbort = s.collAbort := rfl
@[simp] theorem dump_modCore (f : Core → Core) : (s.modCore n f).dump = s.dump := rfl
@[simp] theorem cxlWin_modCore (f : Core → Core) : (s.modCore n f).cxlWin = s.cxlWin := rfl
@[simp] theorem pwWins_modCore (f : Core → Core) : (s.modCore n f).pwWins = s.pwWins := rfl
@[simp] theorem pwDrop_modCore (f : Core → Core) : (s.modCore n f).pwDrop = s.pwDrop := rfl
@[simp] theorem mgmt_modCore (f : Core → Core) : (s.modCore n f).mgmt = s.mgmt := rfl
@[simp] theorem msgs_modCore (f : Core → Core) : (s.modCore n f).msgs = s.msgs := rfl
@[simp] theorem outMsgs_modCore (f : Core → Core) : (s.modCore n f).outMsgs = s.outMsgs := rfl
@[simp] theorem linked_modCore (f : Core → Core) : (s.modCore n f).linked = s.linked := rfl
@[simp] theorem grants_modCore (f : Core → Core) : (s.modCore n f).grants = s.grants := rfl
@[simp] theorem heldWrites_modCore (f : Core → Core) : (s.modCore n f).heldWrites = s.heldWrites := rfl
@[simp] theorem watches_modCore (f : Core → Core) : (s.modCore n f).watches = s.watches := rfl
@[simp] theorem launches_modCore (f : Core → Core) : (s.modCore n f).launches = s.launches := rfl
@[simp] theorem todos_modCore (f : Core → Core) : (s.modCore n f).todos = s.todos := rfl
@[simp] theorem poisKept_modCore (f : Core → Core) : (s.modCore n f).poisKept = s.poisKept := rfl
@[simp] theorem awayHolds_modCore (f : Core → Core) : (s.modCore n f).awayHolds = s.awayHolds := rfl
@[simp] theorem msix_modCore (f : Core → Core) : (s.modCore n f).msix = s.msix := rfl
@[simp] theorem hostData_modCore (f : Core → Core) : (s.modCore n f).hostData = s.hostData := rfl
@[simp] theorem hostBytes_modCore (f : Core → Core) : (s.modCore n f).hostBytes = s.hostBytes := rfl
@[simp] theorem hostPois_modCore (f : Core → Core) : (s.modCore n f).hostPois = s.hostPois := rfl
@[simp] theorem hostLines_modCore (f : Core → Core) : (s.modCore n f).hostLines = s.hostLines := rfl
@[simp] theorem snoops_modCore (f : Core → Core) : (s.modCore n f).snoops = s.snoops := rfl
@[simp] theorem nextId_modCore (f : Core → Core) : (s.modCore n f).nextId = s.nextId := rfl
@[simp] theorem free_modCore (f : Core → Core) : (s.modCore n f).free = s.free := rfl
@[simp] theorem agenda_modCore (f : Core → Core) : (s.modCore n f).agenda = s.agenda := rfl
@[simp] theorem ev_modCore (f : Core → Core) : (s.modCore n f).ev = s.ev := rfl
@[simp] theorem focus_modCore (f : Core → Core) : (s.modCore n f).focus = s.focus := rfl
@[simp] theorem cur_modCore (f : Core → Core) : (s.modCore n f).cur = s.cur := rfl
@[simp] theorem mem_setCtx (x : Ctx) : (s.setCtx n x).mem = s.mem := rfl
@[simp] theorem poison_setCtx (x : Ctx) : (s.setCtx n x).poison = s.poison := rfl
@[simp] theorem cores_setCtx (x : Ctx) : (s.setCtx n x).cores = s.cores := rfl
@[simp] theorem clusters_setCtx (x : Ctx) : (s.setCtx n x).clusters = s.clusters := rfl
@[simp] theorem dies_setCtx (x : Ctx) : (s.setCtx n x).dies = s.dies := rfl
@[simp] theorem ports_setCtx (x : Ctx) : (s.setCtx n x).ports = s.ports := rfl
@[simp] theorem modNum_setCtx (x : Ctx) : (s.setCtx n x).modNum = s.modNum := rfl
@[simp] theorem part_setCtx (x : Ctx) : (s.setCtx n x).part = s.part := rfl
@[simp] theorem lmthr_setCtx (x : Ctx) : (s.setCtx n x).lmthr = s.lmthr := rfl
@[simp] theorem budget_setCtx (x : Ctx) : (s.setCtx n x).budget = s.budget := rfl
@[simp] theorem budgetNext_setCtx (x : Ctx) : (s.setCtx n x).budgetNext = s.budgetNext := rfl
@[simp] theorem used_setCtx (x : Ctx) : (s.setCtx n x).used = s.used := rfl
@[simp] theorem bErr_setCtx (x : Ctx) : (s.setCtx n x).bErr = s.bErr := rfl
@[simp] theorem reset_setCtx (x : Ctx) : (s.setCtx n x).reset? = s.reset? := rfl
@[simp] theorem pwrDie_setCtx (x : Ctx) : (s.setCtx n x).pwrDie = s.pwrDie := rfl
@[simp] theorem nfCfg_setCtx (x : Ctx) : (s.setCtx n x).nfCfg = s.nfCfg := rfl
@[simp] theorem nfCnt_setCtx (x : Ctx) : (s.setCtx n x).nfCnt = s.nfCnt := rfl
@[simp] theorem collSteps_setCtx (x : Ctx) : (s.setCtx n x).collSteps = s.collSteps := rfl
@[simp] theorem collPois_setCtx (x : Ctx) : (s.setCtx n x).collPois = s.collPois := rfl
@[simp] theorem collAbort_setCtx (x : Ctx) : (s.setCtx n x).collAbort = s.collAbort := rfl
@[simp] theorem dump_setCtx (x : Ctx) : (s.setCtx n x).dump = s.dump := rfl
@[simp] theorem cxlWin_setCtx (x : Ctx) : (s.setCtx n x).cxlWin = s.cxlWin := rfl
@[simp] theorem pwWins_setCtx (x : Ctx) : (s.setCtx n x).pwWins = s.pwWins := rfl
@[simp] theorem pwDrop_setCtx (x : Ctx) : (s.setCtx n x).pwDrop = s.pwDrop := rfl
@[simp] theorem mgmt_setCtx (x : Ctx) : (s.setCtx n x).mgmt = s.mgmt := rfl
@[simp] theorem msgs_setCtx (x : Ctx) : (s.setCtx n x).msgs = s.msgs := rfl
@[simp] theorem outMsgs_setCtx (x : Ctx) : (s.setCtx n x).outMsgs = s.outMsgs := rfl
@[simp] theorem linked_setCtx (x : Ctx) : (s.setCtx n x).linked = s.linked := rfl
@[simp] theorem grants_setCtx (x : Ctx) : (s.setCtx n x).grants = s.grants := rfl
@[simp] theorem heldWrites_setCtx (x : Ctx) : (s.setCtx n x).heldWrites = s.heldWrites := rfl
@[simp] theorem watches_setCtx (x : Ctx) : (s.setCtx n x).watches = s.watches := rfl
@[simp] theorem launches_setCtx (x : Ctx) : (s.setCtx n x).launches = s.launches := rfl
@[simp] theorem todos_setCtx (x : Ctx) : (s.setCtx n x).todos = s.todos := rfl
@[simp] theorem poisKept_setCtx (x : Ctx) : (s.setCtx n x).poisKept = s.poisKept := rfl
@[simp] theorem awayHolds_setCtx (x : Ctx) : (s.setCtx n x).awayHolds = s.awayHolds := rfl
@[simp] theorem msix_setCtx (x : Ctx) : (s.setCtx n x).msix = s.msix := rfl
@[simp] theorem hostData_setCtx (x : Ctx) : (s.setCtx n x).hostData = s.hostData := rfl
@[simp] theorem hostBytes_setCtx (x : Ctx) : (s.setCtx n x).hostBytes = s.hostBytes := rfl
@[simp] theorem hostPois_setCtx (x : Ctx) : (s.setCtx n x).hostPois = s.hostPois := rfl
@[simp] theorem hostLines_setCtx (x : Ctx) : (s.setCtx n x).hostLines = s.hostLines := rfl
@[simp] theorem snoops_setCtx (x : Ctx) : (s.setCtx n x).snoops = s.snoops := rfl
@[simp] theorem nextId_setCtx (x : Ctx) : (s.setCtx n x).nextId = s.nextId := rfl
@[simp] theorem free_setCtx (x : Ctx) : (s.setCtx n x).free = s.free := rfl
@[simp] theorem agenda_setCtx (x : Ctx) : (s.setCtx n x).agenda = s.agenda := rfl
@[simp] theorem ev_setCtx (x : Ctx) : (s.setCtx n x).ev = s.ev := rfl
@[simp] theorem focus_setCtx (x : Ctx) : (s.setCtx n x).focus = s.focus := rfl
@[simp] theorem cur_setCtx (x : Ctx) : (s.setCtx n x).cur = s.cur := rfl
@[simp] theorem mem_modCtx (f : Ctx → Ctx) : (s.modCtx n f).mem = s.mem := rfl
@[simp] theorem poison_modCtx (f : Ctx → Ctx) : (s.modCtx n f).poison = s.poison := rfl
@[simp] theorem cores_modCtx (f : Ctx → Ctx) : (s.modCtx n f).cores = s.cores := rfl
@[simp] theorem clusters_modCtx (f : Ctx → Ctx) : (s.modCtx n f).clusters = s.clusters := rfl
@[simp] theorem dies_modCtx (f : Ctx → Ctx) : (s.modCtx n f).dies = s.dies := rfl
@[simp] theorem ports_modCtx (f : Ctx → Ctx) : (s.modCtx n f).ports = s.ports := rfl
@[simp] theorem modNum_modCtx (f : Ctx → Ctx) : (s.modCtx n f).modNum = s.modNum := rfl
@[simp] theorem part_modCtx (f : Ctx → Ctx) : (s.modCtx n f).part = s.part := rfl
@[simp] theorem lmthr_modCtx (f : Ctx → Ctx) : (s.modCtx n f).lmthr = s.lmthr := rfl
@[simp] theorem budget_modCtx (f : Ctx → Ctx) : (s.modCtx n f).budget = s.budget := rfl
@[simp] theorem budgetNext_modCtx (f : Ctx → Ctx) : (s.modCtx n f).budgetNext = s.budgetNext := rfl
@[simp] theorem used_modCtx (f : Ctx → Ctx) : (s.modCtx n f).used = s.used := rfl
@[simp] theorem bErr_modCtx (f : Ctx → Ctx) : (s.modCtx n f).bErr = s.bErr := rfl
@[simp] theorem reset_modCtx (f : Ctx → Ctx) : (s.modCtx n f).reset? = s.reset? := rfl
@[simp] theorem pwrDie_modCtx (f : Ctx → Ctx) : (s.modCtx n f).pwrDie = s.pwrDie := rfl
@[simp] theorem nfCfg_modCtx (f : Ctx → Ctx) : (s.modCtx n f).nfCfg = s.nfCfg := rfl
@[simp] theorem nfCnt_modCtx (f : Ctx → Ctx) : (s.modCtx n f).nfCnt = s.nfCnt := rfl
@[simp] theorem collSteps_modCtx (f : Ctx → Ctx) : (s.modCtx n f).collSteps = s.collSteps := rfl
@[simp] theorem collPois_modCtx (f : Ctx → Ctx) : (s.modCtx n f).collPois = s.collPois := rfl
@[simp] theorem collAbort_modCtx (f : Ctx → Ctx) : (s.modCtx n f).collAbort = s.collAbort := rfl
@[simp] theorem dump_modCtx (f : Ctx → Ctx) : (s.modCtx n f).dump = s.dump := rfl
@[simp] theorem cxlWin_modCtx (f : Ctx → Ctx) : (s.modCtx n f).cxlWin = s.cxlWin := rfl
@[simp] theorem pwWins_modCtx (f : Ctx → Ctx) : (s.modCtx n f).pwWins = s.pwWins := rfl
@[simp] theorem pwDrop_modCtx (f : Ctx → Ctx) : (s.modCtx n f).pwDrop = s.pwDrop := rfl
@[simp] theorem mgmt_modCtx (f : Ctx → Ctx) : (s.modCtx n f).mgmt = s.mgmt := rfl
@[simp] theorem msgs_modCtx (f : Ctx → Ctx) : (s.modCtx n f).msgs = s.msgs := rfl
@[simp] theorem outMsgs_modCtx (f : Ctx → Ctx) : (s.modCtx n f).outMsgs = s.outMsgs := rfl
@[simp] theorem linked_modCtx (f : Ctx → Ctx) : (s.modCtx n f).linked = s.linked := rfl
@[simp] theorem grants_modCtx (f : Ctx → Ctx) : (s.modCtx n f).grants = s.grants := rfl
@[simp] theorem heldWrites_modCtx (f : Ctx → Ctx) : (s.modCtx n f).heldWrites = s.heldWrites := rfl
@[simp] theorem watches_modCtx (f : Ctx → Ctx) : (s.modCtx n f).watches = s.watches := rfl
@[simp] theorem launches_modCtx (f : Ctx → Ctx) : (s.modCtx n f).launches = s.launches := rfl
@[simp] theorem todos_modCtx (f : Ctx → Ctx) : (s.modCtx n f).todos = s.todos := rfl
@[simp] theorem poisKept_modCtx (f : Ctx → Ctx) : (s.modCtx n f).poisKept = s.poisKept := rfl
@[simp] theorem awayHolds_modCtx (f : Ctx → Ctx) : (s.modCtx n f).awayHolds = s.awayHolds := rfl
@[simp] theorem msix_modCtx (f : Ctx → Ctx) : (s.modCtx n f).msix = s.msix := rfl
@[simp] theorem hostData_modCtx (f : Ctx → Ctx) : (s.modCtx n f).hostData = s.hostData := rfl
@[simp] theorem hostBytes_modCtx (f : Ctx → Ctx) : (s.modCtx n f).hostBytes = s.hostBytes := rfl
@[simp] theorem hostPois_modCtx (f : Ctx → Ctx) : (s.modCtx n f).hostPois = s.hostPois := rfl
@[simp] theorem hostLines_modCtx (f : Ctx → Ctx) : (s.modCtx n f).hostLines = s.hostLines := rfl
@[simp] theorem snoops_modCtx (f : Ctx → Ctx) : (s.modCtx n f).snoops = s.snoops := rfl
@[simp] theorem nextId_modCtx (f : Ctx → Ctx) : (s.modCtx n f).nextId = s.nextId := rfl
@[simp] theorem free_modCtx (f : Ctx → Ctx) : (s.modCtx n f).free = s.free := rfl
@[simp] theorem agenda_modCtx (f : Ctx → Ctx) : (s.modCtx n f).agenda = s.agenda := rfl
@[simp] theorem ev_modCtx (f : Ctx → Ctx) : (s.modCtx n f).ev = s.ev := rfl
@[simp] theorem focus_modCtx (f : Ctx → Ctx) : (s.modCtx n f).focus = s.focus := rfl
@[simp] theorem cur_modCtx (f : Ctx → Ctx) : (s.modCtx n f).cur = s.cur := rfl
@[simp] theorem mem_setDie (x : Die) : (s.setDie n x).mem = s.mem := rfl
@[simp] theorem poison_setDie (x : Die) : (s.setDie n x).poison = s.poison := rfl
@[simp] theorem cores_setDie (x : Die) : (s.setDie n x).cores = s.cores := rfl
@[simp] theorem clusters_setDie (x : Die) : (s.setDie n x).clusters = s.clusters := rfl
@[simp] theorem ctxs_setDie (x : Die) : (s.setDie n x).ctxs = s.ctxs := rfl
@[simp] theorem ports_setDie (x : Die) : (s.setDie n x).ports = s.ports := rfl
@[simp] theorem modNum_setDie (x : Die) : (s.setDie n x).modNum = s.modNum := rfl
@[simp] theorem part_setDie (x : Die) : (s.setDie n x).part = s.part := rfl
@[simp] theorem lmthr_setDie (x : Die) : (s.setDie n x).lmthr = s.lmthr := rfl
@[simp] theorem budget_setDie (x : Die) : (s.setDie n x).budget = s.budget := rfl
@[simp] theorem budgetNext_setDie (x : Die) : (s.setDie n x).budgetNext = s.budgetNext := rfl
@[simp] theorem used_setDie (x : Die) : (s.setDie n x).used = s.used := rfl
@[simp] theorem bErr_setDie (x : Die) : (s.setDie n x).bErr = s.bErr := rfl
@[simp] theorem reset_setDie (x : Die) : (s.setDie n x).reset? = s.reset? := rfl
@[simp] theorem pwrDie_setDie (x : Die) : (s.setDie n x).pwrDie = s.pwrDie := rfl
@[simp] theorem nfCfg_setDie (x : Die) : (s.setDie n x).nfCfg = s.nfCfg := rfl
@[simp] theorem nfCnt_setDie (x : Die) : (s.setDie n x).nfCnt = s.nfCnt := rfl
@[simp] theorem collSteps_setDie (x : Die) : (s.setDie n x).collSteps = s.collSteps := rfl
@[simp] theorem collPois_setDie (x : Die) : (s.setDie n x).collPois = s.collPois := rfl
@[simp] theorem collAbort_setDie (x : Die) : (s.setDie n x).collAbort = s.collAbort := rfl
@[simp] theorem dump_setDie (x : Die) : (s.setDie n x).dump = s.dump := rfl
@[simp] theorem cxlWin_setDie (x : Die) : (s.setDie n x).cxlWin = s.cxlWin := rfl
@[simp] theorem pwWins_setDie (x : Die) : (s.setDie n x).pwWins = s.pwWins := rfl
@[simp] theorem pwDrop_setDie (x : Die) : (s.setDie n x).pwDrop = s.pwDrop := rfl
@[simp] theorem mgmt_setDie (x : Die) : (s.setDie n x).mgmt = s.mgmt := rfl
@[simp] theorem msgs_setDie (x : Die) : (s.setDie n x).msgs = s.msgs := rfl
@[simp] theorem outMsgs_setDie (x : Die) : (s.setDie n x).outMsgs = s.outMsgs := rfl
@[simp] theorem linked_setDie (x : Die) : (s.setDie n x).linked = s.linked := rfl
@[simp] theorem grants_setDie (x : Die) : (s.setDie n x).grants = s.grants := rfl
@[simp] theorem heldWrites_setDie (x : Die) : (s.setDie n x).heldWrites = s.heldWrites := rfl
@[simp] theorem watches_setDie (x : Die) : (s.setDie n x).watches = s.watches := rfl
@[simp] theorem launches_setDie (x : Die) : (s.setDie n x).launches = s.launches := rfl
@[simp] theorem todos_setDie (x : Die) : (s.setDie n x).todos = s.todos := rfl
@[simp] theorem poisKept_setDie (x : Die) : (s.setDie n x).poisKept = s.poisKept := rfl
@[simp] theorem awayHolds_setDie (x : Die) : (s.setDie n x).awayHolds = s.awayHolds := rfl
@[simp] theorem msix_setDie (x : Die) : (s.setDie n x).msix = s.msix := rfl
@[simp] theorem hostData_setDie (x : Die) : (s.setDie n x).hostData = s.hostData := rfl
@[simp] theorem hostBytes_setDie (x : Die) : (s.setDie n x).hostBytes = s.hostBytes := rfl
@[simp] theorem hostPois_setDie (x : Die) : (s.setDie n x).hostPois = s.hostPois := rfl
@[simp] theorem hostLines_setDie (x : Die) : (s.setDie n x).hostLines = s.hostLines := rfl
@[simp] theorem snoops_setDie (x : Die) : (s.setDie n x).snoops = s.snoops := rfl
@[simp] theorem nextId_setDie (x : Die) : (s.setDie n x).nextId = s.nextId := rfl
@[simp] theorem free_setDie (x : Die) : (s.setDie n x).free = s.free := rfl
@[simp] theorem agenda_setDie (x : Die) : (s.setDie n x).agenda = s.agenda := rfl
@[simp] theorem ev_setDie (x : Die) : (s.setDie n x).ev = s.ev := rfl
@[simp] theorem focus_setDie (x : Die) : (s.setDie n x).focus = s.focus := rfl
@[simp] theorem cur_setDie (x : Die) : (s.setDie n x).cur = s.cur := rfl
@[simp] theorem mem_modDie (f : Die → Die) : (s.modDie n f).mem = s.mem := rfl
@[simp] theorem poison_modDie (f : Die → Die) : (s.modDie n f).poison = s.poison := rfl
@[simp] theorem cores_modDie (f : Die → Die) : (s.modDie n f).cores = s.cores := rfl
@[simp] theorem clusters_modDie (f : Die → Die) : (s.modDie n f).clusters = s.clusters := rfl
@[simp] theorem ctxs_modDie (f : Die → Die) : (s.modDie n f).ctxs = s.ctxs := rfl
@[simp] theorem ports_modDie (f : Die → Die) : (s.modDie n f).ports = s.ports := rfl
@[simp] theorem modNum_modDie (f : Die → Die) : (s.modDie n f).modNum = s.modNum := rfl
@[simp] theorem part_modDie (f : Die → Die) : (s.modDie n f).part = s.part := rfl
@[simp] theorem lmthr_modDie (f : Die → Die) : (s.modDie n f).lmthr = s.lmthr := rfl
@[simp] theorem budget_modDie (f : Die → Die) : (s.modDie n f).budget = s.budget := rfl
@[simp] theorem budgetNext_modDie (f : Die → Die) : (s.modDie n f).budgetNext = s.budgetNext := rfl
@[simp] theorem used_modDie (f : Die → Die) : (s.modDie n f).used = s.used := rfl
@[simp] theorem bErr_modDie (f : Die → Die) : (s.modDie n f).bErr = s.bErr := rfl
@[simp] theorem reset_modDie (f : Die → Die) : (s.modDie n f).reset? = s.reset? := rfl
@[simp] theorem pwrDie_modDie (f : Die → Die) : (s.modDie n f).pwrDie = s.pwrDie := rfl
@[simp] theorem nfCfg_modDie (f : Die → Die) : (s.modDie n f).nfCfg = s.nfCfg := rfl
@[simp] theorem nfCnt_modDie (f : Die → Die) : (s.modDie n f).nfCnt = s.nfCnt := rfl
@[simp] theorem collSteps_modDie (f : Die → Die) : (s.modDie n f).collSteps = s.collSteps := rfl
@[simp] theorem collPois_modDie (f : Die → Die) : (s.modDie n f).collPois = s.collPois := rfl
@[simp] theorem collAbort_modDie (f : Die → Die) : (s.modDie n f).collAbort = s.collAbort := rfl
@[simp] theorem dump_modDie (f : Die → Die) : (s.modDie n f).dump = s.dump := rfl
@[simp] theorem cxlWin_modDie (f : Die → Die) : (s.modDie n f).cxlWin = s.cxlWin := rfl
@[simp] theorem pwWins_modDie (f : Die → Die) : (s.modDie n f).pwWins = s.pwWins := rfl
@[simp] theorem pwDrop_modDie (f : Die → Die) : (s.modDie n f).pwDrop = s.pwDrop := rfl
@[simp] theorem mgmt_modDie (f : Die → Die) : (s.modDie n f).mgmt = s.mgmt := rfl
@[simp] theorem msgs_modDie (f : Die → Die) : (s.modDie n f).msgs = s.msgs := rfl
@[simp] theorem outMsgs_modDie (f : Die → Die) : (s.modDie n f).outMsgs = s.outMsgs := rfl
@[simp] theorem linked_modDie (f : Die → Die) : (s.modDie n f).linked = s.linked := rfl
@[simp] theorem grants_modDie (f : Die → Die) : (s.modDie n f).grants = s.grants := rfl
@[simp] theorem heldWrites_modDie (f : Die → Die) : (s.modDie n f).heldWrites = s.heldWrites := rfl
@[simp] theorem watches_modDie (f : Die → Die) : (s.modDie n f).watches = s.watches := rfl
@[simp] theorem launches_modDie (f : Die → Die) : (s.modDie n f).launches = s.launches := rfl
@[simp] theorem todos_modDie (f : Die → Die) : (s.modDie n f).todos = s.todos := rfl
@[simp] theorem poisKept_modDie (f : Die → Die) : (s.modDie n f).poisKept = s.poisKept := rfl
@[simp] theorem awayHolds_modDie (f : Die → Die) : (s.modDie n f).awayHolds = s.awayHolds := rfl
@[simp] theorem msix_modDie (f : Die → Die) : (s.modDie n f).msix = s.msix := rfl
@[simp] theorem hostData_modDie (f : Die → Die) : (s.modDie n f).hostData = s.hostData := rfl
@[simp] theorem hostBytes_modDie (f : Die → Die) : (s.modDie n f).hostBytes = s.hostBytes := rfl
@[simp] theorem hostPois_modDie (f : Die → Die) : (s.modDie n f).hostPois = s.hostPois := rfl
@[simp] theorem hostLines_modDie (f : Die → Die) : (s.modDie n f).hostLines = s.hostLines := rfl
@[simp] theorem snoops_modDie (f : Die → Die) : (s.modDie n f).snoops = s.snoops := rfl
@[simp] theorem nextId_modDie (f : Die → Die) : (s.modDie n f).nextId = s.nextId := rfl
@[simp] theorem free_modDie (f : Die → Die) : (s.modDie n f).free = s.free := rfl
@[simp] theorem agenda_modDie (f : Die → Die) : (s.modDie n f).agenda = s.agenda := rfl
@[simp] theorem ev_modDie (f : Die → Die) : (s.modDie n f).ev = s.ev := rfl
@[simp] theorem focus_modDie (f : Die → Die) : (s.modDie n f).focus = s.focus := rfl
@[simp] theorem cur_modDie (f : Die → Die) : (s.modDie n f).cur = s.cur := rfl
@[simp] theorem mem_setCluster (x : Cluster) : (s.setCluster n x).mem = s.mem := rfl
@[simp] theorem poison_setCluster (x : Cluster) : (s.setCluster n x).poison = s.poison := rfl
@[simp] theorem cores_setCluster (x : Cluster) : (s.setCluster n x).cores = s.cores := rfl
@[simp] theorem dies_setCluster (x : Cluster) : (s.setCluster n x).dies = s.dies := rfl
@[simp] theorem ctxs_setCluster (x : Cluster) : (s.setCluster n x).ctxs = s.ctxs := rfl
@[simp] theorem ports_setCluster (x : Cluster) : (s.setCluster n x).ports = s.ports := rfl
@[simp] theorem modNum_setCluster (x : Cluster) : (s.setCluster n x).modNum = s.modNum := rfl
@[simp] theorem part_setCluster (x : Cluster) : (s.setCluster n x).part = s.part := rfl
@[simp] theorem lmthr_setCluster (x : Cluster) : (s.setCluster n x).lmthr = s.lmthr := rfl
@[simp] theorem budget_setCluster (x : Cluster) : (s.setCluster n x).budget = s.budget := rfl
@[simp] theorem budgetNext_setCluster (x : Cluster) : (s.setCluster n x).budgetNext = s.budgetNext := rfl
@[simp] theorem used_setCluster (x : Cluster) : (s.setCluster n x).used = s.used := rfl
@[simp] theorem bErr_setCluster (x : Cluster) : (s.setCluster n x).bErr = s.bErr := rfl
@[simp] theorem reset_setCluster (x : Cluster) : (s.setCluster n x).reset? = s.reset? := rfl
@[simp] theorem pwrDie_setCluster (x : Cluster) : (s.setCluster n x).pwrDie = s.pwrDie := rfl
@[simp] theorem nfCfg_setCluster (x : Cluster) : (s.setCluster n x).nfCfg = s.nfCfg := rfl
@[simp] theorem nfCnt_setCluster (x : Cluster) : (s.setCluster n x).nfCnt = s.nfCnt := rfl
@[simp] theorem collSteps_setCluster (x : Cluster) : (s.setCluster n x).collSteps = s.collSteps := rfl
@[simp] theorem collPois_setCluster (x : Cluster) : (s.setCluster n x).collPois = s.collPois := rfl
@[simp] theorem collAbort_setCluster (x : Cluster) : (s.setCluster n x).collAbort = s.collAbort := rfl
@[simp] theorem dump_setCluster (x : Cluster) : (s.setCluster n x).dump = s.dump := rfl
@[simp] theorem cxlWin_setCluster (x : Cluster) : (s.setCluster n x).cxlWin = s.cxlWin := rfl
@[simp] theorem pwWins_setCluster (x : Cluster) : (s.setCluster n x).pwWins = s.pwWins := rfl
@[simp] theorem pwDrop_setCluster (x : Cluster) : (s.setCluster n x).pwDrop = s.pwDrop := rfl
@[simp] theorem mgmt_setCluster (x : Cluster) : (s.setCluster n x).mgmt = s.mgmt := rfl
@[simp] theorem msgs_setCluster (x : Cluster) : (s.setCluster n x).msgs = s.msgs := rfl
@[simp] theorem outMsgs_setCluster (x : Cluster) : (s.setCluster n x).outMsgs = s.outMsgs := rfl
@[simp] theorem linked_setCluster (x : Cluster) : (s.setCluster n x).linked = s.linked := rfl
@[simp] theorem grants_setCluster (x : Cluster) : (s.setCluster n x).grants = s.grants := rfl
@[simp] theorem heldWrites_setCluster (x : Cluster) : (s.setCluster n x).heldWrites = s.heldWrites := rfl
@[simp] theorem watches_setCluster (x : Cluster) : (s.setCluster n x).watches = s.watches := rfl
@[simp] theorem launches_setCluster (x : Cluster) : (s.setCluster n x).launches = s.launches := rfl
@[simp] theorem todos_setCluster (x : Cluster) : (s.setCluster n x).todos = s.todos := rfl
@[simp] theorem poisKept_setCluster (x : Cluster) : (s.setCluster n x).poisKept = s.poisKept := rfl
@[simp] theorem awayHolds_setCluster (x : Cluster) : (s.setCluster n x).awayHolds = s.awayHolds := rfl
@[simp] theorem msix_setCluster (x : Cluster) : (s.setCluster n x).msix = s.msix := rfl
@[simp] theorem hostData_setCluster (x : Cluster) : (s.setCluster n x).hostData = s.hostData := rfl
@[simp] theorem hostBytes_setCluster (x : Cluster) : (s.setCluster n x).hostBytes = s.hostBytes := rfl
@[simp] theorem hostPois_setCluster (x : Cluster) : (s.setCluster n x).hostPois = s.hostPois := rfl
@[simp] theorem hostLines_setCluster (x : Cluster) : (s.setCluster n x).hostLines = s.hostLines := rfl
@[simp] theorem snoops_setCluster (x : Cluster) : (s.setCluster n x).snoops = s.snoops := rfl
@[simp] theorem nextId_setCluster (x : Cluster) : (s.setCluster n x).nextId = s.nextId := rfl
@[simp] theorem free_setCluster (x : Cluster) : (s.setCluster n x).free = s.free := rfl
@[simp] theorem agenda_setCluster (x : Cluster) : (s.setCluster n x).agenda = s.agenda := rfl
@[simp] theorem ev_setCluster (x : Cluster) : (s.setCluster n x).ev = s.ev := rfl
@[simp] theorem focus_setCluster (x : Cluster) : (s.setCluster n x).focus = s.focus := rfl
@[simp] theorem cur_setCluster (x : Cluster) : (s.setCluster n x).cur = s.cur := rfl
@[simp] theorem mem_modCluster (f : Cluster → Cluster) : (s.modCluster n f).mem = s.mem := rfl
@[simp] theorem poison_modCluster (f : Cluster → Cluster) : (s.modCluster n f).poison = s.poison := rfl
@[simp] theorem cores_modCluster (f : Cluster → Cluster) : (s.modCluster n f).cores = s.cores := rfl
@[simp] theorem dies_modCluster (f : Cluster → Cluster) : (s.modCluster n f).dies = s.dies := rfl
@[simp] theorem ctxs_modCluster (f : Cluster → Cluster) : (s.modCluster n f).ctxs = s.ctxs := rfl
@[simp] theorem ports_modCluster (f : Cluster → Cluster) : (s.modCluster n f).ports = s.ports := rfl
@[simp] theorem modNum_modCluster (f : Cluster → Cluster) : (s.modCluster n f).modNum = s.modNum := rfl
@[simp] theorem part_modCluster (f : Cluster → Cluster) : (s.modCluster n f).part = s.part := rfl
@[simp] theorem lmthr_modCluster (f : Cluster → Cluster) : (s.modCluster n f).lmthr = s.lmthr := rfl
@[simp] theorem budget_modCluster (f : Cluster → Cluster) : (s.modCluster n f).budget = s.budget := rfl
@[simp] theorem budgetNext_modCluster (f : Cluster → Cluster) : (s.modCluster n f).budgetNext = s.budgetNext := rfl
@[simp] theorem used_modCluster (f : Cluster → Cluster) : (s.modCluster n f).used = s.used := rfl
@[simp] theorem bErr_modCluster (f : Cluster → Cluster) : (s.modCluster n f).bErr = s.bErr := rfl
@[simp] theorem reset_modCluster (f : Cluster → Cluster) : (s.modCluster n f).reset? = s.reset? := rfl
@[simp] theorem pwrDie_modCluster (f : Cluster → Cluster) : (s.modCluster n f).pwrDie = s.pwrDie := rfl
@[simp] theorem nfCfg_modCluster (f : Cluster → Cluster) : (s.modCluster n f).nfCfg = s.nfCfg := rfl
@[simp] theorem nfCnt_modCluster (f : Cluster → Cluster) : (s.modCluster n f).nfCnt = s.nfCnt := rfl
@[simp] theorem collSteps_modCluster (f : Cluster → Cluster) : (s.modCluster n f).collSteps = s.collSteps := rfl
@[simp] theorem collPois_modCluster (f : Cluster → Cluster) : (s.modCluster n f).collPois = s.collPois := rfl
@[simp] theorem collAbort_modCluster (f : Cluster → Cluster) : (s.modCluster n f).collAbort = s.collAbort := rfl
@[simp] theorem dump_modCluster (f : Cluster → Cluster) : (s.modCluster n f).dump = s.dump := rfl
@[simp] theorem cxlWin_modCluster (f : Cluster → Cluster) : (s.modCluster n f).cxlWin = s.cxlWin := rfl
@[simp] theorem pwWins_modCluster (f : Cluster → Cluster) : (s.modCluster n f).pwWins = s.pwWins := rfl
@[simp] theorem pwDrop_modCluster (f : Cluster → Cluster) : (s.modCluster n f).pwDrop = s.pwDrop := rfl
@[simp] theorem mgmt_modCluster (f : Cluster → Cluster) : (s.modCluster n f).mgmt = s.mgmt := rfl
@[simp] theorem msgs_modCluster (f : Cluster → Cluster) : (s.modCluster n f).msgs = s.msgs := rfl
@[simp] theorem outMsgs_modCluster (f : Cluster → Cluster) : (s.modCluster n f).outMsgs = s.outMsgs := rfl
@[simp] theorem linked_modCluster (f : Cluster → Cluster) : (s.modCluster n f).linked = s.linked := rfl
@[simp] theorem grants_modCluster (f : Cluster → Cluster) : (s.modCluster n f).grants = s.grants := rfl
@[simp] theorem heldWrites_modCluster (f : Cluster → Cluster) : (s.modCluster n f).heldWrites = s.heldWrites := rfl
@[simp] theorem watches_modCluster (f : Cluster → Cluster) : (s.modCluster n f).watches = s.watches := rfl
@[simp] theorem launches_modCluster (f : Cluster → Cluster) : (s.modCluster n f).launches = s.launches := rfl
@[simp] theorem todos_modCluster (f : Cluster → Cluster) : (s.modCluster n f).todos = s.todos := rfl
@[simp] theorem poisKept_modCluster (f : Cluster → Cluster) : (s.modCluster n f).poisKept = s.poisKept := rfl
@[simp] theorem awayHolds_modCluster (f : Cluster → Cluster) : (s.modCluster n f).awayHolds = s.awayHolds := rfl
@[simp] theorem msix_modCluster (f : Cluster → Cluster) : (s.modCluster n f).msix = s.msix := rfl
@[simp] theorem hostData_modCluster (f : Cluster → Cluster) : (s.modCluster n f).hostData = s.hostData := rfl
@[simp] theorem hostBytes_modCluster (f : Cluster → Cluster) : (s.modCluster n f).hostBytes = s.hostBytes := rfl
@[simp] theorem hostPois_modCluster (f : Cluster → Cluster) : (s.modCluster n f).hostPois = s.hostPois := rfl
@[simp] theorem hostLines_modCluster (f : Cluster → Cluster) : (s.modCluster n f).hostLines = s.hostLines := rfl
@[simp] theorem snoops_modCluster (f : Cluster → Cluster) : (s.modCluster n f).snoops = s.snoops := rfl
@[simp] theorem nextId_modCluster (f : Cluster → Cluster) : (s.modCluster n f).nextId = s.nextId := rfl
@[simp] theorem free_modCluster (f : Cluster → Cluster) : (s.modCluster n f).free = s.free := rfl
@[simp] theorem agenda_modCluster (f : Cluster → Cluster) : (s.modCluster n f).agenda = s.agenda := rfl
@[simp] theorem ev_modCluster (f : Cluster → Cluster) : (s.modCluster n f).ev = s.ev := rfl
@[simp] theorem focus_modCluster (f : Cluster → Cluster) : (s.modCluster n f).focus = s.focus := rfl
@[simp] theorem cur_modCluster (f : Cluster → Cluster) : (s.modCluster n f).cur = s.cur := rfl
@[simp] theorem mem_setPort (x : Port) : (s.setPort n x).mem = s.mem := rfl
@[simp] theorem poison_setPort (x : Port) : (s.setPort n x).poison = s.poison := rfl
@[simp] theorem cores_setPort (x : Port) : (s.setPort n x).cores = s.cores := rfl
@[simp] theorem clusters_setPort (x : Port) : (s.setPort n x).clusters = s.clusters := rfl
@[simp] theorem dies_setPort (x : Port) : (s.setPort n x).dies = s.dies := rfl
@[simp] theorem ctxs_setPort (x : Port) : (s.setPort n x).ctxs = s.ctxs := rfl
@[simp] theorem modNum_setPort (x : Port) : (s.setPort n x).modNum = s.modNum := rfl
@[simp] theorem part_setPort (x : Port) : (s.setPort n x).part = s.part := rfl
@[simp] theorem lmthr_setPort (x : Port) : (s.setPort n x).lmthr = s.lmthr := rfl
@[simp] theorem budget_setPort (x : Port) : (s.setPort n x).budget = s.budget := rfl
@[simp] theorem budgetNext_setPort (x : Port) : (s.setPort n x).budgetNext = s.budgetNext := rfl
@[simp] theorem used_setPort (x : Port) : (s.setPort n x).used = s.used := rfl
@[simp] theorem bErr_setPort (x : Port) : (s.setPort n x).bErr = s.bErr := rfl
@[simp] theorem reset_setPort (x : Port) : (s.setPort n x).reset? = s.reset? := rfl
@[simp] theorem pwrDie_setPort (x : Port) : (s.setPort n x).pwrDie = s.pwrDie := rfl
@[simp] theorem nfCfg_setPort (x : Port) : (s.setPort n x).nfCfg = s.nfCfg := rfl
@[simp] theorem nfCnt_setPort (x : Port) : (s.setPort n x).nfCnt = s.nfCnt := rfl
@[simp] theorem collSteps_setPort (x : Port) : (s.setPort n x).collSteps = s.collSteps := rfl
@[simp] theorem collPois_setPort (x : Port) : (s.setPort n x).collPois = s.collPois := rfl
@[simp] theorem collAbort_setPort (x : Port) : (s.setPort n x).collAbort = s.collAbort := rfl
@[simp] theorem dump_setPort (x : Port) : (s.setPort n x).dump = s.dump := rfl
@[simp] theorem cxlWin_setPort (x : Port) : (s.setPort n x).cxlWin = s.cxlWin := rfl
@[simp] theorem pwWins_setPort (x : Port) : (s.setPort n x).pwWins = s.pwWins := rfl
@[simp] theorem pwDrop_setPort (x : Port) : (s.setPort n x).pwDrop = s.pwDrop := rfl
@[simp] theorem mgmt_setPort (x : Port) : (s.setPort n x).mgmt = s.mgmt := rfl
@[simp] theorem msgs_setPort (x : Port) : (s.setPort n x).msgs = s.msgs := rfl
@[simp] theorem outMsgs_setPort (x : Port) : (s.setPort n x).outMsgs = s.outMsgs := rfl
@[simp] theorem linked_setPort (x : Port) : (s.setPort n x).linked = s.linked := rfl
@[simp] theorem grants_setPort (x : Port) : (s.setPort n x).grants = s.grants := rfl
@[simp] theorem heldWrites_setPort (x : Port) : (s.setPort n x).heldWrites = s.heldWrites := rfl
@[simp] theorem watches_setPort (x : Port) : (s.setPort n x).watches = s.watches := rfl
@[simp] theorem launches_setPort (x : Port) : (s.setPort n x).launches = s.launches := rfl
@[simp] theorem todos_setPort (x : Port) : (s.setPort n x).todos = s.todos := rfl
@[simp] theorem poisKept_setPort (x : Port) : (s.setPort n x).poisKept = s.poisKept := rfl
@[simp] theorem awayHolds_setPort (x : Port) : (s.setPort n x).awayHolds = s.awayHolds := rfl
@[simp] theorem msix_setPort (x : Port) : (s.setPort n x).msix = s.msix := rfl
@[simp] theorem hostData_setPort (x : Port) : (s.setPort n x).hostData = s.hostData := rfl
@[simp] theorem hostBytes_setPort (x : Port) : (s.setPort n x).hostBytes = s.hostBytes := rfl
@[simp] theorem hostPois_setPort (x : Port) : (s.setPort n x).hostPois = s.hostPois := rfl
@[simp] theorem hostLines_setPort (x : Port) : (s.setPort n x).hostLines = s.hostLines := rfl
@[simp] theorem snoops_setPort (x : Port) : (s.setPort n x).snoops = s.snoops := rfl
@[simp] theorem nextId_setPort (x : Port) : (s.setPort n x).nextId = s.nextId := rfl
@[simp] theorem free_setPort (x : Port) : (s.setPort n x).free = s.free := rfl
@[simp] theorem agenda_setPort (x : Port) : (s.setPort n x).agenda = s.agenda := rfl
@[simp] theorem ev_setPort (x : Port) : (s.setPort n x).ev = s.ev := rfl
@[simp] theorem focus_setPort (x : Port) : (s.setPort n x).focus = s.focus := rfl
@[simp] theorem cur_setPort (x : Port) : (s.setPort n x).cur = s.cur := rfl
@[simp] theorem cores_wr (bs : List Byte) : (s.wr n bs).cores = s.cores := rfl
@[simp] theorem clusters_wr (bs : List Byte) : (s.wr n bs).clusters = s.clusters := rfl
@[simp] theorem dies_wr (bs : List Byte) : (s.wr n bs).dies = s.dies := rfl
@[simp] theorem ctxs_wr (bs : List Byte) : (s.wr n bs).ctxs = s.ctxs := rfl
@[simp] theorem ports_wr (bs : List Byte) : (s.wr n bs).ports = s.ports := rfl
@[simp] theorem modNum_wr (bs : List Byte) : (s.wr n bs).modNum = s.modNum := rfl
@[simp] theorem part_wr (bs : List Byte) : (s.wr n bs).part = s.part := rfl
@[simp] theorem lmthr_wr (bs : List Byte) : (s.wr n bs).lmthr = s.lmthr := rfl
@[simp] theorem budget_wr (bs : List Byte) : (s.wr n bs).budget = s.budget := rfl
@[simp] theorem budgetNext_wr (bs : List Byte) : (s.wr n bs).budgetNext = s.budgetNext := rfl
@[simp] theorem used_wr (bs : List Byte) : (s.wr n bs).used = s.used := rfl
@[simp] theorem bErr_wr (bs : List Byte) : (s.wr n bs).bErr = s.bErr := rfl
@[simp] theorem reset_wr (bs : List Byte) : (s.wr n bs).reset? = s.reset? := rfl
@[simp] theorem pwrDie_wr (bs : List Byte) : (s.wr n bs).pwrDie = s.pwrDie := rfl
@[simp] theorem nfCfg_wr (bs : List Byte) : (s.wr n bs).nfCfg = s.nfCfg := rfl
@[simp] theorem nfCnt_wr (bs : List Byte) : (s.wr n bs).nfCnt = s.nfCnt := rfl
@[simp] theorem collSteps_wr (bs : List Byte) : (s.wr n bs).collSteps = s.collSteps := rfl
@[simp] theorem collPois_wr (bs : List Byte) : (s.wr n bs).collPois = s.collPois := rfl
@[simp] theorem collAbort_wr (bs : List Byte) : (s.wr n bs).collAbort = s.collAbort := rfl
@[simp] theorem dump_wr (bs : List Byte) : (s.wr n bs).dump = s.dump := rfl
@[simp] theorem cxlWin_wr (bs : List Byte) : (s.wr n bs).cxlWin = s.cxlWin := rfl
@[simp] theorem pwWins_wr (bs : List Byte) : (s.wr n bs).pwWins = s.pwWins := rfl
@[simp] theorem pwDrop_wr (bs : List Byte) : (s.wr n bs).pwDrop = s.pwDrop := rfl
@[simp] theorem mgmt_wr (bs : List Byte) : (s.wr n bs).mgmt = s.mgmt := rfl
@[simp] theorem msgs_wr (bs : List Byte) : (s.wr n bs).msgs = s.msgs := rfl
@[simp] theorem outMsgs_wr (bs : List Byte) : (s.wr n bs).outMsgs = s.outMsgs := rfl
@[simp] theorem linked_wr (bs : List Byte) : (s.wr n bs).linked = s.linked := rfl
@[simp] theorem grants_wr (bs : List Byte) : (s.wr n bs).grants = s.grants := rfl
@[simp] theorem heldWrites_wr (bs : List Byte) : (s.wr n bs).heldWrites = s.heldWrites := rfl
@[simp] theorem launches_wr (bs : List Byte) : (s.wr n bs).launches = s.launches := rfl
@[simp] theorem todos_wr (bs : List Byte) : (s.wr n bs).todos = s.todos := rfl
@[simp] theorem poisKept_wr (bs : List Byte) : (s.wr n bs).poisKept = s.poisKept := rfl
@[simp] theorem awayHolds_wr (bs : List Byte) : (s.wr n bs).awayHolds = s.awayHolds := rfl
@[simp] theorem msix_wr (bs : List Byte) : (s.wr n bs).msix = s.msix := rfl
@[simp] theorem hostData_wr (bs : List Byte) : (s.wr n bs).hostData = s.hostData := rfl
@[simp] theorem hostBytes_wr (bs : List Byte) : (s.wr n bs).hostBytes = s.hostBytes := rfl
@[simp] theorem hostPois_wr (bs : List Byte) : (s.wr n bs).hostPois = s.hostPois := rfl
@[simp] theorem hostLines_wr (bs : List Byte) : (s.wr n bs).hostLines = s.hostLines := rfl
@[simp] theorem snoops_wr (bs : List Byte) : (s.wr n bs).snoops = s.snoops := rfl
@[simp] theorem nextId_wr (bs : List Byte) : (s.wr n bs).nextId = s.nextId := rfl
@[simp] theorem free_wr (bs : List Byte) : (s.wr n bs).free = s.free := rfl
@[simp] theorem agenda_wr (bs : List Byte) : (s.wr n bs).agenda = s.agenda := rfl
@[simp] theorem ev_wr (bs : List Byte) : (s.wr n bs).ev = s.ev := rfl
@[simp] theorem focus_wr (bs : List Byte) : (s.wr n bs).focus = s.focus := rfl
@[simp] theorem cur_wr (bs : List Byte) : (s.wr n bs).cur = s.cur := rfl
end

section
variable (c : Core) (n : Nat)

@[simp] theorem s_setFib (x : Fibre) : (c.setFib n x).s = c.s := rfl
@[simp] theorem slots_setFib (x : Fibre) : (c.setFib n x).slots = c.slots := rfl
@[simp] theorem lastSlot_setFib (x : Fibre) : (c.setFib n x).lastSlot = c.lastSlot := rfl
@[simp] theorem issued_setFib (x : Fibre) : (c.setFib n x).issued = c.issued := rfl
@[simp] theorem wb_setFib (x : Fibre) : (c.setFib n x).wb = c.wb := rfl
@[simp] theorem idle_setFib (x : Fibre) : (c.setFib n x).idle = c.idle := rfl
@[simp] theorem shadowA_setFib (x : Fibre) : (c.setFib n x).shadowA = c.shadowA := rfl
@[simp] theorem shadowFl_setFib (x : Fibre) : (c.setFib n x).shadowFl = c.shadowFl := rfl
@[simp] theorem shadowPc_setFib (x : Fibre) : (c.setFib n x).shadowPc = c.shadowPc := rfl
@[simp] theorem shadowSt_setFib (x : Fibre) : (c.setFib n x).shadowSt = c.shadowSt := rfl
@[simp] theorem shadowTrap_setFib (x : Fibre) : (c.setFib n x).shadowTrap = c.shadowTrap := rfl
@[simp] theorem shadowPend_setFib (x : Fibre) : (c.setFib n x).shadowPend = c.shadowPend := rfl
@[simp] theorem shadowNoBreak_setFib (x : Fibre) : (c.setFib n x).shadowNoBreak = c.shadowNoBreak := rfl
@[simp] theorem shadowSince_setFib (x : Fibre) : (c.setFib n x).shadowSince = c.shadowSince := rfl
@[simp] theorem shadowWake_setFib (x : Fibre) : (c.setFib n x).shadowWake = c.shadowWake := rfl
@[simp] theorem shadowDue_setFib (x : Fibre) : (c.setFib n x).shadowDue = c.shadowDue := rfl
@[simp] theorem fence_setFib (x : Fibre) : (c.setFib n x).fence = c.fence := rfl
@[simp] theorem handler_setFib (x : Fibre) : (c.setFib n x).handler = c.handler := rfl
@[simp] theorem split_setFib (x : Fibre) : (c.setFib n x).split = c.split := rfl
@[simp] theorem vgrp_setFib (x : Fibre) : (c.setFib n x).vgrp = c.vgrp := rfl
@[simp] theorem bal_setFib (x : Fibre) : (c.setFib n x).bal = c.bal := rfl
@[simp] theorem preempt_setFib (x : Fibre) : (c.setFib n x).preempt = c.preempt := rfl
@[simp] theorem upTimer_setFib (x : Fibre) : (c.setFib n x).upTimer = c.upTimer := rfl
@[simp] theorem upSoft_setFib (x : Fibre) : (c.setFib n x).upSoft = c.upSoft := rfl
@[simp] theorem uctl_setFib (x : Fibre) : (c.setFib n x).uctl = c.uctl := rfl
@[simp] theorem uvec_setFib (x : Fibre) : (c.setFib n x).uvec = c.uvec := rfl
@[simp] theorem uepc_setFib (x : Fibre) : (c.setFib n x).uepc = c.uepc := rfl
@[simp] theorem uefl_setFib (x : Fibre) : (c.setFib n x).uefl = c.uefl := rfl
@[simp] theorem courier_setFib (x : Fibre) : (c.setFib n x).courier = c.courier := rfl
@[simp] theorem courierNext_setFib (x : Fibre) : (c.setFib n x).courierNext = c.courierNext := rfl
@[simp] theorem dtErr_setFib (x : Fibre) : (c.setFib n x).dtErr = c.dtErr := rfl
@[simp] theorem dtEidx_setFib (x : Fibre) : (c.setFib n x).dtEidx = c.dtEidx := rfl
@[simp] theorem dtEtab_setFib (x : Fibre) : (c.setFib n x).dtEtab = c.dtEtab := rfl
@[simp] theorem dtBusy0_setFib (x : Fibre) : (c.setFib n x).dtBusy0 = c.dtBusy0 := rfl
@[simp] theorem dtBusy1_setFib (x : Fibre) : (c.setFib n x).dtBusy1 = c.dtBusy1 := rfl
@[simp] theorem dtab0_setFib (x : Fibre) : (c.setFib n x).dtab0 = c.dtab0 := rfl
@[simp] theorem dtab1_setFib (x : Fibre) : (c.setFib n x).dtab1 = c.dtab1 := rfl
@[simp] theorem dtWait_setFib (x : Fibre) : (c.setFib n x).dtWait = c.dtWait := rfl
@[simp] theorem trapQ_setFib (x : Fibre) : (c.setFib n x).trapQ = c.trapQ := rfl
@[simp] theorem treg_setFib (x : Fibre) : (c.setFib n x).treg = c.treg := rfl
@[simp] theorem msgTx_setFib (x : Fibre) : (c.setFib n x).msgTx = c.msgTx := rfl
@[simp] theorem msgRx_setFib (x : Fibre) : (c.setFib n x).msgRx = c.msgRx := rfl
@[simp] theorem xmTx_setFib (x : Fibre) : (c.setFib n x).xmTx = c.xmTx := rfl
@[simp] theorem xmRx_setFib (x : Fibre) : (c.setFib n x).xmRx = c.xmRx := rfl
@[simp] theorem latched_setFib (x : Fibre) : (c.setFib n x).latched = c.latched := rfl
@[simp] theorem gsCyc_setFib (x : Fibre) : (c.setFib n x).gsCyc = c.gsCyc := rfl
@[simp] theorem stopped_setFib (x : Fibre) : (c.setFib n x).stopped = c.stopped := rfl
@[simp] theorem halted_setFib (x : Fibre) : (c.setFib n x).halted = c.halted := rfl
@[simp] theorem sc_setFib (x : Fibre) : (c.setFib n x).sc = c.sc := rfl
@[simp] theorem rdyh_setFib (x : Fibre) : (c.setFib n x).rdyh = c.rdyh := rfl
@[simp] theorem pfRun_setFib (x : Fibre) : (c.setFib n x).pfRun = c.pfRun := rfl
@[simp] theorem pfClr_setFib (x : Fibre) : (c.setFib n x).pfClr = c.pfClr := rfl
@[simp] theorem lastClass_setFib (x : Fibre) : (c.setFib n x).lastClass = c.lastClass := rfl
@[simp] theorem seen_setFib (x : Fibre) : (c.setFib n x).seen = c.seen := rfl
@[simp] theorem pmpc_setFib (x : Fibre) : (c.setFib n x).pmpc = c.pmpc := rfl
@[simp] theorem pmhnd_setFib (x : Fibre) : (c.setFib n x).pmhnd = c.pmhnd := rfl
@[simp] theorem pmsrc_setFib (x : Fibre) : (c.setFib n x).pmsrc = c.pmsrc := rfl
@[simp] theorem matchQ_setFib (x : Fibre) : (c.setFib n x).matchQ = c.matchQ := rfl
@[simp] theorem inbox_setFib (x : Fibre) : (c.setFib n x).inbox = c.inbox := rfl
@[simp] theorem inHead_setFib (x : Fibre) : (c.setFib n x).inHead = c.inHead := rfl
@[simp] theorem inTail_setFib (x : Fibre) : (c.setFib n x).inTail = c.inTail := rfl
@[simp] theorem tags_setFib (x : Fibre) : (c.setFib n x).tags = c.tags := rfl
@[simp] theorem tagst_setFib (x : Fibre) : (c.setFib n x).tagst = c.tagst := rfl
@[simp] theorem tagAddr_setFib (x : Fibre) : (c.setFib n x).tagAddr = c.tagAddr := rfl
@[simp] theorem bar_setFib (x : Fibre) : (c.setFib n x).bar = c.bar := rfl
@[simp] theorem acc_setFib (x : Fibre) : (c.setFib n x).acc = c.acc := rfl
@[simp] theorem skip_setFib (x : Fibre) : (c.setFib n x).skip = c.skip := rfl
@[simp] theorem mmcap_setFib (x : Fibre) : (c.setFib n x).mmcap = c.mmcap := rfl
@[simp] theorem matQ_setFib (x : Fibre) : (c.setFib n x).matQ = c.matQ := rfl
@[simp] theorem tmIntvl_setFib (x : Fibre) : (c.setFib n x).tmIntvl = c.tmIntvl := rfl
@[simp] theorem tmOvr_setFib (x : Fibre) : (c.setFib n x).tmOvr = c.tmOvr := rfl
@[simp] theorem tmPer_setFib (x : Fibre) : (c.setFib n x).tmPer = c.tmPer := rfl
@[simp] theorem tmDeadline_setFib (x : Fibre) : (c.setFib n x).tmDeadline = c.tmDeadline := rfl
@[simp] theorem treeJoin_setFib (x : Fibre) : (c.setFib n x).treeJoin = c.treeJoin := rfl
@[simp] theorem treeIn_setFib (x : Fibre) : (c.setFib n x).treeIn = c.treeIn := rfl
@[simp] theorem treeOut_setFib (x : Fibre) : (c.setFib n x).treeOut = c.treeOut := rfl
@[simp] theorem treeHeld_setFib (x : Fibre) : (c.setFib n x).treeHeld = c.treeHeld := rfl
@[simp] theorem mb_setFib (x : Fibre) : (c.setFib n x).mb = c.mb := rfl
@[simp] theorem courierCmd_setFib (x : Fibre) : (c.setFib n x).courierCmd = c.courierCmd := rfl
@[simp] theorem mbLast_setFib (x : Fibre) : (c.setFib n x).mbLast = c.mbLast := rfl
@[simp] theorem courierTask_setFib (x : Fibre) : (c.setFib n x).courierTask = c.courierTask := rfl
@[simp] theorem courierDead_setFib (x : Fibre) : (c.setFib n x).courierDead = c.courierDead := rfl
@[simp] theorem deques_setFib (x : Fibre) : (c.setFib n x).deques = c.deques := rfl
@[simp] theorem dqHw_setFib (x : Fibre) : (c.setFib n x).dqHw = c.dqHw := rfl
@[simp] theorem tasks_setFib (x : Fibre) : (c.setFib n x).tasks = c.tasks := rfl
@[simp] theorem announced_setFib (x : Fibre) : (c.setFib n x).announced = c.announced := rfl
@[simp] theorem stealIn_setFib (x : Fibre) : (c.setFib n x).stealIn = c.stealIn := rfl
@[simp] theorem stealTried_setFib (x : Fibre) : (c.setFib n x).stealTried = c.stealTried := rfl
@[simp] theorem balIn_setFib (x : Fibre) : (c.setFib n x).balIn = c.balIn := rfl
@[simp] theorem vec_setFib (x : Fibre) : (c.setFib n x).vec = c.vec := rfl
@[simp] theorem vecPaused_setFib (x : Fibre) : (c.setFib n x).vecPaused = c.vecPaused := rfl
@[simp] theorem mat_setFib (x : Fibre) : (c.setFib n x).mat = c.mat := rfl
@[simp] theorem matPaused_setFib (x : Fibre) : (c.setFib n x).matPaused = c.matPaused := rfl
@[simp] theorem stashes_setFib (x : Fibre) : (c.setFib n x).stashes = c.stashes := rfl
@[simp] theorem locks_setFib (x : Fibre) : (c.setFib n x).locks = c.locks := rfl
@[simp] theorem fenced_setFib (x : Fibre) : (c.setFib n x).fenced = c.fenced := rfl
@[simp] theorem fenceCause_setFib (x : Fibre) : (c.setFib n x).fenceCause = c.fenceCause := rfl
@[simp] theorem portBad_setFib (x : Fibre) : (c.setFib n x).portBad = c.portBad := rfl
@[simp] theorem wdSince_setFib (x : Fibre) : (c.setFib n x).wdSince = c.wdSince := rfl
@[simp] theorem s_modFib (f : Fibre → Fibre) : (c.modFib n f).s = c.s := rfl
@[simp] theorem slots_modFib (f : Fibre → Fibre) : (c.modFib n f).slots = c.slots := rfl
@[simp] theorem lastSlot_modFib (f : Fibre → Fibre) : (c.modFib n f).lastSlot = c.lastSlot := rfl
@[simp] theorem issued_modFib (f : Fibre → Fibre) : (c.modFib n f).issued = c.issued := rfl
@[simp] theorem wb_modFib (f : Fibre → Fibre) : (c.modFib n f).wb = c.wb := rfl
@[simp] theorem idle_modFib (f : Fibre → Fibre) : (c.modFib n f).idle = c.idle := rfl
@[simp] theorem shadowA_modFib (f : Fibre → Fibre) : (c.modFib n f).shadowA = c.shadowA := rfl
@[simp] theorem shadowFl_modFib (f : Fibre → Fibre) : (c.modFib n f).shadowFl = c.shadowFl := rfl
@[simp] theorem shadowPc_modFib (f : Fibre → Fibre) : (c.modFib n f).shadowPc = c.shadowPc := rfl
@[simp] theorem shadowSt_modFib (f : Fibre → Fibre) : (c.modFib n f).shadowSt = c.shadowSt := rfl
@[simp] theorem shadowTrap_modFib (f : Fibre → Fibre) : (c.modFib n f).shadowTrap = c.shadowTrap := rfl
@[simp] theorem shadowPend_modFib (f : Fibre → Fibre) : (c.modFib n f).shadowPend = c.shadowPend := rfl
@[simp] theorem shadowNoBreak_modFib (f : Fibre → Fibre) : (c.modFib n f).shadowNoBreak = c.shadowNoBreak := rfl
@[simp] theorem shadowSince_modFib (f : Fibre → Fibre) : (c.modFib n f).shadowSince = c.shadowSince := rfl
@[simp] theorem shadowWake_modFib (f : Fibre → Fibre) : (c.modFib n f).shadowWake = c.shadowWake := rfl
@[simp] theorem shadowDue_modFib (f : Fibre → Fibre) : (c.modFib n f).shadowDue = c.shadowDue := rfl
@[simp] theorem fence_modFib (f : Fibre → Fibre) : (c.modFib n f).fence = c.fence := rfl
@[simp] theorem handler_modFib (f : Fibre → Fibre) : (c.modFib n f).handler = c.handler := rfl
@[simp] theorem split_modFib (f : Fibre → Fibre) : (c.modFib n f).split = c.split := rfl
@[simp] theorem vgrp_modFib (f : Fibre → Fibre) : (c.modFib n f).vgrp = c.vgrp := rfl
@[simp] theorem bal_modFib (f : Fibre → Fibre) : (c.modFib n f).bal = c.bal := rfl
@[simp] theorem preempt_modFib (f : Fibre → Fibre) : (c.modFib n f).preempt = c.preempt := rfl
@[simp] theorem upTimer_modFib (f : Fibre → Fibre) : (c.modFib n f).upTimer = c.upTimer := rfl
@[simp] theorem upSoft_modFib (f : Fibre → Fibre) : (c.modFib n f).upSoft = c.upSoft := rfl
@[simp] theorem uctl_modFib (f : Fibre → Fibre) : (c.modFib n f).uctl = c.uctl := rfl
@[simp] theorem uvec_modFib (f : Fibre → Fibre) : (c.modFib n f).uvec = c.uvec := rfl
@[simp] theorem uepc_modFib (f : Fibre → Fibre) : (c.modFib n f).uepc = c.uepc := rfl
@[simp] theorem uefl_modFib (f : Fibre → Fibre) : (c.modFib n f).uefl = c.uefl := rfl
@[simp] theorem courier_modFib (f : Fibre → Fibre) : (c.modFib n f).courier = c.courier := rfl
@[simp] theorem courierNext_modFib (f : Fibre → Fibre) : (c.modFib n f).courierNext = c.courierNext := rfl
@[simp] theorem dtErr_modFib (f : Fibre → Fibre) : (c.modFib n f).dtErr = c.dtErr := rfl
@[simp] theorem dtEidx_modFib (f : Fibre → Fibre) : (c.modFib n f).dtEidx = c.dtEidx := rfl
@[simp] theorem dtEtab_modFib (f : Fibre → Fibre) : (c.modFib n f).dtEtab = c.dtEtab := rfl
@[simp] theorem dtBusy0_modFib (f : Fibre → Fibre) : (c.modFib n f).dtBusy0 = c.dtBusy0 := rfl
@[simp] theorem dtBusy1_modFib (f : Fibre → Fibre) : (c.modFib n f).dtBusy1 = c.dtBusy1 := rfl
@[simp] theorem dtab0_modFib (f : Fibre → Fibre) : (c.modFib n f).dtab0 = c.dtab0 := rfl
@[simp] theorem dtab1_modFib (f : Fibre → Fibre) : (c.modFib n f).dtab1 = c.dtab1 := rfl
@[simp] theorem dtWait_modFib (f : Fibre → Fibre) : (c.modFib n f).dtWait = c.dtWait := rfl
@[simp] theorem trapQ_modFib (f : Fibre → Fibre) : (c.modFib n f).trapQ = c.trapQ := rfl
@[simp] theorem treg_modFib (f : Fibre → Fibre) : (c.modFib n f).treg = c.treg := rfl
@[simp] theorem msgTx_modFib (f : Fibre → Fibre) : (c.modFib n f).msgTx = c.msgTx := rfl
@[simp] theorem msgRx_modFib (f : Fibre → Fibre) : (c.modFib n f).msgRx = c.msgRx := rfl
@[simp] theorem xmTx_modFib (f : Fibre → Fibre) : (c.modFib n f).xmTx = c.xmTx := rfl
@[simp] theorem xmRx_modFib (f : Fibre → Fibre) : (c.modFib n f).xmRx = c.xmRx := rfl
@[simp] theorem latched_modFib (f : Fibre → Fibre) : (c.modFib n f).latched = c.latched := rfl
@[simp] theorem gsCyc_modFib (f : Fibre → Fibre) : (c.modFib n f).gsCyc = c.gsCyc := rfl
@[simp] theorem stopped_modFib (f : Fibre → Fibre) : (c.modFib n f).stopped = c.stopped := rfl
@[simp] theorem halted_modFib (f : Fibre → Fibre) : (c.modFib n f).halted = c.halted := rfl
@[simp] theorem sc_modFib (f : Fibre → Fibre) : (c.modFib n f).sc = c.sc := rfl
@[simp] theorem rdyh_modFib (f : Fibre → Fibre) : (c.modFib n f).rdyh = c.rdyh := rfl
@[simp] theorem pfRun_modFib (f : Fibre → Fibre) : (c.modFib n f).pfRun = c.pfRun := rfl
@[simp] theorem pfClr_modFib (f : Fibre → Fibre) : (c.modFib n f).pfClr = c.pfClr := rfl
@[simp] theorem lastClass_modFib (f : Fibre → Fibre) : (c.modFib n f).lastClass = c.lastClass := rfl
@[simp] theorem seen_modFib (f : Fibre → Fibre) : (c.modFib n f).seen = c.seen := rfl
@[simp] theorem pmpc_modFib (f : Fibre → Fibre) : (c.modFib n f).pmpc = c.pmpc := rfl
@[simp] theorem pmhnd_modFib (f : Fibre → Fibre) : (c.modFib n f).pmhnd = c.pmhnd := rfl
@[simp] theorem pmsrc_modFib (f : Fibre → Fibre) : (c.modFib n f).pmsrc = c.pmsrc := rfl
@[simp] theorem matchQ_modFib (f : Fibre → Fibre) : (c.modFib n f).matchQ = c.matchQ := rfl
@[simp] theorem inbox_modFib (f : Fibre → Fibre) : (c.modFib n f).inbox = c.inbox := rfl
@[simp] theorem inHead_modFib (f : Fibre → Fibre) : (c.modFib n f).inHead = c.inHead := rfl
@[simp] theorem inTail_modFib (f : Fibre → Fibre) : (c.modFib n f).inTail = c.inTail := rfl
@[simp] theorem tags_modFib (f : Fibre → Fibre) : (c.modFib n f).tags = c.tags := rfl
@[simp] theorem tagst_modFib (f : Fibre → Fibre) : (c.modFib n f).tagst = c.tagst := rfl
@[simp] theorem tagAddr_modFib (f : Fibre → Fibre) : (c.modFib n f).tagAddr = c.tagAddr := rfl
@[simp] theorem bar_modFib (f : Fibre → Fibre) : (c.modFib n f).bar = c.bar := rfl
@[simp] theorem acc_modFib (f : Fibre → Fibre) : (c.modFib n f).acc = c.acc := rfl
@[simp] theorem skip_modFib (f : Fibre → Fibre) : (c.modFib n f).skip = c.skip := rfl
@[simp] theorem mmcap_modFib (f : Fibre → Fibre) : (c.modFib n f).mmcap = c.mmcap := rfl
@[simp] theorem matQ_modFib (f : Fibre → Fibre) : (c.modFib n f).matQ = c.matQ := rfl
@[simp] theorem tmIntvl_modFib (f : Fibre → Fibre) : (c.modFib n f).tmIntvl = c.tmIntvl := rfl
@[simp] theorem tmOvr_modFib (f : Fibre → Fibre) : (c.modFib n f).tmOvr = c.tmOvr := rfl
@[simp] theorem tmPer_modFib (f : Fibre → Fibre) : (c.modFib n f).tmPer = c.tmPer := rfl
@[simp] theorem tmDeadline_modFib (f : Fibre → Fibre) : (c.modFib n f).tmDeadline = c.tmDeadline := rfl
@[simp] theorem treeJoin_modFib (f : Fibre → Fibre) : (c.modFib n f).treeJoin = c.treeJoin := rfl
@[simp] theorem treeIn_modFib (f : Fibre → Fibre) : (c.modFib n f).treeIn = c.treeIn := rfl
@[simp] theorem treeOut_modFib (f : Fibre → Fibre) : (c.modFib n f).treeOut = c.treeOut := rfl
@[simp] theorem treeHeld_modFib (f : Fibre → Fibre) : (c.modFib n f).treeHeld = c.treeHeld := rfl
@[simp] theorem mb_modFib (f : Fibre → Fibre) : (c.modFib n f).mb = c.mb := rfl
@[simp] theorem courierCmd_modFib (f : Fibre → Fibre) : (c.modFib n f).courierCmd = c.courierCmd := rfl
@[simp] theorem mbLast_modFib (f : Fibre → Fibre) : (c.modFib n f).mbLast = c.mbLast := rfl
@[simp] theorem courierTask_modFib (f : Fibre → Fibre) : (c.modFib n f).courierTask = c.courierTask := rfl
@[simp] theorem courierDead_modFib (f : Fibre → Fibre) : (c.modFib n f).courierDead = c.courierDead := rfl
@[simp] theorem deques_modFib (f : Fibre → Fibre) : (c.modFib n f).deques = c.deques := rfl
@[simp] theorem dqHw_modFib (f : Fibre → Fibre) : (c.modFib n f).dqHw = c.dqHw := rfl
@[simp] theorem tasks_modFib (f : Fibre → Fibre) : (c.modFib n f).tasks = c.tasks := rfl
@[simp] theorem announced_modFib (f : Fibre → Fibre) : (c.modFib n f).announced = c.announced := rfl
@[simp] theorem stealIn_modFib (f : Fibre → Fibre) : (c.modFib n f).stealIn = c.stealIn := rfl
@[simp] theorem stealTried_modFib (f : Fibre → Fibre) : (c.modFib n f).stealTried = c.stealTried := rfl
@[simp] theorem balIn_modFib (f : Fibre → Fibre) : (c.modFib n f).balIn = c.balIn := rfl
@[simp] theorem vec_modFib (f : Fibre → Fibre) : (c.modFib n f).vec = c.vec := rfl
@[simp] theorem vecPaused_modFib (f : Fibre → Fibre) : (c.modFib n f).vecPaused = c.vecPaused := rfl
@[simp] theorem mat_modFib (f : Fibre → Fibre) : (c.modFib n f).mat = c.mat := rfl
@[simp] theorem matPaused_modFib (f : Fibre → Fibre) : (c.modFib n f).matPaused = c.matPaused := rfl
@[simp] theorem stashes_modFib (f : Fibre → Fibre) : (c.modFib n f).stashes = c.stashes := rfl
@[simp] theorem locks_modFib (f : Fibre → Fibre) : (c.modFib n f).locks = c.locks := rfl
@[simp] theorem fenced_modFib (f : Fibre → Fibre) : (c.modFib n f).fenced = c.fenced := rfl
@[simp] theorem fenceCause_modFib (f : Fibre → Fibre) : (c.modFib n f).fenceCause = c.fenceCause := rfl
@[simp] theorem portBad_modFib (f : Fibre → Fibre) : (c.modFib n f).portBad = c.portBad := rfl
@[simp] theorem wdSince_modFib (f : Fibre → Fibre) : (c.modFib n f).wdSince = c.wdSince := rfl
@[simp] theorem s_freeSlot : (c.freeSlot n).s = c.s := rfl
@[simp] theorem fibres_freeSlot : (c.freeSlot n).fibres = c.fibres := rfl
@[simp] theorem lastSlot_freeSlot : (c.freeSlot n).lastSlot = c.lastSlot := rfl
@[simp] theorem issued_freeSlot : (c.freeSlot n).issued = c.issued := rfl
@[simp] theorem wb_freeSlot : (c.freeSlot n).wb = c.wb := rfl
@[simp] theorem idle_freeSlot : (c.freeSlot n).idle = c.idle := rfl
@[simp] theorem shadowA_freeSlot : (c.freeSlot n).shadowA = c.shadowA := rfl
@[simp] theorem shadowFl_freeSlot : (c.freeSlot n).shadowFl = c.shadowFl := rfl
@[simp] theorem shadowPc_freeSlot : (c.freeSlot n).shadowPc = c.shadowPc := rfl
@[simp] theorem shadowSt_freeSlot : (c.freeSlot n).shadowSt = c.shadowSt := rfl
@[simp] theorem shadowTrap_freeSlot : (c.freeSlot n).shadowTrap = c.shadowTrap := rfl
@[simp] theorem shadowPend_freeSlot : (c.freeSlot n).shadowPend = c.shadowPend := rfl
@[simp] theorem shadowNoBreak_freeSlot : (c.freeSlot n).shadowNoBreak = c.shadowNoBreak := rfl
@[simp] theorem shadowSince_freeSlot : (c.freeSlot n).shadowSince = c.shadowSince := rfl
@[simp] theorem shadowWake_freeSlot : (c.freeSlot n).shadowWake = c.shadowWake := rfl
@[simp] theorem shadowDue_freeSlot : (c.freeSlot n).shadowDue = c.shadowDue := rfl
@[simp] theorem fence_freeSlot : (c.freeSlot n).fence = c.fence := rfl
@[simp] theorem handler_freeSlot : (c.freeSlot n).handler = c.handler := rfl
@[simp] theorem split_freeSlot : (c.freeSlot n).split = c.split := rfl
@[simp] theorem vgrp_freeSlot : (c.freeSlot n).vgrp = c.vgrp := rfl
@[simp] theorem bal_freeSlot : (c.freeSlot n).bal = c.bal := rfl
@[simp] theorem preempt_freeSlot : (c.freeSlot n).preempt = c.preempt := rfl
@[simp] theorem upTimer_freeSlot : (c.freeSlot n).upTimer = c.upTimer := rfl
@[simp] theorem upSoft_freeSlot : (c.freeSlot n).upSoft = c.upSoft := rfl
@[simp] theorem uctl_freeSlot : (c.freeSlot n).uctl = c.uctl := rfl
@[simp] theorem uvec_freeSlot : (c.freeSlot n).uvec = c.uvec := rfl
@[simp] theorem uepc_freeSlot : (c.freeSlot n).uepc = c.uepc := rfl
@[simp] theorem uefl_freeSlot : (c.freeSlot n).uefl = c.uefl := rfl
@[simp] theorem courier_freeSlot : (c.freeSlot n).courier = c.courier := rfl
@[simp] theorem courierNext_freeSlot : (c.freeSlot n).courierNext = c.courierNext := rfl
@[simp] theorem dtErr_freeSlot : (c.freeSlot n).dtErr = c.dtErr := rfl
@[simp] theorem dtEidx_freeSlot : (c.freeSlot n).dtEidx = c.dtEidx := rfl
@[simp] theorem dtEtab_freeSlot : (c.freeSlot n).dtEtab = c.dtEtab := rfl
@[simp] theorem dtBusy0_freeSlot : (c.freeSlot n).dtBusy0 = c.dtBusy0 := rfl
@[simp] theorem dtBusy1_freeSlot : (c.freeSlot n).dtBusy1 = c.dtBusy1 := rfl
@[simp] theorem dtab0_freeSlot : (c.freeSlot n).dtab0 = c.dtab0 := rfl
@[simp] theorem dtab1_freeSlot : (c.freeSlot n).dtab1 = c.dtab1 := rfl
@[simp] theorem dtWait_freeSlot : (c.freeSlot n).dtWait = c.dtWait := rfl
@[simp] theorem trapQ_freeSlot : (c.freeSlot n).trapQ = c.trapQ := rfl
@[simp] theorem treg_freeSlot : (c.freeSlot n).treg = c.treg := rfl
@[simp] theorem msgTx_freeSlot : (c.freeSlot n).msgTx = c.msgTx := rfl
@[simp] theorem msgRx_freeSlot : (c.freeSlot n).msgRx = c.msgRx := rfl
@[simp] theorem xmTx_freeSlot : (c.freeSlot n).xmTx = c.xmTx := rfl
@[simp] theorem xmRx_freeSlot : (c.freeSlot n).xmRx = c.xmRx := rfl
@[simp] theorem latched_freeSlot : (c.freeSlot n).latched = c.latched := rfl
@[simp] theorem gsCyc_freeSlot : (c.freeSlot n).gsCyc = c.gsCyc := rfl
@[simp] theorem stopped_freeSlot : (c.freeSlot n).stopped = c.stopped := rfl
@[simp] theorem halted_freeSlot : (c.freeSlot n).halted = c.halted := rfl
@[simp] theorem sc_freeSlot : (c.freeSlot n).sc = c.sc := rfl
@[simp] theorem rdyh_freeSlot : (c.freeSlot n).rdyh = c.rdyh := rfl
@[simp] theorem pfRun_freeSlot : (c.freeSlot n).pfRun = c.pfRun := rfl
@[simp] theorem pfClr_freeSlot : (c.freeSlot n).pfClr = c.pfClr := rfl
@[simp] theorem lastClass_freeSlot : (c.freeSlot n).lastClass = c.lastClass := rfl
@[simp] theorem seen_freeSlot : (c.freeSlot n).seen = c.seen := rfl
@[simp] theorem pmpc_freeSlot : (c.freeSlot n).pmpc = c.pmpc := rfl
@[simp] theorem pmhnd_freeSlot : (c.freeSlot n).pmhnd = c.pmhnd := rfl
@[simp] theorem pmsrc_freeSlot : (c.freeSlot n).pmsrc = c.pmsrc := rfl
@[simp] theorem matchQ_freeSlot : (c.freeSlot n).matchQ = c.matchQ := rfl
@[simp] theorem inbox_freeSlot : (c.freeSlot n).inbox = c.inbox := rfl
@[simp] theorem inHead_freeSlot : (c.freeSlot n).inHead = c.inHead := rfl
@[simp] theorem inTail_freeSlot : (c.freeSlot n).inTail = c.inTail := rfl
@[simp] theorem tags_freeSlot : (c.freeSlot n).tags = c.tags := rfl
@[simp] theorem tagst_freeSlot : (c.freeSlot n).tagst = c.tagst := rfl
@[simp] theorem tagAddr_freeSlot : (c.freeSlot n).tagAddr = c.tagAddr := rfl
@[simp] theorem bar_freeSlot : (c.freeSlot n).bar = c.bar := rfl
@[simp] theorem acc_freeSlot : (c.freeSlot n).acc = c.acc := rfl
@[simp] theorem skip_freeSlot : (c.freeSlot n).skip = c.skip := rfl
@[simp] theorem mmcap_freeSlot : (c.freeSlot n).mmcap = c.mmcap := rfl
@[simp] theorem matQ_freeSlot : (c.freeSlot n).matQ = c.matQ := rfl
@[simp] theorem tmIntvl_freeSlot : (c.freeSlot n).tmIntvl = c.tmIntvl := rfl
@[simp] theorem tmOvr_freeSlot : (c.freeSlot n).tmOvr = c.tmOvr := rfl
@[simp] theorem tmPer_freeSlot : (c.freeSlot n).tmPer = c.tmPer := rfl
@[simp] theorem tmDeadline_freeSlot : (c.freeSlot n).tmDeadline = c.tmDeadline := rfl
@[simp] theorem treeJoin_freeSlot : (c.freeSlot n).treeJoin = c.treeJoin := rfl
@[simp] theorem treeIn_freeSlot : (c.freeSlot n).treeIn = c.treeIn := rfl
@[simp] theorem treeOut_freeSlot : (c.freeSlot n).treeOut = c.treeOut := rfl
@[simp] theorem treeHeld_freeSlot : (c.freeSlot n).treeHeld = c.treeHeld := rfl
@[simp] theorem mb_freeSlot : (c.freeSlot n).mb = c.mb := rfl
@[simp] theorem courierCmd_freeSlot : (c.freeSlot n).courierCmd = c.courierCmd := rfl
@[simp] theorem mbLast_freeSlot : (c.freeSlot n).mbLast = c.mbLast := rfl
@[simp] theorem courierTask_freeSlot : (c.freeSlot n).courierTask = c.courierTask := rfl
@[simp] theorem courierDead_freeSlot : (c.freeSlot n).courierDead = c.courierDead := rfl
@[simp] theorem deques_freeSlot : (c.freeSlot n).deques = c.deques := rfl
@[simp] theorem dqHw_freeSlot : (c.freeSlot n).dqHw = c.dqHw := rfl
@[simp] theorem tasks_freeSlot : (c.freeSlot n).tasks = c.tasks := rfl
@[simp] theorem announced_freeSlot : (c.freeSlot n).announced = c.announced := rfl
@[simp] theorem stealIn_freeSlot : (c.freeSlot n).stealIn = c.stealIn := rfl
@[simp] theorem stealTried_freeSlot : (c.freeSlot n).stealTried = c.stealTried := rfl
@[simp] theorem balIn_freeSlot : (c.freeSlot n).balIn = c.balIn := rfl
@[simp] theorem vec_freeSlot : (c.freeSlot n).vec = c.vec := rfl
@[simp] theorem vecPaused_freeSlot : (c.freeSlot n).vecPaused = c.vecPaused := rfl
@[simp] theorem mat_freeSlot : (c.freeSlot n).mat = c.mat := rfl
@[simp] theorem matPaused_freeSlot : (c.freeSlot n).matPaused = c.matPaused := rfl
@[simp] theorem stashes_freeSlot : (c.freeSlot n).stashes = c.stashes := rfl
@[simp] theorem locks_freeSlot : (c.freeSlot n).locks = c.locks := rfl
@[simp] theorem fenced_freeSlot : (c.freeSlot n).fenced = c.fenced := rfl
@[simp] theorem fenceCause_freeSlot : (c.freeSlot n).fenceCause = c.fenceCause := rfl
@[simp] theorem portBad_freeSlot : (c.freeSlot n).portBad = c.portBad := rfl
@[simp] theorem wdSince_freeSlot : (c.freeSlot n).wdSince = c.wdSince := rfl
end

end Sys2Proof.Machine
end

