-- ==== Sys2Proof/Laws/Planes.lean ====
section
/-! SUPPORT. What the operations on the issuing plane do: writing a register, the flags and the PC, completing, and
waiting. -/

namespace Sys2Proof.Machine

/-! ## Both planes as one update

Every operation below changes the issuing core by a function of that core, so it is stated once as such a change. -/

/-- The core after a change of a fibre by `g`, or of the shadow plane by `h`. -/
def Plane.change (p : Plane) (g : Fibre → Fibre) (h : Core → Core) (c : Core) : Core :=
  if p.sh then h c else c.modFib p.f g

theorem setA_eq (s : State) (i : Nat) (v : Word) :
    s.setA i v = s.modCore s.L (s.plane.change (fun f => { f with a := f.a.setIfInBounds i v })
      fun c => { c with shadowA := c.shadowA.setIfInBounds i v }) := by
  unfold State.setA Plane.change State.plane State.modHere State.modMe
  split <;> simp_all

theorem setFlags_eq (s : State) (v : Word) :
    s.setFlags v = s.modCore s.L (s.plane.change (fun f => { f with flags := v &&& flagsMask })
      fun c => { c with shadowFl := v &&& flagsMask }) := by
  unfold State.setFlags Plane.change State.plane State.modHere State.modMe
  split <;> simp_all

theorem goto_eq (s : State) (pc : VAddr) :
    s.goto pc = s.modCore s.L (s.plane.change
      (fun f => { f with pc := pc, icount := f.icount + 1, counted := false, noMatch := false, noBreak := false, wake := none })
      fun c => { c with shadowPc := pc, shadowNoBreak := false, shadowWake := none }) := by
  unfold State.goto Plane.change State.plane State.modHere State.modMe
  split <;> simp_all

theorem setStatus_eq (s : State) (st : Status) :
    s.setStatus st = s.modCore s.L (s.plane.change
      (fun f => { f with status := st, since := s.now, wake := if st.keepsWake then f.wake else none })
      fun c => { c with shadowSt := st, shadowSince := s.now, shadowWake := if st.keepsWake then c.shadowWake else none }) := by
  unfold State.setStatus Plane.change State.plane State.modHere State.modMe
  split <;> simp_all

theorem settle_eq (s : State) (lat : Nat) :
    s.settle lat = s.modCore s.L (s.plane.change (fun f => { f with due := s.now + lat + 1 })
      fun c => { c with shadowDue := s.now + lat + 1 }) := by
  unfold State.settle Plane.change State.plane State.modHere State.modMe
  split <;> simp_all

theorem inSlot_congr {c d : Core} (h : d.slots = c.slots) (i : Nat) : d.inSlot i = c.inSlot i := by
  simp [Core.inSlot, h]

theorem shadow_congr {c d : Core} (h : d.handler = c.handler) (i : Nat) : d.shadow i = c.shadow i := by
  simp [Core.shadow, h]

@[simp] theorem L_modCore (s : State) (n : Nat) (f : Core → Core) : (s.modCore n f).L = s.L := rfl
@[simp] theorem slot_modCore (s : State) (n : Nat) (f : Core → Core) : (s.modCore n f).slot = s.slot := rfl
@[simp] theorem now_modCore (s : State) (n : Nat) (f : Core → Core) : (s.modCore n f).now = s.now := rfl
@[simp] theorem nextPc_modCore (s : State) (n : Nat) (f : Core → Core) : (s.modCore n f).nextPc = s.nextPc := rfl
@[simp] theorem here_modCore (s : State) (f : Core → Core) : (s.modCore s.L f).here = f s.here := by
  simp [State.here]

/-- A change of the issuing core that keeps its slots and handler keeps the plane. -/
theorem plane_modCore (s : State) (f : Core → Core) (hs : (f s.here).slots = s.here.slots)
    (hh : (f s.here).handler = s.here.handler) : (s.modCore s.L f).plane = s.plane := by
  simp only [State.plane, State.fibre, State.onShadow, L_modCore, slot_modCore, here_modCore,
    inSlot_congr hs, shadow_congr hh]

@[simp] theorem slots_change (p : Plane) (g : Fibre → Fibre) (h : Core → Core) (c : Core)
    (hc : (h c).slots = c.slots) : (p.change g h c).slots = c.slots := by
  unfold Plane.change; split
  · exact hc
  · rfl

@[simp] theorem handler_change (p : Plane) (g : Fibre → Fibre) (h : Core → Core) (c : Core)
    (hc : (h c).handler = c.handler) : (p.change g h c).handler = c.handler := by
  unfold Plane.change; split
  · exact hc
  · rfl

@[simp] theorem plane_setA (s : State) (i : Nat) (v : Word) : (s.setA i v).plane = s.plane := by
  rw [setA_eq]; exact plane_modCore s _ (by simp) (by simp)

@[simp] theorem plane_setFlags (s : State) (v : Word) : (s.setFlags v).plane = s.plane := by
  rw [setFlags_eq]; exact plane_modCore s _ (by simp) (by simp)

@[simp] theorem plane_goto (s : State) (pc : VAddr) : (s.goto pc).plane = s.plane := by
  rw [goto_eq]; exact plane_modCore s _ (by simp) (by simp)

@[simp] theorem plane_setStatus (s : State) (st : Status) : (s.setStatus st).plane = s.plane := by
  rw [setStatus_eq]; exact plane_modCore s _ (by simp) (by simp)

/-! ## Results (R346, R348) -/

/-- The writebacks that a destination adds, and what it does to the plane's fibre and to the shadow plane. -/
def destWb (s : State) (lat : Nat) (d : GReg) (v : Word) : List Writeback :=
  if h : d.val < 8 then []
  else [{ due := s.now + lat, slot := s.slot, fibre := s.plane.f, shadow := s.plane.sh, reg := ⟨d.val - 8, by omega⟩, value := v }]

def destFib (s : State) (lat : Nat) (d : GReg) (v : Word) (f : Fibre) : Fibre :=
  if d.val < 8 then { f with a := f.a.setIfInBounds d.val v, due := s.now + lat + 1 }
  else { f with status := .writeback, since := s.now, wake := none, due := s.now + lat + 1 }

def destShadow (s : State) (lat : Nat) (d : GReg) (v : Word) (c : Core) : Core :=
  if d.val < 8 then { c with shadowA := c.shadowA.setIfInBounds d.val v, shadowDue := s.now + lat + 1 }
  else { c with shadowSt := .writeback, shadowSince := s.now, shadowWake := none, shadowDue := s.now + lat + 1 }

theorem change_id_wb (p : Plane) (g : Fibre → Fibre) (h : Core → Core) (c : Core) :
    p.change g h { c with wb := c.wb ++ [] } = p.change g h c := by simp

/-- Two changes of a plane are one. -/
theorem change_change (p : Plane) (g g' : Fibre → Fibre) (h h' : Core → Core) (c : Core) :
    p.change g' h' (p.change g h c) = p.change (fun x => g' (g x)) (fun x => h' (h x)) c := by
  unfold Plane.change; split <;> simp

/-- The end of a plane's readiness after a change of its core that keeps its slots and handler. -/
theorem settle_modCore (s : State) (F : Core → Core) (lat : Nat) (hs : (F s.here).slots = s.here.slots)
    (hh : (F s.here).handler = s.here.handler) :
    (s.modCore s.L F).settle lat = s.modCore s.L fun c =>
      s.plane.change (fun f => { f with due := s.now + lat + 1 }) (fun c => { c with shadowDue := s.now + lat + 1 }) (F c) := by
  rw [settle_eq, plane_modCore s F hs hh, now_modCore, L_modCore, modCore_modCore]

theorem setG_eq (s : State) (lat : Nat) (d : GReg) (v : Word) :
    s.setG lat d v = s.modCore s.L fun c =>
      s.plane.change (destFib s lat d v) (destShadow s lat d v) { c with wb := c.wb ++ destWb s lat d v } := by
  unfold State.setG
  by_cases hd : d.val < 8
  · simp only [hd, if_true]
    rw [setA_eq, settle_modCore s _ lat (slots_change _ _ _ _ rfl) (handler_change _ _ _ _ rfl)]
    congr 1; funext c
    rw [change_change]
    simp only [destWb, hd, dif_pos, List.append_nil]
    unfold Plane.change destFib destShadow
    simp only [hd, if_true]
  · have h2 : d.val - 8 < 32 := by omega
    simp only [hd, if_false, dif_pos h2, State.setS, State.modHere]
    rw [setStatus_eq, plane_modCore s _ rfl rfl, L_modCore, now_modCore, modCore_modCore]
    refine (settle_modCore s _ lat ?_ ?_).trans ?_
    · exact slots_change _ _ _ { s.here with wb := _ } rfl
    · exact handler_change _ _ _ { s.here with wb := _ } rfl
    congr 1; funext c
    rw [change_change]
    unfold Plane.change destFib destShadow destWb
    simp only [hd, if_false]
    rfl

/-- What the end of an instruction does to the plane. -/
def endFibAt (pc : VAddr) (f : Fibre) : Fibre :=
  { f with pc := pc, icount := f.icount + 1, counted := false, noMatch := false, noBreak := false, wake := none }
def endShadowAt (pc : VAddr) (c : Core) : Core := { c with shadowPc := pc, shadowNoBreak := false, shadowWake := none }

theorem plane_setG (s : State) (lat : Nat) (d : GReg) (v : Word) : (s.setG lat d v).plane = s.plane := by
  rw [setG_eq]
  refine plane_modCore s _ (slots_change _ _ _ _ ?_) (handler_change _ _ _ _ ?_) <;>
    (unfold destShadow; split <;> rfl)

theorem setG_goto_eq (s : State) (lat : Nat) (d : GReg) (v : Word) (pc : VAddr) :
    (s.setG lat d v).goto pc = s.modCore s.L fun c =>
      s.plane.change (fun x => endFibAt pc (destFib s lat d v x)) (fun x => endShadowAt pc (destShadow s lat d v x))
        { c with wb := c.wb ++ destWb s lat d v } := by
  rw [goto_eq, plane_setG, setG_eq, L_modCore, modCore_modCore]
  congr 1; funext c
  rw [change_change]; rfl

/-- A change of the issuing core's own plane, with writebacks added. -/
def Plane.update (s : State) (ws : List Writeback) (g : Fibre → Fibre) (h : Core → Core) : State :=
  s.modCore s.L fun c => s.plane.change g h { c with wb := c.wb ++ ws }

theorem onlyPlane_update (s : State) (ws : List Writeback) (g : Fibre → Fibre) (h : Core → Core)
    (hg : ∀ x, FibFrame x (g x))
    (hh : ∀ c, h c = { c with
      wb := (h c).wb, shadowA := (h c).shadowA, shadowFl := (h c).shadowFl, shadowPc := (h c).shadowPc
      shadowSt := (h c).shadowSt, shadowPend := (h c).shadowPend, shadowNoBreak := (h c).shadowNoBreak
      shadowSince := (h c).shadowSince, shadowWake := (h c).shadowWake, shadowDue := (h c).shadowDue }) :
    OnlyPlane s (Plane.update s ws g h) := by
  refine ⟨by simp [OnlyCore, Plane.update, State.modCore], ?_⟩
  unfold CoreFrame Plane.update Plane.change
  rw [core_modCore_same]
  split
  · next hs => simpa using hh _
  · refine ⟨?_, ?_, .inl rfl⟩
    · simp only [Core.modFib, Core.setFib, Core.fib, spGet_spPut_same]
    · simp only [fib_modFib_same]; exact hg _

section
variable {s : State} (ws : List Writeback) (g : Fibre → Fibre) (h : Core → Core)

theorem core_update_shadow (hs : s.plane.sh = true) :
    s.plane.core (Plane.update s ws g h) = h { s.core s.L with wb := (s.core s.L).wb ++ ws } := by
  simp only [Plane.core, Plane.update, show s.plane.L = s.L from rfl, core_modCore_same, Plane.change, hs, if_true]

theorem core_update_main (hs : s.plane.sh = false) :
    s.plane.core (Plane.update s ws g h) = ({ s.core s.L with wb := (s.core s.L).wb ++ ws } : Core).modFib s.plane.f g := by
  simp only [Plane.core, Plane.update, show s.plane.L = s.L from rfl, core_modCore_same, Plane.change, hs]
  rfl

theorem fib_update_main (hs : s.plane.sh = false) :
    s.plane.fib (Plane.update s ws g h) = g (s.plane.fib s) := by
  rw [Plane.fib, core_update_main ws g h hs, fib_modFib_same]; rfl

end

/-- A destination written at the end of an instruction, after a change of the flags word (`g`, or `h` on the shadow plane). -/
theorem update_end_spec (s : State) (lat : Nat) (d : GReg) (v : Word) (pc : VAddr) (g : Fibre → Fibre) (h : Core → Core)
    (hg : ∀ x, g x = { x with flags := (g x).flags }) (hh : ∀ c, h c = { c with shadowFl := (h c).shadowFl }) :
    let t := Plane.update s (destWb s lat d v) (fun x => endFibAt pc (destFib s lat d v (g x)))
      (fun x => endShadowAt pc (destShadow s lat d v (h x)))
    OnlyPlane s t ∧ s.plane.Writes s t lat d v ∧ s.plane.pc t = pc
      ∧ s.plane.flags t = if s.plane.sh then (h { s.core s.L with wb := (s.core s.L).wb ++ destWb s lat d v }).shadowFl
          else (g (s.plane.fib s)).flags := by
  intro t
  refine ⟨?_, ?_, ?_, ?_⟩
  · refine onlyPlane_update s _ _ _ (fun x => ?_) fun c => ?_
    · rw [hg]; unfold endFibAt destFib FibFrame; split <;> rfl
    · rw [hh]; unfold endShadowAt destShadow; split <;> rfl
  all_goals
    cases hs : s.plane.sh with
    | true =>
      have hc : s.plane.core t
          = endShadowAt pc (destShadow s lat d v (h { s.core s.L with wb := (s.core s.L).wb ++ destWb s lat d v })) :=
        core_update_shadow _ _ _ hs
      first
      | simp only [Plane.flags, hs, if_true, hc]; unfold endShadowAt destShadow; split <;> rfl
      | simp only [Plane.pc, hs, if_true, hc]; rfl
      | rw [hh] at hc
        unfold Plane.Writes
        simp only [Plane.a, Plane.status, Plane.due, hs, if_true, hc]
        by_cases hd : d.val < 8
        · simp only [hd, dif_pos, destShadow, if_true, destWb, endShadowAt, List.append_nil]
          refine ⟨trivial, fun i hi => ?_, rfl⟩
          by_cases he : i = d.val
          · subst he; simp [Vector.getD, hd]
          · rw [if_neg he]; simp [Vector.getD, hi, Ne.symm he]; rfl
        · simp only [hd, hs, dif_neg, destShadow, destWb, endShadowAt, if_false, not_false_eq_true]
          exact ⟨trivial, fun _ _ => rfl, rfl, trivial⟩
    | false =>
      have hc : s.plane.core t = ({ s.core s.L with wb := (s.core s.L).wb ++ destWb s lat d v } : Core).modFib s.plane.f
          (fun x => endFibAt pc (destFib s lat d v (g x))) := core_update_main _ _ _ hs
      have hf : s.plane.fib t = endFibAt pc (destFib s lat d v (g (s.plane.fib s))) := fib_update_main _ _ _ hs
      first
      | simp only [Plane.flags, hs, hf, Bool.false_eq_true, if_false]; unfold endFibAt destFib; split <;> rfl
      | simp only [Plane.pc, hs, hf, Bool.false_eq_true, if_false]; rfl
      | rw [hg] at hf
        unfold Plane.Writes
        simp only [Plane.a, Plane.status, Plane.due, hs, hf, hc, Bool.false_eq_true, if_false]
        by_cases hd : d.val < 8
        · simp only [hd, dif_pos, destFib, if_true, destWb, endFibAt, List.append_nil]
          refine ⟨trivial, fun i hi => ?_, rfl⟩
          by_cases he : i = d.val
          · subst he; simp [Vector.getD, hd]
          · rw [if_neg he]; simp [Vector.getD, hi, Ne.symm he]
        · simp only [hd, hs, dif_neg, destFib, destWb, endFibAt, if_false, not_false_eq_true]
          exact ⟨trivial, fun _ _ => trivial, rfl, trivial⟩

/-- A destination written at the end of an instruction: the whole of `GivesResult` but its outcome. -/
theorem setG_goto_spec (s : State) (lat : Nat) (d : GReg) (v : Word) (pc : VAddr) :
    let t := (s.setG lat d v).goto pc
    OnlyPlane s t ∧ s.plane.Writes s t lat d v ∧ s.plane.flags t = s.plane.flags s ∧ s.plane.pc t = pc := by
  have ht := setG_goto_eq s lat d v pc
  obtain ⟨h1, h2, h3, h4⟩ := update_end_spec s lat d v pc id id (fun _ => rfl) (fun _ => rfl)
  simp only [id] at h1 h2 h3 h4
  intro t
  rw [show t = _ from ht]
  exact ⟨h1, h2, h4, h3⟩

theorem nextPc_setG (s : State) (lat : Nat) (d : GReg) (v : Word) : (s.setG lat d v).nextPc = s.nextPc := by
  rw [setG_eq]; rfl

/-- Writing the destination and going on completes with that result. -/
theorem result_spec (s : State) (lat : Nat) (d : GReg) (v : Word) : GivesResult s (.next (s.result lat d v)) lat d v :=
  ⟨_, rfl, by
    unfold State.result State.advance
    rw [nextPc_setG]
    exact setG_goto_spec s lat d v s.nextPc⟩

/-! ## Going on (R312, R357) -/

theorem goto_spec (s : State) (pc : VAddr) : GoesTo s (.next (s.goto pc)) pc := by
  refine ⟨_, rfl, ?_⟩
  have ht : s.goto pc = Plane.update s [] (endFibAt pc) (endShadowAt pc) := by
    rw [goto_eq]; unfold Plane.update; congr 1; funext c; rw [change_id_wb]; rfl
  refine ⟨?_, ?_⟩
  · rw [ht]; exact onlyPlane_update s _ _ _ (fun _ => rfl) fun _ => rfl
  · cases hs : s.plane.sh with
    | true =>
      have hc : s.plane.core (s.goto pc) = endShadowAt pc { s.core s.L with wb := (s.core s.L).wb ++ [] } := by
        rw [ht]; exact core_update_shadow _ _ _ hs
      rw [List.append_nil] at hc
      simp only [Plane.Keeps, Plane.a, Plane.flags, Plane.pc, hs, if_true, hc]
      exact ⟨⟨fun _ _ => rfl, rfl⟩, rfl, rfl⟩
    | false =>
      have hc : s.plane.core (s.goto pc) = ({ s.core s.L with wb := (s.core s.L).wb ++ [] } : Core).modFib s.plane.f (endFibAt pc) := by
        rw [ht]; exact core_update_main _ _ _ hs
      have hf : s.plane.fib (s.goto pc) = endFibAt pc (s.plane.fib s) := by rw [ht]; exact fib_update_main _ _ _ hs
      rw [List.append_nil] at hc
      simp only [Plane.Keeps, Plane.a, Plane.flags, Plane.pc, hs, hf, hc, Bool.false_eq_true, if_false]
      exact ⟨⟨fun _ _ => rfl, rfl⟩, rfl, rfl⟩

/-- Going on at the next chain. -/
theorem advance_spec (s : State) : GoesTo s (.next s.advance) s.nextPc := goto_spec s s.nextPc

/-! ## Results with flags (R346) -/

/-- What writing the flags word does to the plane. -/
def flagFib (v : Word) (f : Fibre) : Fibre := { f with flags := v &&& flagsMask }
def flagShadow (v : Word) (c : Core) : Core := { c with shadowFl := v &&& flagsMask }

@[simp] theorem flags_setFlags (s : State) (v : Word) : s.plane.flags (s.setFlags v) = v &&& flagsMask := by
  rw [setFlags_eq]
  simp only [Plane.flags, Plane.fib, Plane.core, show s.plane.L = s.L from rfl, core_modCore_same, Plane.change]
  split <;> simp

/-- The flags word with four condition flags replaced has these flags, its sticky flags, and zeros elsewhere (R180). -/
theorem condOf_bits (w : Word) (f : Cond) :
    condOf (((w &&& ~~~0xF#64) ||| f.bits.setWidth 64) &&& flagsMask) = f
      ∧ ∀ i, 4 ≤ i → (((w &&& ~~~0xF#64) ||| f.bits.setWidth 64) &&& flagsMask).getLsbD i
          = (w.getLsbD i && decide (i = 8 ∨ i = 9 ∨ i = 10)) := by
  obtain ⟨z, n, c, v⟩ := f
  refine ⟨?_, fun i hi => ?_⟩
  · cases z <;> cases n <;> cases c <;> cases v <;> simp [condOf, Cond.bits, flagsMask]
  · by_cases h : i < 64
    · have hm : ∀ j : Fin 64, 4 ≤ j.val → (flagsMask.getLsbD j.val = decide (j.val = 8 ∨ j.val = 9 ∨ j.val = 10))
          ∧ (0xF#64).getLsbD j.val = false := by decide
      have := hm ⟨i, h⟩ hi
      have hb : (Cond.bits ⟨z, n, c, v⟩).getLsbD i = false := BitVec.getLsbD_of_ge _ _ hi
      simp only [BitVec.getLsbD_and, BitVec.getLsbD_or, BitVec.getLsbD_not, BitVec.getLsbD_setWidth, this, hb, h]
      simp
    · have h' : 64 ≤ i := by omega
      simp [BitVec.getLsbD_of_ge _ _ h']

theorem destWb_setFlags (s : State) (w : Word) (lat : Nat) (d : GReg) (v : Word) :
    destWb (s.setFlags w) lat d v = destWb s lat d v := by
  unfold destWb
  rw [plane_setFlags, setFlags_eq, now_modCore, slot_modCore]

theorem destFib_setFlags (s : State) (w : Word) (lat : Nat) (d : GReg) (v : Word) (x : Fibre) :
    destFib (s.setFlags w) lat d v x = destFib s lat d v x := by
  unfold destFib
  rw [setFlags_eq, now_modCore]

theorem modFib_wb (c : Core) (f : Nat) (g k : Fibre → Fibre) (ws : List Writeback) :
    ({ c.modFib f g with wb := (c.modFib f g).wb ++ ws } : Core).modFib f k
      = ({ c with wb := c.wb ++ ws } : Core).modFib f fun x => k (g x) := by
  simp [Core.modFib, Core.setFib, Core.fib]

theorem setFlags_setG_goto_eq (s : State) (w : Word) (lat : Nat) (d : GReg) (v : Word) (pc : VAddr) :
    ((s.setFlags w).setG lat d v).goto pc
      = Plane.update s (destWb s lat d v) (fun x => endFibAt pc (destFib s lat d v (flagFib w x)))
          (fun x => endShadowAt pc (destShadow s lat d v (flagShadow w x))) := by
  rw [setG_goto_eq, plane_setFlags, destWb_setFlags]
  simp only [destFib_setFlags]
  rw [setFlags_eq, L_modCore, modCore_modCore]
  unfold Plane.update
  congr 1; funext c
  unfold Plane.change
  split
  · rfl
  · exact modFib_wb c _ (flagFib w) _ _

/-- Writing the destination and the condition flags and going on completes with them. -/
theorem flagged_spec (s : State) (d : GReg) (x : Flagged) : GivesFlagged s (.next (s.flagged d x)) d x.r x.f := by
  refine ⟨_, rfl, ?_⟩
  have hn : ((s.setCond x.f).setG 1 d x.r).nextPc = s.nextPc := by
    rw [nextPc_setG, State.setCond, setFlags_eq]; rfl
  unfold State.flagged State.advance
  rw [hn, State.setCond, setFlags_setG_goto_eq]
  obtain ⟨h1, h2, h3, h4⟩ := update_end_spec s 1 d x.r s.nextPc
    (flagFib ((s.getFlags &&& ~~~0xF#64) ||| x.f.bits.setWidth 64))
    (flagShadow ((s.getFlags &&& ~~~0xF#64) ||| x.f.bits.setWidth 64)) (fun _ => rfl) (fun _ => rfl)
  refine ⟨h1, h2, ?_, h3⟩
  have hf : s.getFlags = s.plane.flags s := rfl
  unfold Plane.SetsFlags
  rw [h4]
  have hb := condOf_bits s.getFlags x.f
  rw [hf] at hb ⊢
  split <;> exact hb

/-- What the last operation of an instruction with a writeback in the next cycle does to the plane (R348). -/
def dueFib (n : Nat) (f : Fibre) : Fibre := { f with due := n }
def dueShadow (n : Nat) (c : Core) : Core := { c with shadowDue := n }

/-- A change of the plane that keeps its slots and handler, ended by a goto: the plane's registers. -/
theorem update_keeps (s : State) (g : Fibre → Fibre) (h : Core → Core) (hg : ∀ x, (g x).a = x.a)
    (hh : ∀ c, (h c).shadowA = c.shadowA ∧ (h c).wb = c.wb) : s.plane.Keeps s (Plane.update s [] g h) := by
  cases hs : s.plane.sh with
  | true =>
    have hc := core_update_shadow (s := s) [] g h hs
    rw [List.append_nil] at hc
    simp only [Plane.Keeps, Plane.a, hs, if_true, hc, hh]
    exact ⟨fun _ _ => rfl, rfl⟩
  | false =>
    have hc := core_update_main (s := s) [] g h hs
    have hf := fib_update_main (s := s) [] g h hs
    rw [List.append_nil] at hc
    simp only [Plane.Keeps, Plane.a, hs, hf, hg, hc, Bool.false_eq_true, if_false]
    exact ⟨fun _ _ => trivial, rfl⟩

/-- Writing the condition flags and going on completes with them and changes no register. -/
theorem compared_spec (s : State) (x : Flagged) : GivesFlags s (.next (s.compared x)) x.f := by
  refine ⟨_, rfl, ?_⟩
  have hb := condOf_bits s.getFlags x.f
  have hf : s.getFlags = s.plane.flags s := rfl
  generalize hw : ((s.getFlags &&& ~~~0xF#64) ||| x.f.bits.setWidth 64) = w at hb
  have ht : s.compared x = Plane.update s [] (fun y => endFibAt s.nextPc (dueFib (s.now + 2) (flagFib w y)))
      (fun c => endShadowAt s.nextPc (dueShadow (s.now + 2) (flagShadow w c))) := by
    have e : (s.setFlags w).settle 1 = s.modCore s.L (s.plane.change (fun y => dueFib (s.now + 2) (flagFib w y))
        fun c => dueShadow (s.now + 2) (flagShadow w c)) := by
      rw [setFlags_eq, settle_modCore s _ 1 (slots_change _ _ _ _ rfl) (handler_change _ _ _ _ rfl)]
      congr 1; funext c
      rw [change_change]; rfl
    unfold State.compared State.advance State.setCond
    rw [hw, e, goto_eq, plane_modCore s _ (slots_change _ _ _ _ rfl) (handler_change _ _ _ _ rfl), L_modCore, nextPc_modCore,
      modCore_modCore]
    unfold Plane.update
    congr 1; funext c
    rw [change_id_wb, change_change]; rfl
  rw [ht]
  refine ⟨onlyPlane_update s _ _ _ (fun _ => rfl) fun _ => rfl, update_keeps s _ _ (fun _ => rfl) fun _ => ⟨rfl, rfl⟩, ?_⟩
  rw [hf] at hb
  cases hs : s.plane.sh with
  | true =>
    simp only [Plane.SetsFlags, Plane.flags, Plane.pc, Plane.due, hs, if_true, core_update_shadow _ _ _ hs] at hb ⊢
    exact ⟨hb, rfl, rfl⟩
  | false =>
    simp only [Plane.SetsFlags, Plane.flags, Plane.pc, Plane.due, hs, fib_update_main _ _ _ hs, Bool.false_eq_true, if_false] at hb ⊢
    exact ⟨hb, rfl, rfl⟩

/-- A jump completes at its target, where the fibre issues again no earlier than two cycles on (R348). -/
theorem jump_spec (s : State) (pc : VAddr) : JumpsTo s (.next (s.jump pc)) pc := by
  refine ⟨_, rfl, ?_⟩
  have ht : s.jump pc = Plane.update s [] (fun y => dueFib (s.now + 2) (endFibAt pc y))
      (fun c => dueShadow (s.now + 2) (endShadowAt pc c)) := by
    unfold State.jump
    rw [goto_eq, settle_modCore s _ 1 (slots_change _ _ _ _ rfl) (handler_change _ _ _ _ rfl)]
    unfold Plane.update
    congr 1; funext c
    rw [change_id_wb, change_change]; rfl
  rw [ht]
  refine ⟨onlyPlane_update s _ _ _ (fun _ => rfl) fun _ => rfl, update_keeps s _ _ (fun _ => rfl) fun _ => ⟨rfl, rfl⟩, ?_⟩
  cases hs : s.plane.sh with
  | true =>
    simp only [Plane.flags, Plane.pc, Plane.due, hs, if_true, core_update_shadow _ _ _ hs]
    exact ⟨rfl, rfl, rfl⟩
  | false =>
    simp only [Plane.flags, Plane.pc, Plane.due, hs, fib_update_main _ _ _ hs, Bool.false_eq_true, if_false]
    exact ⟨rfl, rfl, rfl⟩

end Sys2Proof.Machine
end

