-- ==== Sys2Proof/Laws/Port.lean ====
section
/-! SUPPORT. A port with no access of the core under way holds nothing back (R232, R237): the checks of Machine/Ops.lean that order an
access pass, so that a meaning goes on to its effect. -/

namespace Sys2Proof.Machine

theorem readsOpen_of_portFree {s : State} (h : PortFree s) (n : Nat) : s.readsOpen s.L n = false := by
  simp only [State.readsOpen, List.any_eq_false]
  intro g hg
  by_cases hc : g.core = s.L
  · simp [h.1 g hg hc]
  · simp [hc]

theorem acquiresOpen_of_portFree {s : State} (h : PortFree s) : s.acquiresOpen s.L = false := by
  simp only [State.acquiresOpen, List.any_eq_false]
  intro g hg
  by_cases hc : g.core = s.L
  · simp [h.1 g hg hc]
  · simp [hc]

theorem sentBy_of_portFree {s : State} (h : PortFree s) {m : Msg} (hm : m ∈ s.msgs ∨ m ∈ s.outMsgs) (lim : Option Nat) :
    s.sentBy s.L lim m = false := by
  cases hw : m.body.writes
  · simp [State.sentBy, hw]
  · have hne : s.localCore m.src ≠ some s.L := hm.elim (fun hm => h.2.2.1 m hm hw) (fun hm => h.2.2.2.1 m hm hw)
    simp [State.sentBy, hne]

theorem outOpen_of_portFree {s : State} (h : PortFree s) (lim : Option Nat) : s.outOpen s.L lim = false := by
  simp only [State.outOpen, List.any_eq_false]
  intro e he
  simp [sentBy_of_portFree h (.inr (List.fst_mem_of_mem_zipIdx he))]

theorem writesOpen_of_portFree {s : State} (h : PortFree s) : s.writesOpen s.L = false := by
  simp only [State.writesOpen, State.sendsOpen, Bool.or_eq_false_iff, List.any_eq_false]
  exact ⟨⟨fun w hw => by simp [h.2.1 w hw], fun m hm => by simp [sentBy_of_portFree h (.inl hm)]⟩, outOpen_of_portFree h none⟩

theorem opRings_of_portFree {s : State} (h : PortFree s) (k n : Nat) : s.opRings k n = false := by
  simp [State.opRings, h.2.2.2.2.1, h.2.2.2.2.2]

theorem unforwarded_of_portFree {s : State} (h : PortFree s) (l : Loc) (size : Nat) : s.unforwarded l size = false := by
  simp only [State.unforwarded, State.addWaits, opRings_of_portFree h, State.messageTo, Bool.or_eq_false_iff, List.any_eq_false, and_true]
  refine ⟨fun w hw => by simp [h.2.1 w hw], fun m hm => ?_⟩
  cases hb : m.body.writes
  · simp
  · simp [h.2.2.1 m hm hb]

theorem atomicWaits_of_portFree {s : State} (h : PortFree s) (k n : Nat) : s.atomicWaits s.L k n = false := by
  simp only [State.atomicWaits, List.any_eq_false]
  intro g hg
  by_cases hc : g.core = s.L
  · simp [(h.1 g hg hc).2]
  · simp [hc]

/-- Whatever order an access asks for, the free port lets it go. -/
theorem portGo_of_portFree {s : State} (h : PortFree s) (rd wr : Bool) (n : Nat) : portGo s rd wr n = .ok () := by
  simp [portGo, State.portHolds, readsOpen_of_portFree h, writesOpen_of_portFree h]

theorem readAny_of_portFree {s : State} (h : PortFree s) (a : Bool) : readAny s a = .ok () :=
  portGo_of_portFree h _ _ _

theorem forwardGo_of_portFree {s : State} (h : PortFree s) (l : Loc) (size : Nat) : forwardGo s l size = .ok () :=
  portGo_of_portFree h _ _ _

theorem readGo_of_portFree {s : State} (h : PortFree s) (l : Loc) (size : Nat) (a : Bool) : readGo s l size a = .ok () := by
  simp [readGo, readAny_of_portFree h, forwardGo_of_portFree h, bind, Except.bind]

theorem forwards_of_portFree {s : State} (h : PortFree s) (ps : List (Loc × Nat)) :
    (ps.forM fun (l, m) => forwardGo s l m : Chk Unit) = .ok () := by
  simp only [forwardGo_of_portFree h]
  induction ps with
  | nil => rfl
  | cons p r ih => simpa [List.forM_cons, bind, Except.bind] using ih

theorem piecesGo_of_portFree {s : State} (h : PortFree s) (ps : List (Loc × Nat)) (a : Bool) : piecesGo s ps a = .ok () := by
  simp [piecesGo, readAny_of_portFree h, forwards_of_portFree h, bind, Except.bind]

theorem writeGo_of_portFree {s : State} (h : PortFree s) (n : Nat) (r : Bool) : writeGo s n r = .ok () :=
  portGo_of_portFree h _ _ _

theorem storeGo_of_portFree {s : State} (h : PortFree s) (l : Loc) (r : Bool) : storeGo s l r = .ok () := by
  simp [storeGo, writeGo_of_portFree h, portGo_of_portFree h, bind, Except.bind]

theorem ringHome_of_portFree {s : State} (h : PortFree s) (r : Ring) : ringHome s r = .ok () := portGo_of_portFree h _ _ _

/-- Nothing that is in flight keeps a fence's kinds alive. -/
theorem fences_of_portFree {s : State} (h : PortFree s) (m : BitVec 4) : s.fences s.L m = 0 := by
  simp [State.fences, readsOpen_of_portFree h, writesOpen_of_portFree h]

end Sys2Proof.Machine
end

