-- ==== Sys2Proof/Tests/Slice0.lean ====
section
/-! SUPPORT. The package's own checks: terms that `Instr.wf` refuses, words written out from the encodings of the spec,
single steps on small states, and, for every statement of the certificates with hypotheses, states and operands that
meet them. -/

namespace Sys2Proof.Tests

open Sys2Proof.Machine

set_option Elab.async false

/-! ## Well-formedness -/

/-- CMP, TST and CMPI with a third register need a zero RD (R351, R352). -/
theorem test_wf_refuses_nonzero_rd :
    (Instr.cmp { d := 1, s := 0, t := some 2 }).wf = false ∧ (Instr.tst { d := 39, s := 0, t := some 2 }).wf = false ∧
      (Instr.cmpi { d := 1, imm := 0, t := some 2 }).wf = false ∧ (Instr.cmp { d := 1, s := 0 }).wf = true := by
  decide

/-- Loads and waits refuse release, stores and signals acquire (R362). -/
theorem test_wf_refuses_orders :
    (Instr.ldd { d := 0, b := 1, disp := 0, m := { order := 2 } }).wf = false ∧
      (Instr.ldbu { d := 0, b := 1, disp := 0, m := { order := 3 } }).wf = false ∧
      (Instr.std { d := 0, b := 1, disp := 0, m := { order := 1 } }).wf = false ∧
      (Instr.waitge { d := 0, s := 1, m := { order := 2 } }).wf = false ∧
      (Instr.wrs { r := 0, m := { order := 2 } }).wf = false ∧
      (Instr.barwait { q := 0, r := 1, m := { order := 3 } }).wf = false ∧
      (Instr.siginc { d := 0, s := 1, m := { order := 1 } }).wf = false ∧
      (Instr.append { d := 0, s := 1, t := 2, m := { order := 3 } }).wf = false ∧
      (Instr.bararv { q := 0, m := { order := 1 } }).wf = false ∧
      (Instr.cstart { d := 0, s := 1, m := { order := 1 } }).wf = false ∧
      (Instr.accrd { d := 0, s := 1, t := 2, m := { order := 2 } }).wf = false := by
  decide

/-- Forms without an order refuse every order (R362, R421). -/
theorem test_wf_refuses_any_order :
    (Instr.tagtest { d := 0, s := 1, m := { order := 1 } }).wf = false ∧
      (Instr.lock { d := 0, s := 1, m := { order := 2 } }).wf = false ∧
      (Instr.mbput { q := 0, r := 1, m := { order := 1 } }).wf = false ∧
      (Instr.unlock { r := 0, m := { order := 1 } }).wf = false ∧
      (Instr.trput { r := 0, m := { order := 3 } }).wf = false := by
  decide

/-- Forms that do not round refuse RND, and forms without a descriptor FSEL (R323, R342, R389). -/
theorem test_wf_refuses_fsel_and_rnd :
    (Instr.vmin { d := 0, s := 1, m := { rnd := 1 } }).wf = false ∧
      (Instr.vsel { d := 0, s := 1, t := 2, m := { rnd := 1 } }).wf = false ∧
      (Instr.vabs { d := 0, s := 1, m := { rnd := 2 } }).wf = false ∧
      (Instr.vgather { d := 0, s := 1, t := 2, m := { rnd := 1 } }).wf = false ∧
      (Instr.vbcast { d := 0, s := 1, m := { rnd := 1 } }).wf = false ∧
      (Instr.vexp2 { d := 0, m := { rnd := 3 } }).wf = false ∧
      (Instr.mma { q := 0, ha := 1, hb := 2, m := { rnd := 1 } }).wf = false ∧
      (Instr.mmclr { q := 0, s := 1, m := { fsel := 1 } }).wf = false ∧
      (Instr.mmrc { d := 0, s := 1, m := { fsel := 1 } }).wf = false ∧
      (Instr.rbind { h := 0, s := 1, m := { rnd := 1 } }).wf = false ∧
      (Instr.runbind { h := 0, m := { fsel := 2 } }).wf = false ∧
      (Instr.advtRemote { s := 0, t := 1, m := { fsel := 3 } }).wf = false := by
  decide

/-- BKINFO and BKSTEP take no REG prefix (R342); a chain holds four prefixes (R313). -/
theorem test_wf_refuses_what_no_chain_holds :
    (Instr.bkinfo 16).wf = false ∧ (Instr.bkstep 39).wf = false ∧
      (Instr.ori { d := 16, imm := 0x1000000, hints := { h0 := true } }).wf = false ∧
      (Instr.ldb { d := 0, b := 16, disp := 0x10000, m := { order := 1 } }).wf = false ∧
      (Instr.sth { d := 0, b := 1, disp := 0x10000, t := some 2, m := { scope := 0 } }).wf = false ∧
      (Instr.ori { d := 16, imm := 0x1000000 }).wf = true := by
  decide

/-! ## Decoding -/

/-- The words decode to the instruction, with none left. -/
def reads (ws : List Half) (i : Instr) : Bool :=
  match decode ws with
  | .ok (j, []) => decide (j = i)
  | _ => false

/-- The words are refused for the reason given. -/
def refuses (ws : List Half) (why : Reject) : Bool :=
  match decode ws with
  | .error r => decide (r.why = why)
  | _ => false

/-- Words written out from the encodings of majors 0x01–0x04 of page 0 (R338), with R317, R319 and R321. -/
theorem test_decode_arithmetic :
    [reads [0x0840] (.add { d := 0, s := 8 }),
      reads [0xE804, 0x08B9] (.sub { d := 17, s := 7 }),
      reads [0xED62, 0x092A] (.and { d := 2, s := 37, t := some 22 }),
      reads [0xFB00, 0x0F83] (.or { d := 15, s := 0, hints := { h0 := true, h1 := true } }),
      reads [0x0A64] (.xor { d := 4, s := 12 }),
      reads [0xE806, 0x0A9D] (.shl { d := 21, s := 35 }),
      reads [0xEDA2, 0x0B0E] (.shr { d := 6, s := 33, t := some 26 }),
      reads [0xFB00, 0x0F87] (.sar { d := 15, s := 0, hints := { h0 := true, h1 := true } }),
      reads [0x1040] (.addc { d := 0, s := 8 }),
      reads [0xE805, 0x14B9] (.subc { d := 25, s := 23 }),
      reads [0xEDE1, 0x156A] (.mul { d := 10, s := 29, t := some 30 }),
      reads [0xFB00, 0x1783] (.mulh { d := 15, s := 0, hints := { h0 := true, h1 := true } }),
      reads [0x1264] (.mulhu { d := 4, s := 12 }),
      reads [0xE804, 0x16DD] (.div { d := 29, s := 11 }),
      reads [0xEE21, 0x174E] (.divu { d := 14, s := 25, t := some 34 }),
      reads [0xFB00, 0x1787] (.rem { d := 15, s := 0, hints := { h0 := true, h1 := true } }),
      reads [0x1840] (.remu { d := 0, s := 8 }),
      reads [0xE80A, 0x18B9] (.min { d := 33, s := 39 }),
      reads [0xEE61, 0x192A] (.max { d := 2, s := 21, t := some 38 }),
      reads [0xFB00, 0x1F83] (.minu { d := 15, s := 0, hints := { h0 := true, h1 := true } }),
      reads [0x1A64] (.maxu { d := 4, s := 12 }),
      reads [0xE809, 0x1ADD] (.rol { d := 37, s := 27 }),
      reads [0xEC21, 0x1B0E] (.ror { d := 6, s := 17, t := some 2 }),
      reads [0xFB00, 0x1F87] (.andn { d := 15, s := 0, hints := { h0 := true, h1 := true } }),
      reads [0x21E0] (.cmp { d := 3, s := 12 }),
      reads [0xEC52, 0x2039] (.tst { d := 0, s := 39, t := some 5 }),
      reads [0xEC60, 0x256A] (.bfx { d := 10, s := 13, t := some 6 }),
      reads [0xFB00, 0x2783] (.bfxu { d := 15, s := 0, hints := { h0 := true, h1 := true } }),
      reads [0xEE60, 0x224C] (.bfi { d := 4, s := 9, t := 38 }),
      reads [0xE804, 0x229D] (.selz { d := 21, s := 3 }),
      reads [0xECA0, 0x274E] (.seln { d := 14, s := 9, t := some 10 }),
      reads [0xFB00, 0x2787] (.selc { d := 15, s := 0, hints := { h0 := true, h1 := true } })].all id = true := by
  decide +kernel

/-- Words written out from the encodings of major 0x05 of page 0 (R340), with R317, R319 and R321. -/
theorem test_decode_single :
    [reads [0xEC00, 0x2800] (.mov { d := 0, t := some 0 }),
      reads [0x2819] (.neg { d := 9 }),
      reads [0xEC64, 0x2822] (.not { d := 18, t := some 6 }),
      reads [0xE804, 0x283B] (.clz { d := 27 }),
      reads [0xECC8, 0x2844] (.ctz { d := 36, t := some 12 }),
      reads [0x2855] (.popc { d := 5 }),
      reads [0xED20, 0x286E] (.brev { d := 14, t := some 18 }),
      reads [0xE804, 0x2877] (.bswap { d := 23 }),
      reads [0xED88, 0x2880] (.sextb { d := 32, t := some 24 }),
      reads [0x2891] (.sexth { d := 1 }),
      reads [0xEDE0, 0x28AA] (.sextw { d := 10, t := some 30 }),
      reads [0xE804, 0x28B3] (.zextb { d := 19 }),
      reads [0xEE44, 0x28CC] (.zexth { d := 28, t := some 36 }),
      reads [0xE808, 0x28D5] (.zextw { d := 37 }),
      reads [0x2C01] (.jr { d := 1 }),
      reads [0xE804, 0x2C17] (.callr { d := 23 }),
      reads [0x2C38] (.movpc { d := 8 }),
      reads [0x2C20] (.ret {})].all id = true := by
  decide +kernel

/-- Words written out from the encodings of the RI, LEA, BC and JL forms (R338, R341, R343), with R317, R319 and R321. -/
theorem test_decode_immediates_and_branches :
    [reads [0x31C0] (.addi { d := 3, imm := -64 }),
      reads [0xEE74, 0xE000, 0x30C0] (.addi { d := 17, imm := 64, t := some 39 }),
      reads [0xE804, 0xE3FF, 0xE7FF, 0x3A7F] (.li { d := 20, imm := 268435455 }),
      reads [0x42FF] (.cmpi { d := 5, imm := -1 }),
      reads [0xE024, 0x4934] (.andi { d := 2, imm := 4660 }),
      reads [0xF003, 0xE400, 0xE000, 0x3480] (.ori { d := 9, imm := -268435456 }),
      reads [0xF003, 0xEC60, 0x38BF] (.xori { d := 1, imm := 63, t := some 6 }),
      reads [0xEDE1, 0xE7FF, 0x7BAB] (.lea { d := 7, b := 21, disp := -5, t := some 30 }),
      reads [0xC080] (.bcc { cc := 0, off := -128 }),
      reads [0xE000, 0xC680] (.bcc { cc := 6, off := 128 }),
      reads [0xE400, 0xE000, 0xC700] (.bcc { cc := 7, off := -536870912 }),
      reads [0xCC00] (.j (-1024)),
      reads [0xE000, 0xD400] (.call (1024)),
      reads [0xE804, 0xD9FC] (.loop { d := 19, imm := -4 })].all id = true := by
  decide +kernel

/-- Words written out from the encodings of the RM forms (R338, R343), with R317, R319 and R321. -/
theorem test_decode_loads_and_stores :
    [reads [0xE802, 0x503B] (.ldd { d := 0, b := 39, disp := 3 }),
      reads [0xEC18, 0xE3FF, 0x5B0F] (.ldw { d := 38, b := 1, disp := 8191, t := some 1 }),
      reads [0xF809, 0x6140] (.ldwu { d := 2, b := 8, disp := 0, m := { scope := 1, order := 1 } }),
      reads [0xE802, 0x69A0] (.std { d := 3, b := 36, disp := 0 }),
      reads [0xEC48, 0xE3FF, 0x71A7] (.stw { d := 35, b := 4, disp := 8191, t := some 4 }),
      reads [0xF003, 0xF809, 0x5140] (.ldb { d := 2, b := 8, disp := 0, m := { scope := 1, order := 1 } }),
      reads [0xF003, 0xE802, 0x5B0D] (.ldbu { d := 6, b := 33, disp := -3 }),
      reads [0xF003, 0xEC78, 0xE3FF, 0x603F] (.ldh { d := 32, b := 7, disp := 8191, t := some 7 }),
      reads [0xF003, 0xF809, 0x7940] (.ldhu { d := 2, b := 8, disp := 0, m := { scope := 1, order := 1 } }),
      reads [0xF003, 0xE801, 0xE7FF, 0x6CF2] (.stb { d := 9, b := 30, disp := -6 }),
      reads [0xF003, 0xECA4, 0xE3FF, 0x76D7] (.sth { d := 29, b := 10, disp := 8191, t := some 10 })].all id = true := by
  decide +kernel

/-- Words written out from the encodings of majors 0x10 and 0x11 of pages 0 and 3 (R338, R343), with R317, R319 and R321. -/
theorem test_decode_atomics :
    [reads [0xE801, 0xF80A, 0x82B0] (.lr { d := 5, s := 22, m := { scope := 2, order := 1 } }),
      reads [0xEC91, 0xF81B, 0x80F9] (.sc { d := 1, s := 31, t := 9, m := { scope := 3, order := 3 } }),
      reads [0xECA1, 0xF81B, 0x817A] (.amoadd { d := 2, s := 31, t := 10, m := { scope := 3, order := 3 } }),
      reads [0xED50, 0x84FB] (.amoand { d := 9, s := 15, t := 21 }),
      reads [0xEDC1, 0x8624] (.amoor { d := 12, s := 20, t := 28 }),
      reads [0xEE31, 0x87CD] (.amoxor { d := 15, s := 25, t := 35 }),
      reads [0xEC25, 0x8176] (.amomax { d := 18, s := 30, t := 2 }),
      reads [0xEC96, 0x829F] (.amomin { d := 21, s := 35, t := 9 }),
      reads [0xED04, 0x8C00] (.amoumax { d := 24, s := 0, t := 16 }),
      reads [0xED74, 0x8DA9] (.amoumin { d := 27, s := 5, t := 23 }),
      reads [0xEDE4, 0x8F52] (.amoxchg { d := 30, s := 10, t := 30 }),
      reads [0xEE58, 0x88FB] (.amocas { d := 33, s := 15, t := 37 }),
      reads [0xEC49, 0x8A24] (.famoadd { d := 36, s := 20, t := 4 }),
      reads [0xECB9, 0x8BCE] (.accrd { d := 39, s := 25, t := 11 }),
      reads [0xED80, 0x8835] (.accadd { s := 6, t := 24 }),
      reads [0xF814, 0x8897] (.siginc { d := 1, s := 2, m := { order := 2 } }),
      reads [0xF003, 0xE801, 0x8380] (.lrw { d := 7, s := 16 }),
      reads [0xF003, 0xEC30, 0x8091] (.scw { d := 1, s := 2, t := 3 }),
      reads [0xF003, 0xED18, 0x8382] (.amoaddw { d := 39, s := 0, t := 17 }),
      reads [0xF003, 0xECA0, 0x844B] (.amocasw { d := 8, s := 9, t := 10 })].all id = true := by
  decide +kernel

/-- Words written out from the encodings of majors 0x12 and 0x13 of page 0 (R338, R360), with R317, R319 and R321. -/
theorem test_decode_waits :
    [reads [0xE802, 0xF80C, 0x9208] (.waitge { d := 4, s := 33, m := { order := 1 } }),
      reads [0xE804, 0x9101] (.wrs { r := 18 }),
      reads [0xEE30, 0x9092] (.append { d := 1, s := 2, t := 35 }),
      reads [0x9603] (.recv { d := 12, s := 0 }),
      reads [0x907C] (.tagwait { d := 0, s := 15 }),
      reads [0xE805, 0x955D] (.tagtest { d := 26, s := 27 }),
      reads [0xE802, 0x91AE] (.mbput { q := 3, r := 37 }),
      reads [0x9497] (.mbtake { q := 2, r := 9 }),
      reads [0x98A0] (.barinit { q := 1, r := 4 }),
      reads [0x9981] (.bararv { q := 3 }),
      reads [0xE804, 0x980A] (.barwait { q := 1, r := 16 }),
      reads [0x9973] (.lock { d := 2, s := 14 }),
      reads [0x985C] (.unlock { r := 11 })].all id = true := by
  decide +kernel

/-- Words written out from the encodings of majors 0x00, 0x16 and 0x17 of page 0 (R338, R339), with R317, R319 and R321. -/
theorem test_decode_system :
    [reads [0x0001] (.nop),
      reads [0x0002] (.yield),
      reads [0x0003] (.taskdone),
      reads [0x0004] (.tret),
      reads [0x0005] (.pmret),
      reads [0x0006] (.halt),
      reads [0x0007] (.brk),
      reads [0x0008] (.swt 0),
      reads [0x000F] (.swt 7),
      reads [0x0135] (.fence 3 5),
      reads [0x014F] (.fence 4 15),
      reads [0xE801, 0xB108] (.srr { d := 2, s := 17 }),
      reads [0xE808, 0xB099] (.srw { d := 33, s := 3 }),
      reads [0xB06A] (.taskpush 13),
      reads [0xB00B] (.taskpop { d := 0, s := 1 }),
      reads [0xB2B4] (.sleep { d := 5, s := 6 }),
      reads [0xE801, 0xB525] (.tmset { d := 10, s := 20 }),
      reads [0xE808, 0xB386] (.tmrd 39),
      reads [0xB097] (.hcall { d := 1, s := 2 }),
      reads [0xEC44, 0xB990] (.fspawn { d := 19, s := 2, t := 4 }),
      reads [0xB801] (.fexit)].all id = true := by
  decide +kernel

/-- Words written out from the encodings of page 1 (R340, R342), with R317, R319 and R321. -/
theorem test_decode_vector :
    [reads [0xF001, 0xEE90, 0xF801, 0x0890] (.vadd { d := 1, s := 2, t := some 1, m := { fsel := 1 } }),
      reads [0xF001, 0xF806, 0x0A39] (.vsub { d := 4, s := 7, m := { fsel := 2, rnd := 1 } }),
      reads [0xF001, 0xEF70, 0xF80B, 0x0BE2] (.vmul { d := 7, s := 12, t := some 15, m := { fsel := 3, rnd := 2 } }),
      reads [0xF001, 0xEEE0, 0xF80C, 0x0D0B] (.vfma { d := 10, s := 1, t := 6, m := { fsel := 0, rnd := 3 } }),
      reads [0xF001, 0xEF50, 0xF801, 0x0EB4] (.vmin { d := 13, s := 6, t := some 13, m := { fsel := 1 } }),
      reads [0xF001, 0xF802, 0x085D] (.vmax { d := 0, s := 11, m := { fsel := 2 } }),
      reads [0xF001, 0xF803, 0x0986] (.vabs { d := 3, s := 0, m := { fsel := 3 } }),
      reads [0xF001, 0x0B2F] (.vneg { d := 6, s := 5 }),
      reads [0xF001, 0xEEA0, 0xF802, 0x1110] (.vcmpeq { d := 2, s := 2, t := some 2, m := { fsel := 2 } }),
      reads [0xF001, 0xF803, 0x12B9] (.vcmplt { d := 5, s := 7, m := { fsel := 3 } }),
      reads [0xF001, 0xEE80, 0x1462] (.vcmple { d := 8, s := 12, t := some 0 }),
      reads [0xF001, 0xEEF0, 0xF801, 0x158B] (.vsel { d := 11, s := 1, t := 7, m := { fsel := 1 } }),
      reads [0xF001, 0xEF60, 0xF802, 0x1734] (.viadd { d := 14, s := 6, t := some 14, m := { fsel := 2 } }),
      reads [0xF001, 0xF803, 0x10DD] (.visub { d := 1, s := 11, m := { fsel := 3 } }),
      reads [0xF001, 0xEF40, 0x1206] (.vimul { d := 4, s := 0, t := some 12 }),
      reads [0xF001, 0xF801, 0x13AF] (.vishl { d := 7, s := 5, m := { fsel := 1 } }),
      reads [0xF001, 0xEEB0, 0xF803, 0x1990] (.vand { d := 3, s := 2, t := some 3, m := { fsel := 3 } }),
      reads [0xF001, 0x1B39] (.vor { d := 6, s := 7 }),
      reads [0xF001, 0xEE90, 0xF801, 0x1CE2] (.vxor { d := 9, s := 12, t := some 1, m := { fsel := 1 } }),
      reads [0xF001, 0xF802, 0x1E0B] (.vishr { d := 12, s := 1, m := { fsel := 2 } }),
      reads [0xF001, 0xEF70, 0xF803, 0x1FB4] (.visar { d := 15, s := 6, t := some 15, m := { fsel := 3 } }),
      reads [0xF001, 0x195D] (.vimin { d := 2, s := 11 }),
      reads [0xF001, 0xEF50, 0xF801, 0x1A86] (.vimax { d := 5, s := 0, t := some 13, m := { fsel := 1 } }),
      reads [0xF001, 0xF802, 0x1C2F] (.viabs { d := 8, s := 5, m := { fsel := 2 } }),
      reads [0xF001, 0x2210] (.vcvt { d := 4, s := 2 }),
      reads [0xF001, 0xF805, 0x23B9] (.vquant { d := 7, s := 7, m := { fsel := 1, rnd := 1 } }),
      reads [0xF001, 0xF80A, 0x2562] (.vdequant { d := 10, s := 12, m := { fsel := 2, rnd := 2 } }),
      reads [0xF001, 0xF80F, 0x268B] (.vcvti { d := 13, s := 1, m := { fsel := 3, rnd := 3 } }),
      reads [0xF001, 0x2034] (.vcvtf { d := 0, s := 6 }),
      reads [0xF001, 0xF801, 0x2A90] (.vrsum { d := 5, s := 2, m := { fsel := 1 } }),
      reads [0xF001, 0xF802, 0x2C39] (.vrmax { d := 8, s := 7, m := { fsel := 2 } }),
      reads [0xF001, 0xF803, 0x2DE2] (.vrmin { d := 11, s := 12, m := { fsel := 3 } }),
      reads [0xF001, 0x2F0B] (.vscan { d := 14, s := 1 }),
      reads [0xF001, 0xEE90, 0xF801, 0x28B4] (.vperm { d := 1, s := 6, t := some 1, m := { fsel := 1 } }),
      reads [0xF001, 0xEF01, 0xF802, 0x2A2D] (.vgather { d := 4, s := 21, t := 8, m := { fsel := 2 } }),
      reads [0xF001, 0xEF71, 0xF803, 0x2BB6] (.vscatter { d := 7, s := 22, t := 15, m := { fsel := 3 } }),
      reads [0xF001, 0x2D1F] (.vbcast { d := 10, s := 3 }),
      reads [0xF001, 0xEF20, 0x3005] (.vexp2 { d := 5, t := some 10 }),
      reads [0xF001, 0x3016] (.vlog2 { d := 6 }),
      reads [0xF001, 0xEF20, 0x3027] (.vrcp { d := 7, t := some 10 }),
      reads [0xF001, 0x3038] (.vrsq { d := 8 })].all id = true := by
  decide +kernel

/-- Words written out from the encodings of majors 0x01–0x03 of page 2 (R342, R404), with R317, R319 and R321. -/
theorem test_decode_matrix_and_copy :
    [reads [0xF002, 0xEEB0, 0x0A90] (.mma { q := 1, keepA := true, ha := 2, hb := 3 }),
      reads [0xF002, 0xEF70, 0x0DA1] (.mmas { q := 3, keepB := true, ha := 4, hb := 15 }),
      reads [0xF002, 0xF80C, 0x0A8A] (.mmrd { d := 5, q := 1, m := { rnd := 3 } }),
      reads [0xF002, 0x0883] (.mmclr { q := 1, s := 0 }),
      reads [0xF002, 0xE806, 0x0A0C] (.mmrc { d := 20, s := 33 }),
      reads [0xF002, 0x0945] (.skset { q := 2, s := 8 }),
      reads [0xF002, 0xF814, 0x1300] (.cpy { d := 6, s := 0, m := { order := 2 } }),
      reads [0xF002, 0x10D1] (.cpyt { d := 1, s := 10 }),
      reads [0xF002, 0x1162] (.cpyg { d := 2, s := 12 }),
      reads [0xF002, 0x11F3] (.cpym { d := 3, s := 14 }),
      reads [0xF002, 0xE801, 0x1204] (.shld { d := 4, s := 16 }),
      reads [0xF002, 0xE801, 0x1295] (.stash { d := 5, s := 18 }),
      reads [0xF002, 0xE801, 0x1326] (.restore { d := 6, s := 20 }),
      reads [0xF002, 0x1890] (.cstart { d := 1, s := 2 }),
      reads [0xF002, 0xE801, 0x1831] (.trput { r := 22 }),
      reads [0xF002, 0xE808, 0x1882] (.trget { r := 33 })].all id = true := by
  decide +kernel

/-- Words written out from the encodings of majors 0x04 and 0x05 of page 2 (R342, R404), with R317, R319 and R321. -/
theorem test_decode_rings_and_book :
    [reads [0xF002, 0x2190] (.rbind { h := 3, s := 2 }),
      reads [0xF002, 0x2781] (.runbind { h := 15 }),
      reads [0xF002, 0xE801, 0x211A] (.awaitf { h := 2, s := 19 }),
      reads [0xF002, 0xE801, 0x21A3] (.awaite { h := 3, s := 20 }),
      reads [0xF002, 0xE801, 0x222C] (.advh { h := 4, s := 21 }),
      reads [0xF002, 0xE801, 0x22B5] (.advt { h := 5, s := 22 }),
      reads [0xF002, 0xECC0, 0x201D] (.advtRemote { s := 3, t := 12 }),
      reads [0xF002, 0xE804, 0x20CE] (.rstat { h := 9, s := 17 }),
      reads [0xF002, 0x2801] (.bkinfo 1),
      reads [0xF002, 0x281E] (.bkstep 14),
      reads [0xF002, 0x2820] (.bkgo),
      reads [0xF002, 0x2830] (.bkpause)].all id = true := by
  decide +kernel
/-- The rejections of R313, R318, R319, R321–R323 and R335–R343, each on a word or chain that the rule names. -/
theorem test_decode_refusals :
    [refuses [0x0000] .undefinedWord, refuses [0x0010] .minorUnassigned, refuses [0x0150] .minorUnassigned,
      refuses [0xA000] .majorUnassigned, refuses [0xB802] .minorUnassigned, refuses [0x9805] .minorUnassigned,
      refuses [0xE001, 0xE001, 0xE001] .thirdImm, refuses [0xE801, 0xE801] .repeatedPrefix,
      refuses [0xF003, 0xE801, 0xF804, 0xE001, 0xE001] .fifthPrefix, refuses [0xF003] .truncated,
      refuses [0xF000, 0x0800] .pageNumberInvalid, refuses [0xF009, 0x0800] .pageNumberInvalid,
      refuses [0xF001, 0xC000] .pageNotAccepted, refuses [0xF004, 0x0800] .pageUnassigned,
      refuses [0xF007, 0x0800] .formNotInRevision, refuses [0xF001, 0x0000] .undefinedWord,
      refuses [0xF001, 0x3800] .majorUnassigned, refuses [0xE001, 0x0800] .immNotAccepted,
      refuses [0xE801, 0xC000] .regNotAccepted, refuses [0xF800, 0xC000] .modNotAccepted,
      refuses [0xE810, 0x0800] .regPayloadReserved, refuses [0xEC00, 0x3800] .regPayloadReserved,
      refuses [0xEE80, 0x0800] .registerClass, refuses [0xEF80, 0x0800] .registerNumber,
      refuses [0x2C21] .mustBeZero,
      refuses [0xF805, 0x5000] .scopeReserved, refuses [0xF814, 0x5000] .orderReserved,
      refuses [0xF801, 0x0800] .formatReserved, refuses [0xF804, 0x0800] .roundingReserved,
      refuses [0xFC00, 0x0800] .hintMustBeZero, refuses [0x9A00] .registerNumber].all id = true := by
  decide +kernel

/-- The bits above the table's words are zero words (R311): the decoder reads one chain. -/
theorem test_decode_table_words :
    decodeTableWord 16 0x0001 = some .nop ∧ decodeTableWord 16 0x3801 = some (.li { d := 0, imm := 1 }) ∧
      decodeTableWord 32 0xF0010801 = some (.vsub { d := 0, s := 0 }) := by
  decide +kernel

/-! ## Witnesses

Small states: fibre 2 stands in slot 1 of core 0 at 0x1000, in a page of context 0 that is mapped to 0x20000, with every
permission; the latch names its chain. -/

/-- A result is a value, as a Bool. -/
def okIs {ε α : Type} [DecidableEq α] (r : Except ε α) (x : α) : Bool :=
  match r with
  | .ok y => decide (y = x)
  | .error _ => false

theorem ok_iff {ε α : Type} [DecidableEq α] (r : Except ε α) (x : α) : r = .ok x ↔ okIs r x = true := by
  cases r <;> simp [okIs]

theorem inv_iff (s : State) : s.Inv ↔ Memory.wf s.mem = true := Iff.rfl

/-- The port holds nothing of the issuing core back, as a Bool. -/
def portFree (s : State) : Bool :=
  (s.grants.all fun g => g.core != s.L || (g.granted && g.op.isNone)) && (s.heldWrites.all fun w => w.core != some s.L)
    && (s.msgs.all fun m => !m.body.writes || s.localCore m.src != some s.L)
    && (s.outMsgs.all fun m => !m.body.writes || s.localCore m.src != some s.L) && s.here.vec.isNone && s.here.mat.isNone

theorem portFree_iff (s : State) : PortFree s ↔ portFree s = true := by
  simp [PortFree, portFree, and_assoc, Decidable.imp_iff_not_or]

theorem homesFree_iff (s : State) : HomesFree s ↔ s.grants = [] ∧ s.heldWrites = [] ∧ portFree s = true := by
  rw [HomesFree, portFree_iff]

/-- A home is no register of the control page, as a Bool. -/
def plainHome (h : Home) : Bool :=
  match h with
  | .control _ => false
  | _ => true

theorem reaches_iff (s : State) (va : VAddr) (n : Nat) (k : Kind) (l : Loc) :
    Reaches s va n k l ↔ va.toNat % n = 0 ∧ okIs (resolve s (s.party s.L) va k) l = true ∧ plainHome l.home = true := by
  rw [← ok_iff]
  exact and_congr_right fun _ => and_congr_right fun _ => by cases l.home <;> simp [plainHome]

/-- A check ends in a wait, as a Bool. -/
def waits {α : Type} (r : Chk α) : Bool :=
  match r with
  | .error (.wait _) => true
  | _ => false

theorem waits_of {α : Type} {r : Chk α} (h : waits r = true) : ∃ w, r = .error (.wait w) := by
  cases r with
  | ok x => cases h
  | error e => cases e <;> first | exact ⟨_, rfl⟩ | cases h

/-- Some checks that can be decided together, before the rest of a witness. -/
theorem both3 {a b c r : Prop} (h : a ∧ b ∧ c) (k : r) : a ∧ b ∧ c ∧ r := ⟨h.1, h.2.1, h.2.2, k⟩
theorem both4 {a b c d r : Prop} (h : a ∧ b ∧ c ∧ d) (k : r) : a ∧ b ∧ c ∧ d ∧ r := ⟨h.1, both3 h.2 k⟩
theorem both5 {a b c d e r : Prop} (h : a ∧ b ∧ c ∧ d ∧ e) (k : r) : a ∧ b ∧ c ∧ d ∧ e ∧ r := ⟨h.1, both4 h.2 k⟩
theorem both6 {a b c d e f r : Prop} (h : a ∧ b ∧ c ∧ d ∧ e ∧ f) (k : r) : a ∧ b ∧ c ∧ d ∧ e ∧ f ∧ r := ⟨h.1, both5 h.2 k⟩

/-- The outcome is a next state, as a Bool. -/
def isNext (r : Host.Outcome State Fault Refusal) : Bool :=
  match r with
  | .next _ => true
  | _ => false

theorem next_of {r : Host.Outcome State Fault Refusal} (h : isNext r = true) : ∃ t, r = .next t := by
  cases r with
  | next t => exact ⟨t, rfl⟩
  | fault f => cases h
  | refused x => cases h

/-- The state of the small machine, issuing from slot 1. -/
def base : State := { State.reset.withFetchWord 16 1 with cur := { core := 0, slot := 1, pc := 0x1000 } }

/-- Core 0 changed. -/
def core0 (s : State) (g : Core → Core) : State := s.modCore 0 g

/-- Fibre 2 of core 0 changed. -/
def fib2 (s : State) (g : Fibre → Fibre) : State := core0 s fun c => c.modFib 2 g

/-- Private registers of fibre 2. -/
def regs (s : State) (l : List (Nat × Word)) : State :=
  fib2 s fun f => { f with a := l.foldl (fun v x => v.setIfInBounds x.1 x.2) f.a }

/-- The urgent fibre of core 0 issues, from slot 0. -/
def urgent (s : State) : State := { core0 s fun c => { c with idle := false } with cur := { core := 0, slot := 0, pc := 0x1000 } }

/-- An event stands in the latch. -/
def event (s : State) (e : Event) : State := { s with ev := e }

theorem witness_DecodeOfEncodeIsTheInstruction : ∃ i : Instr, i.wf = true ∧ i.isEvent = false := ⟨.nop, by decide⟩

theorem witness_DecodedInstructionIsWellFormed :
    (∃ i, decode [0x0001] = .ok (i, [])) ∧ ∃ i, decode [0xF003, 0xE801, 0xF804, 0xE001, 0x5000] = .ok (i, []) :=
  ⟨⟨_, rfl⟩, ⟨_, rfl⟩⟩

theorem witness_EveryStepKeepsTheInvariant : ∃ s t : State, s.Inv ∧ step s = .next t :=
  have ⟨t, h⟩ := next_of (r := step base) (by decide +kernel)
  ⟨base, t, (inv_iff _).2 (by decide +kernel), h⟩

theorem witness_StepRunsTheDecodedInstruction :
    base.agenda = [] ∧ issueNext base = some (0, 1) ∧ beforeIssue base 0 1 ((base.core 0).slotPc 1) = none ∧
      (fetchChain base 0 ((base.core 0).slotPc 1)).stop = none ∧
      decode (fetchChain base 0 ((base.core 0).slotPc 1)).words = .ok (.nop, []) := by
  refine ⟨rfl, both3 (by decide +kernel) ?_⟩
  have h : (fetchChain base 0 ((base.core 0).slotPc 1)).words = [1] := by decide +kernel
  rw [h]; rfl

theorem witness_ConditionsHoldAsTheCompareSays : ∃ (s t : State) (o : OpRR), exec (.cmp o) s = .next t :=
  have ⟨t, h⟩ := next_of (r := exec (.cmp { d := 0, s := 1 }) base) (by decide +kernel)
  ⟨base, t, _, h⟩

/-- The branches of the clauses: an even and an odd register target, and LOOP's offset and count at their bounds. -/
theorem witness_BranchesGoToTheirTargets :
    (let s := regs base [(1, 0x1001), (7, 0x2000)]
     ((s.getG 1).extractLsb' 0 56).getLsbD 0 = true ∧ ((s.getG 0).extractLsb' 0 56).getLsbD 0 = false ∧
       ((s.plane.a s 7).extractLsb' 0 56).getLsbD 0 = false) ∧
      (let s := regs base [(7, 0x2001)]
       ((s.plane.a s 7).extractLsb' 0 56).getLsbD 0 = true) ∧
      (let s := regs base [(1, 0), (2, 1), (3, 2)]
       0 ≤ (0 : BitVec 29).toInt ∧ ¬0 ≤ (-1 : BitVec 29).toInt ∧ (s.getG 1).toInt ≤ 0 ∧ s.getG 2 = 1 ∧
         ¬(s.getG 3).toInt ≤ 0 ∧ s.getG 3 ≠ 1) := by
  decide +kernel

/-- Where the memory operands below lie: mapped memory at 0x1100, and TCM at offset 0x200. -/
def atMem : Loc := ⟨0x20100, .mapped false⟩
def atTcm : Loc := ⟨tcmKey 0 0x200, .tcm 0⟩

/-- a1 points into mapped memory, a2 into the core's TCM, a3 at an odd address; a4 to a6 are values. -/
def ptrs : State := regs base [(1, 0x1100), (2, 0xFF000000000200), (3, 0x1101), (4, 7), (5, 1), (6, 0x10000000001)]

/-- Fibre 3 of core 0 has asked for a reservation of another granule, which is not granted yet: the port holds what is ordered after
it. -/
def ported : State := { ptrs with grants := [{ gran := 0x5000, core := 0, fibre := 3, granted := false }] }

theorem witness_LoadsReadTheEffectiveAddress :
    (∃ (s : State) (o : OpMem) (l : Loc), Reaches s (o.ea 8 s) 8 .read l ∧ PortFree s ∧ s.poisoned l.key 8 = false ∧
      watchCheck s (o.ea 8 s) true false = .ok () ∧ l.isLocal s.L = false) ∧
      (∃ (s : State) (o : OpMem) (l : Loc), Reaches s (o.ea 1 s) 1 .read l ∧ PortFree s ∧ s.poisoned l.key 1 = false ∧
        watchCheck s (o.ea 1 s) true false = .ok () ∧ l.isLocal s.L = true) ∧
      (∃ (s : State) (o : OpMem) (l : Loc), Reaches s (o.ea 8 s) 8 .read l ∧ ∃ w, readGo s l 8 (acq o.m) = .error (.wait w)) ∧
      ∃ (s : State) (o : OpMem), (o.ea 2 s).toNat % 2 ≠ 0 := by
  refine ⟨⟨ptrs, { d := 0, b := 1, disp := 0 }, atMem, ?_⟩, ⟨ptrs, { d := 9, b := 2, disp := 0 }, atTcm, ?_⟩,
    ⟨ported, { d := 0, b := 1, disp := 0, m := { order := 1 } }, atMem, ?_, waits_of (by decide +kernel)⟩,
    ⟨ptrs, { d := 0, b := 3, disp := 0 }, by decide +kernel⟩⟩ <;> (try simp only [reaches_iff, ok_iff, portFree_iff]) <;> decide +kernel

theorem witness_StoresWriteTheEffectiveAddress :
    (∃ (s : State) (o : OpMem) (l : Loc), s.Inv ∧ Reaches s (o.ea 8 s) 8 .write l ∧ HomesFree s ∧
      watchCheck s (o.ea 8 s) false true = .ok () ∧ l.isLocal s.L = false ∧ l.target = none) ∧
      (∃ (s : State) (o : OpMem) (l : Loc), s.Inv ∧ Reaches s (o.ea 1 s) 1 .write l ∧ HomesFree s ∧
        watchCheck s (o.ea 1 s) false true = .ok () ∧ l.isLocal s.L = true ∧ boundAt s s.L l.key 1 = none) ∧
      (∃ (s : State) (o : OpMem) (l : Loc), s.Inv ∧ Reaches s (o.ea 4 s) 4 .write l ∧ HomesFree s ∧
        watchCheck s (o.ea 4 s) false true = .ok () ∧ l.isLocal s.L = false ∧ l.target = some 1) ∧
      (∃ (s : State) (o : OpMem) (l : Loc), Reaches s (o.ea 8 s) 8 .write l ∧ watchCheck s (o.ea 8 s) false true = .ok () ∧
        l.isLocal s.L = false ∧ ∃ w, storeGo s l (rel o.m) = .error (.wait w)) ∧
      ∃ (s : State) (o : OpMem), (o.ea 2 s).toNat % 2 ≠ 0 := by
  refine ⟨⟨ptrs, { d := 0, b := 1, disp := 0 }, atMem, ?_⟩, ⟨ptrs, { d := 9, b := 2, disp := 0 }, atTcm, ?_⟩,
    ⟨regs base [(1, 0xFD000000040200)], { d := 0, b := 1, disp := 0 }, ⟨tcmKey 1 0x200, .tcm 1⟩, ?_⟩,
    ⟨ported, { d := 0, b := 1, disp := 0, m := { order := 2 } }, atMem, ?_, ?_, by decide +kernel, waits_of (by decide +kernel)⟩,
    ⟨ptrs, { d := 0, b := 3, disp := 0 }, by decide +kernel⟩⟩ <;>
    (try simp only [inv_iff, reaches_iff, ok_iff, homesFree_iff]) <;> decide +kernel

theorem witness_AtomicsReadModifyWrite :
    (∃ (s : State) (o : OpM3) (l : Loc),
      let va : VAddr := (s.getG o.s).extractLsb' 0 56
      s.Inv ∧ Reaches s va 8 .atomic l ∧ s.poisoned l.key 8 = false ∧ s.me.rsv = none ∧ HomesFree s ∧ s.moves = [] ∧
        watchCheck s va true true = .ok ()) ∧
      ∃ (s : State) (o : OpM3) (l : Loc),
        let va : VAddr := (s.getG o.s).extractLsb' 0 56
        s.Inv ∧ Reaches s va 4 .atomic l ∧ s.poisoned l.key 4 = false ∧ s.me.rsv = none ∧ HomesFree s ∧ s.moves = [] ∧
          watchCheck s va true true = .ok () := by
  refine ⟨⟨ptrs, { d := 0, s := 1, t := 4 }, atMem, ?_⟩, ⟨ptrs, { d := 9, s := 2, t := 4 }, atTcm, ?_⟩⟩ <;>
    (try simp only [inv_iff, reaches_iff, ok_iff, homesFree_iff]) <;> decide +kernel

/-- A cell of zeros with an anchor at 0x20100: its bytes are zero, and the anchor is 0. -/
theorem witness_FloatingAtomicsAndCells :
    (∃ (s : State) (o : OpM3) (l : Loc) (nc : Bool),
      let va : VAddr := (s.getG o.s).extractLsb' 0 56
      l.home = .mapped nc ∧ s.Inv ∧ (s.onShadow = false → s.here.hasFib s.fibre = true) ∧ va.toNat % 4 = 0 ∧
        resolve s (s.party s.L) va .atomic = .ok l ∧ s.poisoned l.key 4 = false ∧ s.me.rsv = none ∧ HomesFree s ∧
        s.moves = [] ∧ watchCheck s va true true = .ok ()) ∧
      (∃ (s : State) (o : OpMst) (l : Loc) (nc : Bool) (anchor : Int) (c : Cell),
        let va : VAddr := (s.getG o.s).extractLsb' 0 56
        l.home = .mapped nc ∧ l.key < 8 * 0x10000000 ∧ s.Inv ∧ va.toNat % 32 = 0 ∧
          resolve s (s.party s.L) va .atomic = .ok l ∧ s.poisoned l.key 32 = false ∧ s.me.rsv = none ∧ HomesFree s ∧
          s.moves = [] ∧ watchRange s va 32 true true = .ok () ∧ cellOf (memGets s.mem l.key 32) = some (anchor, c)) ∧
      ∃ (s : State) (o : OpM3) (l : Loc) (nc : Bool) (anchor : Int) (c : Cell),
        let va : VAddr := (s.getG o.s).extractLsb' 0 56
        let w := s.getG o.t
        l.home = .mapped nc ∧ l.key < 8 * 0x10000000 ∧ va.toNat % 32 = 0 ∧ w.toNat < 8 ∧
          resolve s (s.party s.L) va .read = .ok l ∧ s.poisoned l.key 32 = false ∧
          watchRange s va 32 true false = .ok () ∧ PortFree s ∧ cellOf (s.view s.L l.key 32) = some (anchor, c) := by
  refine ⟨⟨ptrs, { d := 0, s := 1, t := 4 }, atMem, false, ?_⟩, ⟨ptrs, { s := 1, t := 4 }, atMem, false, 0, {}, ?_⟩,
    ⟨ptrs, { d := 0, s := 1, t := 4 }, atMem, false, 0, {}, ?_⟩⟩ <;>
    (try simp only [inv_iff, ok_iff, homesFree_iff, portFree_iff]) <;> decide +kernel

/-- Fibre 2 holds a reservation of mapped memory, granted, and has read it. -/
def heldGrant : Grant := { gran := 0x4020, core := 0, fibre := 2, granted := true }
def reserved (word : Bool) : State :=
  { fib2 ptrs fun f => { f with rsv := some { addr := 0x1100, key := 0x20100, word } } with grants := [heldGrant] }

/-- Fibre 2's reservation is lost. -/
def lostRsv : State := fib2 ptrs fun f => { f with lost := true, last := some { addr := 0x1100, key := 0x20100, word := false } }

/-- The wait for a write to a granule has ended with its value. -/
def writtenWatch : Watch := { core := 0, fibre := 2, key := 0x20100, size := 8, done := some 5 }

theorem witness_ReservationsLoadStoreAndWait_lr :
    (∀ word : Bool, ∃ (s : State) (o : OpM2) (l : Loc),
      let n := if word then 4 else 8
      let va : VAddr := (s.getG o.s).extractLsb' 0 56
      Reaches s va n .atomic l ∧ s.poisoned l.key n = false ∧ s.me.rsv = none ∧ s.rsvCount < 16 ∧
        HomesFree s ∧ s.moves = [] ∧ watchCheck s va true true = .ok ()) ∧
      ∀ word : Bool, ∃ (s : State) (o : OpM2) (l : Loc),
        let n := if word then 4 else 8
        Reaches s ((s.getG o.s).extractLsb' 0 56) n .atomic l ∧ s.poisoned l.key n = false ∧ s.me.rsv ≠ none := by
  refine ⟨fun word => ⟨ptrs, { d := 0, s := 1 }, atMem, ?_⟩, fun word => ⟨reserved word, { d := 0, s := 1 }, atMem, ?_⟩⟩ <;>
    cases word <;> (try simp only [reaches_iff, ok_iff, homesFree_iff]) <;> decide +kernel

theorem witness_ReservationsLoadStoreAndWait_sc :
    (∀ word : Bool, ∃ (s : State) (o : OpM3) (l : Loc) (key : Nat),
      let n := if word then 4 else 8
      let va : VAddr := (s.getG o.s).extractLsb' 0 56
      Reaches s va n .atomic l ∧ s.me.rsv = some { addr := va, key, word } ∧ s.Inv ∧ HoldsAlone s (l.key / 8) ∧
        watchCheck s va true true = .ok ()) ∧
      (∀ word : Bool, ∃ (s : State) (o : OpM3) (l : Loc),
        Reaches s ((s.getG o.s).extractLsb' 0 56) (if word then 4 else 8) .atomic l ∧ s.me.rsv = none ∧ s.me.lost = true) ∧
      ∀ word : Bool, ∃ (s : State) (o : OpM3) (l : Loc),
        Reaches s ((s.getG o.s).extractLsb' 0 56) (if word then 4 else 8) .atomic l ∧ s.me.rsv = none ∧ s.me.lost = false := by
  refine ⟨fun word => ⟨reserved word, { d := 0, s := 1, t := 4 }, atMem, 0x20100, ?_, ?_, ?_, ⟨?_, ?_, heldGrant, ?_⟩, ?_⟩,
    fun word => ⟨lostRsv, { d := 0, s := 1, t := 4 }, atMem, ?_⟩, fun word => ⟨ptrs, { d := 0, s := 1, t := 4 }, atMem, ?_⟩⟩ <;>
    cases word <;> (try simp only [inv_iff, reaches_iff, ok_iff, portFree_iff]) <;> decide +kernel

theorem witness_ReservationsLoadStoreAndWait_wrs :
    (∃ (s : State) (r : Rsv), s.watches = [] ∧ s.me.rsv = some r ∧ HoldsAlone s (r.key / 8) ∧ watchCheck s r.addr true false = .ok ()) ∧
      (∃ (s : State) (w : Watch) (v : Word), s.watches = [w] ∧ w.core = s.L ∧ w.fibre = s.fibre ∧ w.shadow = s.onShadow ∧
        w.target = none ∧ w.done = some v) ∧
      (∃ (s : State) (r : Rsv) (l : Loc), s.watches = [] ∧ s.me.rsv = none ∧ s.me.lost = true ∧ s.me.last = some r ∧
        okIs (resolve s (s.party s.L) r.addr .read) l = true ∧ s.poisoned l.key r.size = false ∧ PortFree s ∧
        watchCheck s r.addr true false = .ok ()) ∧
      ∃ s : State, s.watches = [] ∧ s.me.rsv = none ∧ s.me.lost = false := by
  refine ⟨⟨reserved false, { addr := 0x1100, key := 0x20100, word := false }, ?_, ?_, ⟨?_, ?_, heldGrant, ?_⟩, ?_⟩,
    ⟨{ base with watches := [writtenWatch] }, writtenWatch, 5, ?_⟩,
    ⟨lostRsv, { addr := 0x1100, key := 0x20100, word := false }, atMem, ?_⟩, ⟨base, ?_⟩⟩ <;>
    (try simp only [ok_iff, portFree_iff]) <;> decide +kernel

theorem witness_PlainStepsAndFibreControl :
    base.worker = true ∧ (urgent base).worker = false ∧ ((urgent base).slot = 0 ∧ (urgent base).onShadow = false) ∧
      ¬(base.slot = 0 ∧ base.onShadow = false) ∧
      (let s := regs base [(1, 1), (2, 0x10000000001)]
       ¬s.now + 2 ^ 40 < (s.getG 1).toNat ∧ s.now < (s.getG 1).toNat ∧ ¬s.now < (s.getG 0).toNat ∧
         s.now + 2 ^ 40 < (s.getG 2).toNat) := by
  decide +kernel

theorem witness_FibresStartAndEnd :
    (∃ (s : State) (o : OpDST),
      let e := s.getG o.s
      e.extractLsb' 58 6 = 0 ∧ e.getLsbD 0 = false ∧ s.here.fibres.length < fibreLimit s s.L ∧ s.here.rqUse < 256 ∧
        s.here.hasFib s.fibre = true ∧ s.here.fibres.length < 4094) ∧
      ∃ s : State, s.worker = true ∧ s.me.task = none ∧ s.me.rsv = none ∧ s.grants = [] :=
  ⟨⟨ptrs, { d := 0, s := 1, t := 4 }, by decide +kernel⟩, ⟨base, by decide +kernel⟩⟩

/-- A value of some result. -/
def hasOk {ε α : Type} (r : Except ε α) : Bool :=
  match r with
  | .ok _ => true
  | .error _ => false

theorem ok_of {ε α : Type} {r : Except ε α} (h : hasOk r = true) : ∃ x, r = .ok x := by
  cases r with
  | ok x => exact ⟨x, rfl⟩
  | error e => cases h

/-- Fibre 2 belongs to the task of the record at 0x1500. -/
def tasked : State :=
  core0 (fib2 (regs base [(1, 0x1400)]) fun f => { f with task := some 0x1500 }) fun c =>
    { c with tasks := [{ recAddr := 0x1500, launch := none, prio := 0, phase := .started, fibre := some 2 }] }

/-- A record of zeros. -/
def zeroRec : TRec := ⟨List.replicate 128 0⟩

/-- The entry of fibre 2's task. -/
def task0 : Task := { recAddr := 0x1500, launch := none, prio := 0, phase := .started, fibre := some 2 }

/-- The urgent fibre with a deque entry. -/
def dequed : State :=
  core0 (urgent base) fun c => { c with deques := c.deques.set 0 [{ recAddr := 0x1400, prio := 0 }], dqHw := c.dqHw.set 0 1 }

theorem witness_TasksArePushedPoppedAndRetired :
    base.slot ≠ 0 ∧ (popChoice (urgent base).here (((urgent base).getG 0).toNat % 4) = none ∧ (urgent base).slot = 0) ∧ base.me.task = none := by
  decide +kernel

theorem witness_TheTimerCountsAndExpires :
    (∃ (s : State) (o : OpDS),
      let x := s.getG o.s
      s.slot = 0 ∧ x.extractLsb' 48 15 = 0 ∧ (x.msb = true → 64 ≤ x.toNat % 2 ^ 48) ∧ x.msb = true) ∧
      (∃ (s : State) (o : OpDS),
        let x := s.getG o.s
        s.slot = 0 ∧ x.extractLsb' 48 15 = 0 ∧ (x.msb = true → 64 ≤ x.toNat % 2 ^ 48) ∧ x.toNat % 2 ^ 48 = 0) ∧
      ∃ (s : State) (L : Fin 6144), s.ev = .timerExpiry L ∧ (s.core L).tmDeadline ≠ 0 ∧
        (s.core L).tmDeadline.toNat ≤ s.cycleOf L := by
  refine ⟨⟨core0 (urgent base) fun c => { c with s := c.s.set 0 0x8000000000000040 }, { d := 0, s := 8 }, by decide +kernel⟩,
    ⟨urgent base, { d := 0, s := 0 }, by decide +kernel⟩,
    ⟨event ((core0 base fun c => { c with tmDeadline := 5 }).modDie 0 fun d => { d with cycle := 5 }) (.timerExpiry 0), 0, by decide +kernel⟩⟩

/-- SR numbers of BLK, REG and IDX 0. -/
def srNum (blk reg : Nat) : Word := BitVec.ofNat 64 (blk * 2 ^ 16 + reg)

/-- A worker reads a register of its core and one of the module's, and one whose read clears it; it writes one of its own. -/
theorem witness_SystemRegistersAreReadAndWritten_srr :
    (∃ (s : State) (o : OpDS),
      let n := s.getG o.s
      srCheck n = .ok () ∧ (isTrapReg n = true → s.slot = 0) ∧ (srBlk n = 0 ∧ srReg n = 46 → s.onShadow = true) ∧ srBlk n < 2 ∧
        clearsOnRead (srBlk n) (srReg n) = false) ∧
      (∃ (s : State) (o : OpDS),
        let n := s.getG o.s
        srCheck n = .ok () ∧ (isTrapReg n = true → s.slot = 0) ∧ (srBlk n = 0 ∧ srReg n = 46 → s.onShadow = true) ∧ srBlk n < 2 ∧
          clearsOnRead (srBlk n) (srReg n) = true) ∧
      ∀ b ∈ [(3, 0), (4, 26), (6, 1), (8, 4)], ∃ (s : State) (o : OpDS),
        let n := s.getG o.s
        srCheck n = .ok () ∧ (isTrapReg n = true → s.slot = 0) ∧ (srBlk n = 0 ∧ srReg n = 46 → s.onShadow = true) ∧ ¬srBlk n < 2 ∧
          clearsOnRead (srBlk n) (srReg n) = true ∧ (srBlk n, srReg n) = b := by
  refine ⟨⟨base, { d := 0, s := 0 }, ?_⟩, ⟨regs base [(1, srNum 0 41)], { d := 0, s := 1 }, ?_⟩,
    fun b hb => ⟨regs base [(1, srNum b.1 b.2)], { d := 0, s := 1 }, ?_⟩⟩
  · simp only [ok_iff]; decide +kernel
  · simp only [ok_iff]; decide +kernel
  · revert b
    simp only [ok_iff]; decide +kernel

theorem witness_SystemRegistersAreReadAndWritten_srw :
    (∃ (s : State) (o : OpDS),
      let n := s.getG o.s
      let reg := srReg n
      srCheck n = .ok () ∧ srBlk n = 0 ∧ (urgentReg n = true → s.slot = 0) ∧
        (reg = 30 ∨ reg = 31 → (s.cluster (clusterOf s.L)).dbgOwn = false) ∧ (reg = 44 ∨ reg = 45 → s.me.task = none) ∧
        (reg = 5 → treeBusy s s.L = false) ∧
        (reg = 15 ∨ reg = 16 ∨ reg = 17 → tableUsed s.here false = false ∧ tableUsed s.here true = false) ∧ reg ≠ 20 ∧
        (plainBits reg).isSome = true) ∧
      (∃ (s : State) (o : OpDS), srCheck (s.getG o.s) = trapA 0x020 0) ∧
      (∃ (s : State) (o : OpDS), srCheck (s.getG o.s) = .ok () ∧ srBlk (s.getG o.s) ≠ 0) ∧
      ∃ (s : State) (o : OpDS), srCheck (s.getG o.s) = .ok () ∧ srBlk (s.getG o.s) = 0 ∧ urgentReg (s.getG o.s) = true ∧ s.slot ≠ 0 := by
  refine ⟨⟨core0 (urgent base) fun c => { c with s := c.s.set 0 (srNum 0 7) }, { d := 0, s := 8 }, ?_⟩, ⟨regs base [(1, 0xFFFFFFFFFFFFFFFF)], { d := 0, s := 1 }, ?_⟩,
    ⟨regs base [(1, srNum 1 0)], { d := 0, s := 1 }, ?_⟩, ⟨regs base [(1, 0x0C)], { d := 0, s := 1 }, ?_⟩⟩
  · simp only [ok_iff]; decide +kernel
  · have h : (regs base [(1, 0xFFFFFFFFFFFFFFFF)]).getG 1 = 0xFFFFFFFFFFFFFFFF := by decide +kernel
    rw [h]; rfl
  · simp only [ok_iff]; decide +kernel
  · simp only [ok_iff]; decide +kernel

theorem witness_TrapsAreTakenAndReturnedFrom :
    ((urgent base).slot = 0 ∧ (urgent base).onShadow = false) ∧ ¬(base.slot = 0 ∧ base.onShadow = false) ∧
      base.onShadow = false ∧ ¬(base.ctx base.myCtx).hcfg = true ∧
      (∃ s : State, (s.ctx s.myCtx).hcfg = true ∧ PortFree s) ∧
      (∃ s : State, (s.ctx s.myCtx).hcfg = true ∧ ∃ w, writeGo s noGran true = .error (.wait w)) ∧
      ∃ (s : State) (f : Nat), s.onShadow = true ∧ s.here.handler = some f ∧ s.here.matchQ = [] ∧
        (s.here.fib f).status = .matched := by
  refine (both4 (by decide +kernel) ⟨⟨base.modCtx 0 fun x => { x with hcfg := true }, ?_⟩,
    ⟨ported.modCtx 0 fun x => { x with hcfg := true }, by decide +kernel, waits_of (by decide +kernel)⟩,
    ⟨core0 (fib2 (urgent base) fun f => { f with status := .matched }) fun c => { c with handler := some 2 }, 2, by decide +kernel⟩⟩)
  simp only [portFree_iff]; decide +kernel

theorem witness_CountersAndMessagesGoOut_waitge :
    (∃ (s : State) (o : OpM2) (l : Loc),
      let va : VAddr := (s.getG o.s).extractLsb' 0 56
      let v : BitVec 32 := BitVec.ofNat 32 (leNat (s.view s.L l.key 4))
      Reaches s va 4 .read l ∧ s.poisoned l.key 4 = false ∧ watchCheck s va true false = .ok () ∧ PortFree s ∧
        (∀ w ∈ s.watches, w.armed s.L s.fibre s.onShadow true = false) ∧ 0 ≤ (v - (s.getG o.d).setWidth 32).toInt) ∧
      (∃ (s : State) (o : OpM2) (l : Loc),
        let va : VAddr := (s.getG o.s).extractLsb' 0 56
        let v : BitVec 32 := BitVec.ofNat 32 (leNat (s.view s.L l.key 4))
        Reaches s va 4 .read l ∧ s.poisoned l.key 4 = false ∧ watchCheck s va true false = .ok () ∧ PortFree s ∧
          (∀ w ∈ s.watches, w.armed s.L s.fibre s.onShadow true = false) ∧ ¬0 ≤ (v - (s.getG o.d).setWidth 32).toInt) ∧
      ∃ (s : State) (o : OpM2) (l : Loc) (w : Watch),
        let va : VAddr := (s.getG o.s).extractLsb' 0 56
        Reaches s va 4 .read l ∧ s.poisoned l.key 4 = false ∧ watchCheck s va true false = .ok () ∧ PortFree s ∧ s.watches = [w] ∧
          w.armed s.L s.fibre s.onShadow true = true ∧ w.key = l.key ∧ w.target = some ((s.getG o.d).setWidth 32) ∧ w.done = some 5 ∧
          s.worker = false := by
  refine ⟨⟨ptrs, { d := 0, s := 1 }, atMem, ?_⟩, ⟨ptrs, { d := 4, s := 1 }, atMem, ?_⟩,
    ⟨{ core0 (urgent base) fun c => { c with s := (c.s.set 0 0x1100).set 1 5 } with
        watches := [{ core := 0, fibre := 0, key := 0x20100, size := 4, target := some 5, done := some 5 }] }, { d := 9, s := 8 }, atMem,
      { core := 0, fibre := 0, key := 0x20100, size := 4, target := some 5, done := some 5 }, ?_⟩⟩ <;>
    (try simp only [reaches_iff, ok_iff, portFree_iff]) <;> decide +kernel

theorem witness_CountersAndMessagesGoOut :
    (∃ (s : State) (o : OpM2),
        let x := s.getG o.s
        Names s (x.extractLsb' 0 32) ∧ x.extractLsb' 50 14 = 0 ∧ x.toNat / 2 ^ 32 % 4 = 0 ∧ PortFree s) ∧
      (∃ (s : State) (o : OpM3),
        let x := s.getG o.s
        let n := x.toNat / 2 ^ 32 % 16
        Names s (x.extractLsb' 0 32) ∧ x.extractLsb' 36 28 = 0 ∧ 1 ≤ n ∧ n ≤ 8 ∧ regGroup o.t.val n = true ∧ PortFree s ∧ n = 1) ∧
      ∃ (s : State) (o : OpM3),
        let x := s.getG o.s
        let n := x.toNat / 2 ^ 32 % 16
        Names s (x.extractLsb' 0 32) ∧ x.extractLsb' 36 28 = 0 ∧ 1 ≤ n ∧ n ≤ 8 ∧ regGroup o.t.val n = true ∧ PortFree s ∧ n = 8 := by
  refine ⟨⟨regs base [(1, 0x4000000008)], { d := 0, s := 1 }, ?_⟩, ⟨regs base [(1, 0x100000008)], { d := 0, s := 1, t := 7 }, ?_⟩,
    ⟨regs base [(1, 0x800000008)], { d := 0, s := 1, t := 8 }, ?_⟩⟩ <;>
    (try simp only [Names, ok_iff, portFree_iff]) <;> decide +kernel

theorem witness_InboxTagsAndMailboxes :
    (∃ (s : State) (o : OpM2), s.here.inEn = true ∧ (o.d.val = 0 ∨ (8 ≤ o.d.val ∧ o.d.val ≤ 32)) ∧
      (o.s.val < o.d.val ∨ o.d.val + 7 < o.s.val) ∧ s.here.inHead ≠ s.here.inTail ∧ s.here.waiters .inbox = 0 ∧
      s.here.woken s.fibre s.onShadow .inbox = 0 ∧ PortFree s ∧
      watchRange s (localVa (inEntry s.here s.L s.here.inHead - tcmKey s.L 0)) 69 true false = .ok () ∧ o.d.val = 32) ∧
      (∃ (s : State) (o : OpM2), s.here.tags &&& s.getG o.s ≠ s.getG o.s) ∧
      (∃ (s : State) (o : OpM2), ¬s.here.tags &&& s.getG o.s ≠ s.getG o.s ∧ PortFree s ∧
        ∀ i, i < 64 → (s.getG o.s).getLsbD i = true → tagTraps (s.here.tagStatus i) = false) ∧
      (∃ (s : State) (o : OpMQ), mailRegs o.r = true ∧ s.slot ≠ 7 ∧ (s.here.mb.get o.q).full = false ∧
        s.here.waiters (.mailboxEmpty o.q) = 0 ∧ s.here.woken s.fibre s.onShadow (.mailboxEmpty o.q) = 0) ∧
      ∃ (s : State) (o : OpMQ), mailRegs o.r = true ∧ s.slot = 7 ∧ (s.here.mb.get o.q).full = true := by
  refine ⟨⟨core0 base fun c => { c with inbox := 1, inTail := 1 }, { d := 32, s := 0 }, ?_⟩,
    ⟨core0 ptrs fun c => { c with tags := 0 }, { d := 0, s := 5 }, by decide +kernel⟩,
    ⟨ptrs, { d := 0, s := 5 }, ?_⟩, ⟨base, { q := 3, r := 8 }, by decide +kernel⟩,
    ⟨{ core0 base fun c => { c with mb := c.mb.set 0 { full := true, fibre := 2 } } with cur := { core := 0, slot := 7, pc := 0 } },
      { q := 0, r := 0 }, by decide +kernel⟩⟩ <;> simp only [portFree_iff, ok_iff] <;> decide +kernel

/-- Barrier 0 of core 0, of rows and columns from (0, 0), with generations. -/
def barred (s : State) (L : Nat) (desc : BitVec 21) (g : Barrier → Barrier) : State :=
  s.modCore L fun c => { c with bar := c.bar.set 0 (g { desc }) }

/-- A rectangle of 1 × 1 and of 2 × 2 cores at (0, 0): ROW0, COL0, NROWS and NCOLS as BARINIT's operand packs them. -/
def rect11 : BitVec 21 := BitVec.ofNat 21 (1 * 2 ^ 10 + 1 * 2 ^ 15)
def rect22 : BitVec 21 := BitVec.ofNat 21 (2 * 2 ^ 10 + 2 * 2 ^ 15)

theorem witness_BarriersGatherAndRelease :
    (GoodRectangle base (BitVec.setWidth 64 rect22) ∧ (base.here.bar.get 0).ag = (base.here.bar.get 0).cg) ∧
      (base.here.bar.get 0).rows = 0 ∧ PortFree base ∧
      (let b := (barred base 0 rect22 fun b => { b with ag := 1 }).here.bar.get 0
       b.rows ≠ 0 ∧ b.ag ≠ b.cg) ∧
      (let b := (barred base 0 rect22 fun b => { b with bad := true }).here.bar.get 0
       b.rows ≠ 0 ∧ b.ag = b.cg ∧ b.bad = true ∧ PortFree (barred base 0 rect22 fun b => { b with bad := true })) ∧
      (let b := (barred base 0 rect22 id).here.bar.get 0
       b.rows ≠ 0 ∧ b.ag = b.cg ∧ b.bad = false ∧ PortFree (barred base 0 rect22 id)) ∧
      (∃ (s : State) (L : Fin 6144) (q : QReg), s.ev = .barrierArrivalHop L q ∧
        ((s.core L).bar.get q).ready (rowOf L) (colOf L) = true ∧ colOf L ≠ ((s.core L).bar.get q).col0) ∧
      (∃ (s : State) (L : Fin 6144) (q : QReg), s.ev = .barrierArrivalHop L q ∧
        ((s.core L).bar.get q).ready (rowOf L) (colOf L) = true ∧ colOf L = ((s.core L).bar.get q).col0 ∧
        rowOf L ≠ ((s.core L).bar.get q).row0) ∧
      (∃ (s : State) (L : Fin 6144) (q : QReg), s.ev = .barrierArrivalHop L q ∧
        ((s.core L).bar.get q).ready (rowOf L) (colOf L) = true ∧ colOf L = ((s.core L).bar.get q).col0 ∧
        rowOf L = ((s.core L).bar.get q).row0 ∧ ((s.core L).bar.get q).east.isSome = true) ∧
      ∃ (s : State) (L : Fin 6144) (q : QReg) (m : Bool), s.ev = .barrierReleaseHop L q ∧
        ((s.core L).bar.get q).rel = some m ∧ ((s.core L).bar.get q).tookE = true ∧ ((s.core L).bar.get q).tookS = true := by
  simp only [portFree_iff]
  refine ⟨by unfold GoodRectangle; decide +kernel, both5 (by decide +kernel) ⟨
    ⟨event (barred base 1 rect22 fun b => { b with ag := 1, south := some (rect22, false) }) (.barrierArrivalHop 1 0), 1, 0, by decide +kernel⟩,
    ⟨event (barred base 48 rect22 fun b => { b with ag := 1, east := some (rect22, true) }) (.barrierArrivalHop 48 0), 48, 0, by decide +kernel⟩,
    ⟨event (barred base 0 rect22 fun b => { b with ag := 1, east := some (rect22, false), south := some (rect22, false) })
      (.barrierArrivalHop 0 0), 0, 0, by decide +kernel⟩,
    ⟨event (barred base 0 rect22 fun b => { b with ag := 1, tookE := true, tookS := true, rel := some false }) (.barrierReleaseHop 0 0), 0, 0, false,
      by decide +kernel⟩⟩⟩

/-- Core 0 is a member of the tree. -/
def joined (s : State) (g : Core → Core) : State := core0 s fun c => g { c with treeJoin := true }

theorem witness_LinesAreLockedAndTheTreeIsFed :
    (∃ (s : State) (o : OpM2) (l : Loc),
      let va : VAddr := (s.getG o.s).extractLsb' 0 56
      va.toNat / 2 ^ 48 < 0xFD ∧ resolve s (s.party s.L) va .read = .ok l ∧ l.home = .mapped false ∧
        lockOutcome s s.L l.key = (0, some 0)) ∧
      (∃ (s : State) (o : OpM2) (l : Loc),
        let va : VAddr := (s.getG o.s).extractLsb' 0 56
        va.toNat / 2 ^ 48 < 0xFD ∧ resolve s (s.party s.L) va .read = .ok l ∧ l.home = .mapped false ∧
          lockOutcome s s.L l.key = (0, none)) ∧
      (∃ (s : State) (o : OpM2) (l : Loc),
        let va : VAddr := (s.getG o.s).extractLsb' 0 56
        va.toNat / 2 ^ 48 < 0xFD ∧ resolve s (s.party s.L) va .read = .ok l ∧ l.home = .mapped false ∧
          lockOutcome s s.L l.key = (2, none)) ∧
      0xFD ≤ ((ptrs.getG 2).extractLsb' 0 56).toNat / 2 ^ 48 ∧
      (∃ (s : State) (o : OpM1) (l : Loc),
        let va : VAddr := (s.getG o.r).extractLsb' 0 56
        ¬0xFD ≤ va.toNat / 2 ^ 48 ∧ resolve s (s.party s.L) va .read = .ok l) ∧
      treeReserved 0x8000000000000000 = true ∧ (treeReserved 0 = false ∧ base.here.treeJoin = false) ∧
      (let s := joined base id
       s.here.treeJoin = true ∧ s.here.treeIn = [] ∧ canEnter s s.myCtx s.L = true) ∧
      (let s := joined base fun c => { c with treeIn := [0, 0, 0] }
       s.here.treeJoin = true ∧ s.here.treeIn ≠ [] ∧ s.here.treeIn.length < 4) ∧
      (let s := joined base fun c => { c with treeIn := [0, 0, 0, 0] }
       s.here.treeJoin = true ∧ ¬s.here.treeIn.length < 4) ∧
      PortFree base ∧ (∀ n ≤ 4, PortFree (joined base fun c => { c with treeIn := List.replicate n 0 })) ∧
      base.here.treeOut = [] ∧ PortFree (joined base fun c => { c with treeOut := [{ word := 5 }] }) ∧ (joined base fun c => { c with treeOut := [{ word := 5 }] }).here.treeOut = [{ word := 5 }] ∧
      restarts 0x0EB = false := by
  refine ⟨⟨ptrs, { d := 0, s := 1 }, atMem, ?_⟩, ⟨core0 ptrs fun c => { c with locks := [0x804] }, { d := 0, s := 1 }, atMem, ?_⟩,
    ⟨core0 ptrs fun c => { c with split := 8 }, { d := 0, s := 1 }, atMem, ?_⟩, by decide +kernel, ⟨ptrs, { r := 1 }, atMem, ?_⟩,
    both5 (by decide +kernel) ⟨?_, ?_, by decide +kernel, ?_,
    by decide +kernel, by decide +kernel⟩⟩ <;> simp only [ok_iff, portFree_iff] <;> decide +kernel

/-- A ring of two slots of 64 bytes at TCM offset 0 of core 0, with its slot states at 0x40 and its slots in mapped memory at
0x1400: core 0 produces, and fibre 2's h0 is bound to it (R194). -/
def ringed (head tail : Nat) (cnt : List (Nat × Nat)) : State :=
  let s := fib2 (regs base [(1, 1), (2, 2), (3, 3)]) fun f => { f with h := f.h.set 0 (some 0) }
  let s := s.wr (tcmKey 0 0) (leBytes 8 0x1400 ++ leBytes 4 head ++ leBytes 4 tail ++ leBytes 2 1 ++ [0x11, 0, 0, 0] ++ leBytes 2 2)
  cnt.foldl (fun s x => s.wrN (tcmKey 0 (0x40 + 32 * x.1)) 3 x.2) s

/-- The ring of the machine above. -/
def ring0 : Ring := ⟨0, 0⟩

theorem bound_iff (s : State) (h : HReg) (r : Ring) :
    Bound s h r ↔ okIs (ringOf s s.L s.fibre h) r = true ∧ ringValid s r = true := by
  rw [← ok_iff]; rfl

theorem witness_RingsAreBoundAwaitedAndRead :
    (let s := ringed 0 0 []
     (s.getG 0).toNat % 64 = 0 ∧ (s.getG 0).toNat < 2 ^ 18 ∧ ringValid s ⟨s.L, (s.getG 0).toNat⟩ = true) ∧
      ¬((ringed 0 0 []).getG 1).toNat % 64 = 0 ∧
      (base.me.h.get 0 = none ∧ base.me.h.get 15 = none) ∧
      (let s := ringed 0 0 []
       Bound s 0 ring0 ∧ holdsRing s ring0 = false ∧ (s.here.vecPaused ++ s.here.matPaused).length = 0 ∧
         HomesFree s ∧ PortFree s ∧ ringSlots s ring0 = 2 ∧ ringFilled s ring0 < 1 ∧ prodIndex s ring0 s.myId = some 0 ∧ ¬freeSlots s ring0 0 < 2) ∧
      (let s := ringed 0xFFFFFFFF 0 [(1, 64)]
       Bound s 0 ring0 ∧ HomesFree s ∧ ringFilled s ring0 = 1 ∧ freeSlots s ring0 0 < 2) := by
  simp only [bound_iff, homesFree_iff, portFree_iff]; decide +kernel

theorem witness_RingsAreAdvanced :
    (∃ (s : State) (o : OpHG) (r : Ring), Bound s o.h r ∧ s.Inv ∧ HomesFree s ∧ 1 ≤ (s.getG o.s).toNat ∧ (s.getG o.s).toNat ≤ ringSlots s r ∧
      ringFilled s r < (s.getG o.s).toNat) ∧
      (∃ (s : State) (o : OpHG) (r : Ring), Bound s o.h r ∧ s.Inv ∧ HomesFree s ∧ 1 ≤ (s.getG o.s).toNat ∧ (s.getG o.s).toNat ≤ ringSlots s r ∧
        ¬ringFilled s r < (s.getG o.s).toNat) ∧
      (∃ (s : State) (o : OpHG) (r : Ring) (n : Nat), Bound s o.h r ∧ s.Inv ∧ HomesFree s ∧ prodIndex s r s.myId = some n ∧ s.me.task = none ∧
        1 ≤ (s.getG o.s).toNat ∧ (s.getG o.s).toNat ≤ ringSlots s r ∧
        (∀ j, cursor s r n < j → j < ringSlots s r → slotCnt s r (ringHead s r + j) n = 0) ∧
        freeSlots s r n < (s.getG o.s).toNat) ∧
      (∃ (s : State) (o : OpHG) (r : Ring) (n : Nat), Bound s o.h r ∧ s.Inv ∧ HomesFree s ∧ prodIndex s r s.myId = some n ∧ s.me.task = none ∧
        1 ≤ (s.getG o.s).toNat ∧ (s.getG o.s).toNat ≤ ringSlots s r ∧
        (∀ j, cursor s r n < j → j < ringSlots s r → slotCnt s r (ringHead s r + j) n = 0) ∧
        ¬freeSlots s r n < (s.getG o.s).toNat) ∧
      (let x : Word := 0x8000000000008
       x.extractLsb' 50 14 ≠ 0 ∨ (x.extractLsb' 32 18).toNat % 64 ≠ 0) ∧
      (let x : Word := 0x4000000007
       ¬(x.extractLsb' 50 14 ≠ 0 ∨ (x.extractLsb' 32 18).toNat % 64 ≠ 0) ∧
         idCore (x.extractLsb' 0 32) = idCore (base.coreId base.L base.slot)) ∧
      ∃ (s : State) (o : OpAdvtR),
        let x := s.getG o.t
        ¬(x.extractLsb' 50 14 ≠ 0 ∨ (x.extractLsb' 32 18).toNat % 64 ≠ 0) ∧
          idCore (x.extractLsb' 0 32) ≠ idCore (s.coreId s.L s.slot) ∧ Names s (x.extractLsb' 0 32) ∧ PortFree s := by
  have far (s : State) (n m : Nat) (P : Nat → Prop) (hm : m ≤ 2) (h : n = 1 ∨ (n = 0 ∧ P 1)) : ∀ j, n < j → j < m → P j := by
    rintro j h1 h2
    rcases h with h | ⟨h, p⟩
    · omega
    · have : j = 1 := by omega
      exact this ▸ p
  refine ⟨⟨ringed 0 0 [], { h := 0, s := 2 }, ring0, ?_⟩, ⟨ringed 0xFFFFFFFF 0 [(1, 64)], { h := 0, s := 1 }, ring0, ?_⟩,
    ⟨ringed 0xFFFFFFFF 0 [(1, 64)], { h := 0, s := 2 }, ring0, 0, ?_, ?_, ?_, ?_, ?_, ?_, ?_, ?_, ?_⟩,
    ⟨ringed 0 0 [], { h := 0, s := 2 }, ring0, 0, ?_, ?_, ?_, ?_, ?_, ?_, ?_, ?_, ?_⟩,
    by decide +kernel, by decide +kernel, ⟨regs base [(1, 0x4000000008)], { s := 0, t := 1 }, ?_⟩⟩
  case refine_10 =>
    exact far (ringed 0xFFFFFFFF 0 [(1, 64)]) _ _ _ (by decide +kernel) (by decide +kernel)
  case refine_19 =>
    exact far (ringed 0 0 []) _ _ _ (by decide +kernel) (by decide +kernel)
  all_goals first
    | (simp only [bound_iff, inv_iff, homesFree_iff, portFree_iff]; decide +kernel)
    | (simp only [Names, ok_iff, portFree_iff]; decide +kernel)
    | decide +kernel

/-- The schedule book of die 0 in a state, for context 0. -/
def booked (st : BookState) (ckhold : Bool) (ctx : BitVec 6) : State :=
  base.modDie 0 fun d => { d with book := { d.book with state := st, ckhold, ctx } }

/-- A book task's data. -/
def bookTask0 : BookTask := { die := 0, entry := 3, kind := 1, sop := 0, slot := 2, stage := 4, mb := 5, step := 6 }

theorem witness_BookInstructionsReadAndCommand :
    base.bookTask = none ∧
      (∃ (s : State) (b : BookTask), s.bookTask = some b) ∧
      (base.L < 6144 ∧ (base.die 0).book.state = .empty) ∧
      ((booked .ready false 1).L < 6144 ∧ ((booked .ready false 1).die 0).book.state ≠ .empty ∧
        ((booked .ready false 1).die 0).book.ctx.toNat ≠ (booked .ready false 1).myCtx) ∧
      ((booked .held true 0).L < 6144 ∧ ((booked .held true 0).die 0).book.state ≠ .empty ∧
        ((booked .held true 0).die 0).book.ctx.toNat = (booked .held true 0).myCtx) := by
  refine ⟨by decide +kernel, ⟨core0 tasked fun c => { c with tasks := c.tasks.map fun t => { t with book := some bookTask0 } }, bookTask0,
    by decide +kernel⟩, by decide +kernel⟩

/-! ### Vector and matrix forms

Three rings of one slot each, at TCM offsets 0, 0x40 and 0x80 of core 0, with slot states from 0x100 and slots in TCM from 0x400: h0
and h1 are filled, h2 is free. -/

/-- A descriptor of the rings above (R194). -/
def slotRing (i filled n : Nat) : List Byte :=
  leBytes 8 (0xFF000000000400 + 0x100 * i) ++ leBytes 4 0 ++ leBytes 4 filled ++ leBytes 2 n ++ [0x10, 0, 0, 0] ++ leBytes 2 (8 + i)

/-- The three rings, of `n` lines a slot and `m` in the third, with the format registers f0 and f1, the registers c0 and c1, and the data of the first two slots. -/
def vecs (n m : Nat) (f0 f1 c0 c1 : Word) (x y : List Byte) : State :=
  let s := fib2 (regs base [(1, 0x1100), (2, 64)]) fun f =>
    { f with h := ((f.h.set 0 (some 0)).set 1 (some 1)).set 2 (some 2), f := #v[f0, f1, 0, 0], c := #v[c0, c1, 0, 0] }
  let s := ((s.wr (tcmKey 0 0) (slotRing 0 1 n)).wr (tcmKey 0 0x40) (slotRing 1 1 n)).wr (tcmKey 0 0x80) (slotRing 2 0 m)
  let s := (s.wrN (tcmKey 0 0x100) 3 (64 * n)).wrN (tcmKey 0 0x120) 3 (64 * n)
  (s.wr (tcmKey 0 0x400) x).wr (tcmKey 0 0x500) y

/-- FP32 data: 1.0, 2.0 and −4.0 first; 2.0, 2.0 and 0.5 first. -/
def floats : State :=
  vecs 1 1 0 0 0 0 (leBytes 4 0x3F800000 ++ leBytes 4 0x40000000 ++ leBytes 4 0xC0800000)
    (leBytes 4 0x40000000 ++ leBytes 4 0x40000000 ++ leBytes 4 0x3F000000)

/-- INT32 data: 3, −1 and the largest first; 5, 1 and 1 first. -/
def ints (sat : Word) : State :=
  vecs 1 1 (9 ||| sat) 9 0 0 (leBytes 4 3 ++ leBytes 4 0xFFFFFFFF ++ leBytes 4 0x7FFFFFFF) (leBytes 4 5 ++ leBytes 4 1 ++ leBytes 4 1)

/-- The instruction runs in the vector engine, and the operation it started with. -/
def started (s : State) (i : Instr) : Option EngineOp :=
  match exec i s with
  | .next t => if s.plane.status t = .waiting .running then (t.core 0).vec else none
  | _ => none

/-- A 32-bit word that an operation will store. -/
def stored (op : Option EngineOp) (i : Nat) : Option Nat :=
  op.map fun o => leNat (((o.puts.flatMap (·.bytes)).drop (4 * i)).take 4)

/-- Elements of forms on the data above, computed by hand (R391–R394). -/
theorem test_vector_elements :
    stored (started floats (.vadd { d := 2, s := 0, t := some 1 })) 2 = some 0xC0600000 ∧
      stored (started floats (.vsub { d := 2, s := 0, t := some 1 })) 0 = some 0xBF800000 ∧
      stored (started floats (.vmul { d := 0, s := 1 })) 2 = some 0xC0000000 ∧
      stored (started floats (.vcmplt { d := 2, s := 0, t := some 1 })) 0 = some 0xFFFFFFFF ∧
      stored (started floats (.vrcp { d := 2, t := some 0 })) 2 = some 0xBE800000 ∧
      stored (started (ints 0) (.viadd { d := 2, s := 0, t := some 1 })) 2 = some 0x80000000 ∧
      stored (started (ints 0x800) (.viadd { d := 2, s := 0, t := some 1 })) 2 = some 0x7FFFFFFF ∧
      stored (started (ints 0) (.vishl { d := 2, s := 0, t := some 1 })) 0 = some 96 := by
  decide +kernel

/-- Conversions, a reduction and a permutation, by hand (R395–R399): 1 and 2 in BF16, and 1, 2, −4 in E2M1 under the scale 2^0. -/
theorem test_vector_conversions :
    stored (started (vecs 1 1 0 1 0 0 (leBytes 4 0x3F800000 ++ leBytes 4 0x40000000) []) (.vcvt { d := 2, s := 0 })) 0 = some 0x40003F80 ∧
      stored (started (vecs 1 1 2 6 0 0 (leBytes 2 0x3C00 ++ leBytes 2 0x4000 ++ leBytes 2 0xC400) []) (.vquant { d := 2, s := 0 })) 0
        = some 0xE42 ∧
      stored (started floats (.vrsum { d := 2, s := 0 })) 0 = some 0xBF800000 ∧
      stored (started (vecs 1 1 0 9 0 0 (leBytes 4 7 ++ leBytes 4 8) (leBytes 4 1)) (.vperm { d := 2, s := 0, t := some 1 })) 0 = some 8 := by
  decide +kernel

/-- The checks of a form pass, and what the computation sees. -/
def planned (s : State) (m : AMod) (F : VForm) (scale : Option Bool) (cls : Fmt → Fmt → Option Cause) (step8 : VIn → Chk Unit)
    (len : VIn → Nat) (P : VPlan → Bool) : Bool :=
  match vplan s m F scale cls step8 len with
  | .ok p => P p
  | .error _ => false

/-- A check that fails ends in this trap or wait. -/
def stops {α : Type} (r : Chk α) (x : Stop) : Bool :=
  match r with
  | .ok _ => false
  | .error e => decide (e = x)

/-- The slots of a ring of floats with poison in the first. -/
def poisoned : State := floats.wrN (tcmKey 0 0x118) 1 1

/-- The operands of the forms, on the rings above. -/
def opIn : OpV2 := { d := 0, s := 1 }
def opOut : OpV2 := { d := 2, s := 0, t := some 1 }
def op3 : OpV3 := { d := 0, s := 1, t := 1 }
def op1 : OpV1 := { d := 2, s := 0 }
def opF : OpVF := { d := 2, t := some 0 }

/-- The forms of R391–R394 and R402 on data that passes their checks, in place and produced, without and with poison; an unbound
handle; a busy engine. -/
theorem witness_VectorFloatFormsRoundOnce :
    planned floats opOut.m (opOut.form false) none (clsIs Fmt.isFloat) sameCount len1 (!·.poisoned) = true ∧
      planned floats opIn.m (opIn.form false) none (clsIs isFloatInt) sameCount len1 (!·.poisoned) = true ∧
      planned poisoned opOut.m (opOut.form false) none (clsIs Fmt.isFloat) sameCount len1 (·.poisoned) = true ∧
      planned floats op1.m (op1.form false) none (clsIs Fmt.isFloat) sameCount len1 (!·.poisoned) = true ∧
      planned floats op3.m op3.form none (clsIs Fmt.isFloat) sameCount len1 (!·.poisoned) = true ∧
      planned floats op3.m op3.form none (clsIs isAny) sameCount len1 (!·.poisoned) = true ∧
      planned floats opF.m opF.form none only32 sameCount len1 (!·.poisoned) = true ∧
      stops (vplan base opOut.m (opOut.form false) none (clsIs Fmt.isFloat) sameCount len1) (.trap 0x071 0 2 false) = true ∧
      restarts 0x071 = false ∧
      stops (vplan (core0 floats fun c => { c with vec := some { fibre := 3, slot := 2, iss := {}, next := 0 } }) opOut.m (opOut.form false)
        none (clsIs Fmt.isFloat) sameCount len1) (.wait (.engine false [0x80, 0, 0x40])) = true := by
  decide +kernel

theorem witness_VectorIntegerFormsWrapOrClamp :
    planned (ints 0) opOut.m (opOut.form false) none (clsIs Fmt.isInt) sameCount len1 (fun p => !p.poisoned && !p.v.d1.sat) = true ∧
      planned (ints 0x800) opIn.m (opIn.form false) none (clsIs Fmt.isInt) sameCount len1 (fun p => !p.poisoned && p.v.d1.sat) = true ∧
      planned (ints 0) opOut.m (opOut.form false) none (clsIs isAny) sameCount len1 (!·.poisoned) = true ∧
      planned (ints 0) op1.m (op1.form false) none (clsIs Fmt.isInt) sameCount len1 (!·.poisoned) = true := by
  decide +kernel

/-- Gather and scatter operands: the pair a1, a2 is a base and a limit. -/
def opG : OpVG := { d := 2, s := 1, t := 0 }
def opS : OpVG := { d := 0, s := 1, t := 1 }

theorem witness_VectorConversionsReductionsAndMovesStart :
    (let s := vecs 4 4 0 0xA 0 0 [] []
     hasFmt s 0 .fp32 = true ∧ hasFmt s 1 .bsi24 = true ∧
       planned s op1.m (op1.form true) none (pairIs fun _ _ => true) (fun v => need (v.n % 64 = 0) 0x092) (fun v => v.n / 64 * 200)
         (!·.poisoned) = true) ∧
      (let s := vecs 4 4 0xA 0 0 0 (List.replicate 194 0 ++ [24]) []
       hasFmt s 0 .bsi24 = true ∧ hasFmt s 1 .fp32 = true ∧
         planned s op1.m (op1.form true) none (pairIs fun _ _ => true) sameCount (fun v => 4 * v.n)
           (fun p => !p.poisoned && (chunks 200 (p.v.n / 64) ((p.v.x 0).map (BitVec.ofNat 8))).all fun b => (bsiDecode b).isSome) = true) ∧
      planned (vecs 1 1 0 1 0 0 [] []) op1.m (op1.form true) none (pairIs fun f g => floatNarrow f && floatNarrow g) sameCount len2
        (!·.poisoned) = true ∧
      planned (vecs 1 1 0 9 0 0 [] []) op1.m (op1.form true) none (pairIs fun f g => f.isFloat && g.isInt) sameCount len2 (!·.poisoned) = true ∧
      planned (vecs 1 1 9 0 0 0 [] []) op1.m (op1.form true) none (pairIs fun f g => f.isInt && g.isFloat) sameCount len2 (!·.poisoned) = true ∧
      (let s := vecs 1 1 2 6 0 0x1180 [] []
       planned s op1.m (op1.form true) (some true) (pairIs fun f g => f.isFloat && g.isNarrow) quantCount len2
         (fun p => !p.poisoned && hasOk (quantized s op1 p.v)) = true) ∧
      (let s := vecs 1 1 2 6 0 0 [] []
       s.me.c.getD ((op1.m.fsel.val + 1) % 4) 0 = 0 ∧
         planned s op1.m (op1.form true) (some true) (pairIs fun f g => f.isFloat && g.isNarrow) quantCount len2
           (fun p => !p.poisoned && (p.v.x 0).length == p.v.n) = true) ∧
      (let s := vecs 1 4 4 2 0 0 [] []
       s.me.c.getD op1.m.fsel.val 0 = 0 ∧
         planned s op1.m (op1.form true) (some false) (pairIs fun f g => f.isNarrow && g.isFloat) sameCount len2 (!·.poisoned) = true) ∧
      (let s := vecs 1 4 4 2 0x1180 0 [] []
       planned s op1.m (op1.form true) (some false) (pairIs fun f g => f.isNarrow && g.isFloat) sameCount len2
         (fun p => !p.poisoned && hasOk (dequantized s op1 p.v)) = true) ∧
      planned floats op1.m (op1.form false) none (clsIs isFloatInt) sameCount (fun v => elemBytes v.d1.fmt 1) (!·.poisoned) = true ∧
      planned floats opOut.m (scanForm opOut) none (clsIs isFloatInt) (fun _ => .ok ()) len1 (!·.poisoned) = true := by
  decide +kernel

theorem witness_VectorMovesStart :
    planned (vecs 1 1 0 9 0 0 [] []) opOut.m (opOut.form true) none (indexed isAny) permCount len1
        (fun p => !p.poisoned && ((p.v.x 1).take p.v.n).all fun x =>
          decide (0 ≤ intElt p.v.d2.fmt.bits x) && decide (intElt p.v.d2.fmt.bits x < p.v.n)) = true ∧
      (let s := vecs 1 1 0 9 0 0 [] []
       planned s opG.m (gatherForm opG) none (indexed byteWide) (fun _ => need (pairReg opG.s) 0x005) len1
         (fun p => !p.poisoned && hasOk (gathered s opG p.v)) = true) ∧
      (let s := vecs 1 1 0 9 0 0 [] []
       planned s opS.m (scatterForm opS) none (indexed byteWide) (fun v => do sameCount v; need (pairReg opS.s) 0x005) (fun _ => 0)
         (fun p => !p.poisoned && hasOk (scattered s opS p.v)) = true) ∧
      planned floats {} { d := 2, rest := [], srcs := [], out := .produced } none (clsIs isAny) (fun _ => .ok ()) (fun _ => 0)
        (!·.poisoned) = true := by
  decide +kernel

theorem error_iff {α : Type} (r : Chk α) (x : Stop) : r = .error x ↔ stops r x = true := by
  cases r <;> simp [stops]

/-- Operands in E2M1, of one block-column each; fibre 2 owns accumulator 0, whose skip stream is one bit, 1, at offset 0x800. -/
def mats : State :=
  core0 ((vecs 9 9 6 6 0 0 [] []).wr (tcmKey 0 0x800) [1]) fun c =>
    { c with acc := c.acc.set 0 { own := true, owner := 2 }, skip := c.skip.set 0 { off := 0x800, len := 1 } }

def opM : OpMma := { q := 0, ha := 0, hb := 1 }
def opR : OpMmrd := { d := 2, q := 0 }

theorem witness_MatrixFormsStart :
    (∀ skip : Bool, ∃ (s : State) (o : OpMma) (op : EngineOp), mmaOp s s.mx o skip = .ok op ∧
      Unwatched s 56) ∧
      (∃ (s : State) (o : OpMmrd) (x : EngineOp × VAddr × Nat), mmrdOp s s.mx o = .ok x ∧ Unwatched s 57) ∧
      (∃ (s : State) (o : OpMmrd), mmrdOp s s.mx o = .error (.trap 0x089 0 0 false) ∧ restarts 0x089 = false) ∧
      (∃ (s : State) (o : OpMmrd) (w : Wait), mmrdOp s s.mx o = .error (.wait w)) ∧
      (∀ skip : Bool, ∃ (s : State) (o : OpMma), mmaOp s s.mx o skip = .error (.trap 0x071 0 0 false) ∧ restarts 0x071 = false) ∧
      (∃ (s : State) (o : OpMma) (ra rb : Ring), ringOf s s.L s.fibre o.ha = .ok ra ∧ ringOf s s.L s.fibre o.hb = .ok rb ∧
        ((s.acc o.q).own = false ∨ (s.acc o.q).owner ≠ s.fibre)) ∧
      ∀ skip : Bool, ∃ (s : State) (o : OpMma) (w : Wait), mmaOp s s.mx o skip = .error (.wait w) := by
  refine ⟨fun skip => ?_, ?_, ⟨vecs 9 9 6 6 0 0 [] [], opR, ?_⟩,
    ⟨core0 mats fun c => { c with mat := some { fibre := 3, slot := 2, iss := {}, next := 0 } }, opR, waits_of (by decide +kernel)⟩,
    fun skip => ⟨base, opM, ?_⟩, ⟨floats, opM, ⟨0, 0⟩, ⟨0, 0x40⟩, ?_⟩, fun skip =>
    ⟨core0 mats fun c => { c with mat := some { fibre := 3, slot := 2, iss := {}, next := 0 } }, opM, .engine true [0, 0x40], ?_⟩⟩
  · have ⟨op, h⟩ := ok_of (r := mmaOp mats mats.mx opM skip) (by cases skip <;> decide +kernel)
    exact ⟨mats, opM, op, h, .inr (by decide +kernel)⟩
  · have ⟨op, h⟩ := ok_of (r := mmrdOp mats mats.mx opR) (by decide +kernel)
    exact ⟨mats, opR, op, h, .inr (by decide +kernel)⟩
  · simp only [error_iff]; decide +kernel
  · cases skip <;> simp only [error_iff] <;> decide +kernel
  · simp only [ok_iff]; decide +kernel
  · cases skip <;> simp only [error_iff] <;> decide +kernel

/-- Shared registers of core 0, from s0. -/
def shared (s : State) (l : List (Nat × Word)) : State :=
  core0 s fun c => { c with s := l.foldl (fun v x => v.setIfInBounds x.1 x.2) c.s }

theorem witness_AccumulatorsAreClearedAndCommanded :
    (let s := regs base [(1, 512), (2, 0xFFFFFFFFFFFFFE00), (3, 511)]
     511 < (s.getG 1).toInt ∧ ¬((s.getG 2).toInt < -512 ∨ 511 < (s.getG 2).toInt) ∧
       ¬((s.getG 3).toInt < -512 ∨ 511 < (s.getG 3).toInt) ∧ s.heldForCut s.fibre = false ∧ s.here.mat = none ∧
       ¬((s.here.acc.get 0).own = true ∧ (s.here.acc.get 0).owner ≠ s.fibre)) ∧
      (let s := core0 base fun c => { c with acc := c.acc.set 0 { own := true, owner := 3 } }
       (s.here.acc.get 0).own = true ∧ (s.here.acc.get 0).owner ≠ s.fibre ∧ s.heldForCut s.fibre = false) ∧
      (base.here.acc.get 0).own = false ∧
      (let s := regs mats [(1, 0x40008), (2, 4)]
       let k (v : Word) : Prop := v.toNat % 2 ^ 18 % 8 ≠ 0 ∨ v.toNat / 2 ^ 18 % 2 ^ 16 = 0 ∨ 2 ^ 34 ≤ v.toNat ∨
         s.here.directBytes < v.toNat % 2 ^ 18 + (v.toNat / 2 ^ 18 % 2 ^ 16 + 7) / 8
       ¬((s.here.acc.get 0).own = false ∨ (s.here.acc.get 0).owner ≠ s.fibre) ∧ ¬k (s.getG 1) ∧ k (s.getG 2) ∧
         s.heldForCut s.fibre = false ∧ s.here.mat = none) ∧
      (∃ (s : State) (o : OpGG) (i : Instr),
        let w := s.getRegs o.s.val 4
        let id : CoreId := (w.getD 0 0).extractLsb' 0 32
        regGroup o.s.val 4 = true ∧ Names s id ∧ s.localCore id ≠ some s.L ∧ mmrcInstr (w.getD 1 0) = .ok i ∧
          (w.getD 1 0).extractLsb' 38 26 = 0) ∧
      ∃ (s : State) (L : Fin 6144) (cmd : MatCmd) (rest : List MatCmd) (op : EngineOp),
        s.ev = .mmrcCommandExecute L ∧ (s.core L).matQ = cmd :: rest ∧ (s.core L).mat = none ∧ accPaused (s.core L) cmd.instr = false ∧
          remoteOp { s with cur := { core := L, slot := 7 } } cmd = .ok op := by
  refine (both4 (by decide +kernel) ⟨
    ⟨shared base [(0, 8), (1, 0x06B00890)], { d := 0, s := 8 }, .mma { q := 1, ha := 2, hb := 3 }, ?_⟩, ?_⟩)
  · simp only [Names, ok_iff]; decide +kernel
  · let cmd : MatCmd := { instr := .mma opM, key := 0, row := 0, col := 0, fibre := 2, src := 8, pc := 0, srcFibre := 2 }
    let s := event (core0 mats fun c => { c with matQ := [cmd] }) (.mmrcCommandExecute 0)
    have ⟨op, h⟩ := ok_of (r := remoteOp { s with cur := { core := 0, slot := 7 } } cmd) (by decide +kernel)
    exact ⟨s, 0, cmd, [], op, both4 (by decide +kernel) h⟩

/-- An operation of fibre 2 that stores one byte and sets a flag. -/
def smallOp : EngineOp :=
  { fibre := 2, slot := 1, iss := { core := 0, slot := 1, pc := 0x1000 }, next := 0x1002, puts := [{ key := tcmKey 0 0x700, bytes := [7] }]
    flags := 0x100, acc := some (0, { anchor := 4 }), skip := some (0, 3) }

theorem witness_EngineInstructionsFinish :
    (∀ matrix : Bool, ∃ (s u : State) (L : Fin 6144) (op : EngineOp),
      let free (c : Core) : Core := (if matrix then { c with mat := none } else { c with vec := none }).dtDrain
      s.ev = .engineInstructionComplete L matrix ∧ enginesHeld s L = false ∧ effectWaits s L op = false ∧
        (if matrix then (s.core L).mat else (s.core L).vec) = some op ∧
        engineEffect { s.modCore L free with cur := op.iss } L op = .ok u) ∧
      (∃ (s : State) (L : Fin 6144) (matrix : Bool), s.ev = .engineInstructionComplete L matrix ∧ enginesHeld s L = true) ∧
      (∃ (s : State) (L : Fin 6144) (matrix : Bool) (op : EngineOp), s.ev = .engineInstructionComplete L matrix ∧
        (if matrix then (s.core L).mat else (s.core L).vec) = some op ∧ effectWaits s L op = true) ∧
      (∀ used : Bool, ∃ (s : State) (L : Fin 6144) (t : Bool) (i : BitVec 8) (v : Word), s.ev = .coreDtabWrite L t i v ∧ s.recovery = false ∧
        tableUsed (s.core L) t = used) ∧
      (∃ (s : State) (L : Fin 6144), s.ev = .coreDtstatRst0 L ∧ s.recovery = false ∧ tableUsed (s.core L) false = false) ∧
      (∃ (s : State) (L : Fin 6144), s.ev = .coreDtstatRst1 L ∧ s.recovery = false ∧ tableUsed (s.core L) true = false) ∧
      ∃ (s : State) (L : Fin 6144) (b : Bool), s.ev = .dtabRebuildDone L b := by
  refine ⟨fun matrix => ?_, ⟨event (core0 base fun c => { c with stopped := true }) (.engineInstructionComplete 0 true), 0, true, by decide +kernel⟩,
    ⟨event { core0 base fun c => { c with mat := some smallOp } with grants := [{ gran := tcmKey 0 0x700 / 8, core := 1, fibre := 2, granted := true }] } (.engineInstructionComplete 0 true), 0, true,
      smallOp, by decide +kernel⟩,
    fun used => ⟨event (core0 base fun c => { c with vec := some { smallOp with tab0 := used } }) (.coreDtabWrite 0 false 255 0), 0, false, 255, 0,
      by cases used <;> decide +kernel⟩,
    ⟨event base (.coreDtstatRst0 6143), 6143, by decide +kernel⟩, ⟨event base (.coreDtstatRst1 0), 0, by decide +kernel⟩,
    ⟨event base (.dtabRebuildDone 0 true), 0, true, by decide +kernel⟩⟩
  let s := event (core0 base fun c => if matrix then { c with mat := some smallOp } else { c with vec := some smallOp })
    (.engineInstructionComplete 0 matrix)
  let free (c : Core) : Core := (if matrix then { c with mat := none } else { c with vec := none }).dtDrain
  have ⟨u, h⟩ := ok_of (r := engineEffect { s.modCore 0 free with cur := smallOp.iss } 0 smallOp) (by cases matrix <;> decide +kernel)
  exact ⟨s, u, 0, smallOp, by cases matrix <;> decide +kernel, by cases matrix <;> decide +kernel, by cases matrix <;> decide +kernel,
    by cases matrix <;> decide +kernel, h⟩

/-! ### Copies, stashes and collectives -/

/-- The courier of core 0 issues, with a0–a5 an operand block and a6 a tag (R414). -/
def copier (s : State) (w : List Word) (tag : Word) : State :=
  { core0 s fun c => c.modFib 1 fun f => { f with a := (w.zipIdx.foldl (fun v x => v.setIfInBounds x.2 x.1) f.a).set 6 tag } with
    cur := { core := 0, slot := 7, pc := 0x1000 } }

/-- A copy of 16 bytes from 0x1100 to 0x1200. -/
def block16 : List Word := [0x1100, 0x1200, 16, 0, 0, 0]

/-- A copy in a channel of cluster 0. -/
def copyOp0 : CopyOp := { core := 0, tag := 5, segs := [(0x1100, 16)], dst := .memory 0x1200, nbytes := 16 }

theorem witness_CopyCommandsEnterAChannel :
    (base.slot ≠ 7 ∧ regGroup 2 6 = true ∧ regGroup 34 6 = true ∧ regGroup 0 6 = true) ∧
      (let s := copier base block16 64
       s.slot = 7 ∧ 64 ≤ (s.getG 6).toNat) ∧
      (let s := core0 (copier base block16 63) fun c => { c with tags := 0 }
       s.slot = 7 ∧ (s.getG 6).toNat = 63 ∧ s.here.tags.getLsbD 63 = false) ∧
      (let s := (copier base block16 63).modCluster 0 fun k => { k with copies := List.replicate 16 copyOp0 }
       s.slot = 7 ∧ (s.getG 6).toNat = 63 ∧ s.here.tags.getLsbD 63 = true ∧ channelFree s s.L = false) ∧
      (∃ (s : State) (f : CopyForm) (o : OpM2) (op : CopyOp), s.slot = 7 ∧ (s.getG o.d).toNat = 63 ∧ s.here.tags.getLsbD 63 = true ∧
        channelFree s s.L = true ∧ PortFree s ∧ copyChecks s s.L f (s.getRegs o.s.val 6) o.m.order = .ok op ∧ acq o.m = false) ∧
      (∃ (s : State) (f : CopyForm) (o : OpM2) (op held : CopyOp), s.slot = 7 ∧ (s.getG o.d).toNat = 63 ∧ s.here.tags.getLsbD 63 = true ∧
        channelFree s s.L = true ∧ PortFree s ∧ copyChecks s s.L f (s.getRegs o.s.val 6) o.m.order = .ok op ∧ acq o.m = true ∧
        copyGrant s { op with tag := 63, task := s.here.courierTask, dead := false, pc := s.cur.pc, chan := freeChannel s s.L } = .ok held) ∧
      (∃ (s : State) (f : CopyForm) (o : OpM2), s.slot = 7 ∧ (s.getG o.d).toNat = 63 ∧ s.here.tags.getLsbD 63 = true ∧
        channelFree s s.L = true ∧ PortFree s ∧ copyChecks s s.L f (s.getRegs o.s.val 6) o.m.order = .error (.trap 0x0D3 0 0 false)) ∧
      (let s := copier base block16 63
       let w := s.getRegs 0 6
       w.getD 3 0 = 0 ∧ w.getD 4 0 = 0 ∧ w.getD 5 0 = 0 ∧ 1 ≤ (w.getD 2 0).toNat ∧ (w.getD 2 0).toNat ≤ 2 ^ 40 ∧
         ((w.getD 0 0).setWidth 56 : VAddr).toNat + (w.getD 2 0).toNat ≤ ((w.getD 1 0).setWidth 56 : VAddr).toNat) := by
  have ⟨op, h⟩ := ok_of (r := copyChecks (copier base block16 63) (copier base block16 63).L .cpy ((copier base block16 63).getRegs 0 6) 0)
    (by decide +kernel)
  refine (both4 (by decide +kernel) ⟨⟨copier base block16 63, .cpy, { d := 6, s := 0 }, op, ?_⟩, ?_,
    ⟨copier base [0x1100, 0x1200, 0, 0, 0, 0] 63, .cpy, { d := 6, s := 0 }, ?_⟩, by decide +kernel⟩)
  · simp only [portFree_iff]
    exact (both5 (by decide +kernel) ⟨h, by decide +kernel⟩)
  · let s := copier base block16 63
    let o : OpM2 := { d := 6, s := 0, m := { order := 1 } }
    let x : CopyOp := { copyOp0 with tag := 0 }
    have ⟨held, h⟩ := ok_of (r := copyGrant s { x with tag := 63, task := s.here.courierTask, dead := false, pc := s.cur.pc, chan := freeChannel s s.L }) (by decide +kernel)
    refine ⟨s, .cpy, o, x, held, both4 (by decide +kernel) ⟨?_, ?_, by decide +kernel, h⟩⟩
    · simp only [portFree_iff]; decide +kernel
    · rw [ok_iff]; decide +kernel
  · simp only [error_iff, portFree_iff]; decide +kernel

/-- Mailbox 2 of core 0 holds a request, and the courier stands at rest. -/
def mailed (w : List Word) (w6 w7 : Word) : State :=
  event (core0 base fun c =>
    { c with mb := c.mb.set 2 { words := (w.zipIdx.foldl (fun v x => v.setIfInBounds x.2 x.1) (Vector.replicate 8 0) |>.set 6 w6).set 7 w7
                                full := true, fibre := 2 } })
    (.courierRequestServe 0)

theorem witness_TheCourierServesRequests :
    (let s := mailed block16 5 1
     s.ev = .courierRequestServe 0 ∧ (s.core 0).courierFree = true ∧ (s.core 0).courierCmd = none ∧ (s.core 0).nextMail = some 2 ∧
       ((s.core 0).mb.get 2).words.get 7 ≠ 0) ∧
      (let s := mailed block16 0x405 0
       let w6 := ((s.core 0).mb.get 2).words.get 6
       s.ev = .courierRequestServe 0 ∧ (s.core 0).courierFree = true ∧ (s.core 0).courierCmd = none ∧ (s.core 0).nextMail = some 2 ∧
         s.portClear 0 = true ∧ ((s.core 0).mb.get 2).words.get 7 = 0 ∧ w6.extractLsb' 11 53 = 0 ∧ w6.toNat / 256 % 8 = 4 ∧ (s.core 0).tags.getLsbD 5 = true ∧
         channelFree s 0 = true) ∧
      (∃ (s : State) (op : CopyOp), copyChecks s 0 (courierForm 0) block16 0 = .ok op) ∧
      ∃ s : State, copyChecks s 0 (courierForm 0) [0, 0, 0, 0, 0, 0] 0 = .error (.trap 0x0D3 0 0 false) := by
  refine ⟨by decide +kernel, by decide +kernel, ?_, ⟨mailed [0, 0, 0, 0, 0, 0] 5 0, ?_⟩⟩
  · exact ⟨mailed block16 5 0, ok_of (by decide +kernel)⟩
  · simp only [error_iff]; decide +kernel

/-- Cluster 0 carries copies. -/
def copying (l : List CopyOp) (e : Event) : State := event (base.modCluster 0 fun k => { k with copies := l }) e

theorem witness_CopiesReadDeliverAndComplete :
    (∃ (s : State) (L : Fin 6144) (before after : List CopyOp) (o o' : CopyOp),
      s.ev = .copyChannelGrant L ∧ enginesHeld s L = false ∧ (s.cluster (clusterOf L)).copies = before ++ o :: after ∧
        o.core = L.val ∧ o.granted = false ∧ (∀ p ∈ before, p.core ≠ L.val ∨ p.granted = true) ∧ copyRead s o = .ok o') ∧
      (∃ (s : State) (L : Fin 6144) (before after : List CopyOp) (o : CopyOp) (c : Cause) (a x : Word) (e : Bool),
        s.ev = .copyChannelGrant L ∧ enginesHeld s L = false ∧ (s.cluster (clusterOf L)).copies = before ++ o :: after ∧
          o.core = L.val ∧ o.granted = false ∧ (∀ p ∈ before, p.core ≠ L.val ∨ p.granted = true) ∧ copyRead s o = .error (.trap c a x e)) ∧
      (∃ (s u : State) (L : Fin 6144) (tag : Fin 64) (o : CopyOp) (c : Option (Cause × Word)), s.ev = .copyComplete L tag ∧
        (s.cluster (clusterOf L)).copies.find? (fun o => o.core == L.val && o.tag == tag) = some o ∧
        copyReady s (s.cluster (clusterOf L)).copies o = true ∧ (∀ id off, o.dst ≠ .away id off) ∧ copyFinish s o = (u, c) ∧ s.grants = []) ∧
      (∃ (s : State) (L : Fin 6144) (tag : Fin 64) (o : CopyOp), s.ev = .copyComplete L tag ∧
        (s.cluster (clusterOf L)).copies.find? (fun o => o.core == L.val && o.tag == tag) = some o ∧
        copyReady s (s.cluster (clusterOf L)).copies o = true ∧ s.grants ≠ [] ∧ o.dead = false ∧ copyHeld s o = true) ∧
      ∃ (s : State) (o : CopyOp) (da : VAddr) (l : Loc), s.Inv ∧ s.grants = [] ∧ s.heldWrites = [] ∧ o.dst = .memory da ∧ o.failed = 0 ∧
        o.data.length = o.nbytes ∧ o.pois.any id = false ∧
        resolveRange s (s.engineOf o.core) da o.nbytes .write = .ok [(l, o.nbytes)] := by
  refine ⟨?_, ⟨copying [{ copyOp0 with granted := true }, { copyOp0 with dst := .memory 0x5000 }] (.copyChannelGrant 0), 0,
      [{ copyOp0 with granted := true }], [], { copyOp0 with dst := .memory 0x5000 }, 0x041, 0x5000, 0, false, ?_⟩, ?_,
    ⟨{ copying [{ copyOp0 with granted := true }] (.copyComplete 0 5) with grants := [{ gran := 0x4040, core := 1, fibre := 2, granted := true }] },
      0, 5, { copyOp0 with granted := true }, by decide +kernel⟩,
    ⟨base, { copyOp0 with granted := true, data := List.replicate 16 3, pois := List.replicate 16 false }, 0x1200,
      ⟨0x20200, .mapped false⟩, ?_⟩⟩
  · have ⟨o', h⟩ := ok_of (r := copyRead (copying [copyOp0] (.copyChannelGrant 0)) copyOp0) (by decide +kernel)
    exact ⟨copying [copyOp0] (.copyChannelGrant 0), 0, [], [], copyOp0, o', both6 (by decide +kernel) h⟩
  · simp only [error_iff]; decide +kernel
  · let o : CopyOp := { copyOp0 with granted := true, data := List.replicate 16 3, pois := List.replicate 16 false }
    exact ⟨copying [o] (.copyComplete 0 5), (copyFinish (copying [o] (.copyComplete 0 5)) o).1, 0, 5, o, _, both3 (by decide +kernel) ⟨nofun, rfl, rfl⟩⟩
  · simp only [inv_iff, ok_iff]; decide +kernel

/-- The page at 0x2000 maps HBM. -/
def hbm (s : State) : State := s.wrN (placePool + 0x4000 + 8 * 2) 8 0x10000000027

/-- STASH and RESTORE operands: 64 FP32 elements at 0x1100, blocks at 0x2000, FMT 2. -/
def stashBlockW : List (Nat × Word) := [(0, 0x1100), (1, 64), (2, 0x2000), (3, 0), (4, 0), (5, 2), (6, 5)]

/-- A stash or restore in flight: 64 BF16 elements in one 64-byte block. -/
def stashOp0 (stash : Bool) (data : List Byte) : StashOp :=
  { core := 0, tag := 5, stash, elems := 0x1100, n := 64, blocks := 0x2000, fmt := 2, sr := false, key := 0, step := 0, row := 0, col0 := 0
    data, pois := List.replicate data.length false }

theorem witness_StashAndRestoreRun :
    (∀ stash : Bool, ∃ (s : State) (o : OpM2) (x : StashOp) (es bs : List (Loc × Nat)),
      regGroup o.s.val 6 = true ∧ (s.getG o.d).toNat = 5 ∧ s.here.tags.getLsbD 5 = true ∧
        stashChecks s stash (s.getRegs o.s.val 6) = .ok x ∧
        resolveRange s (s.party s.L) x.elems (x.n * x.esz) (if stash then .read else .write) = .ok es ∧
        resolveRange s (s.party s.L) x.blocks x.blockBytes (if stash then .write else .read) = .ok bs ∧ PortFree s) ∧
      (∃ (s : State) (w : Wait), portGo s true true noGran = .error (.wait w)) ∧
      (∀ stash : Bool, ∃ (s : State) (o : OpM2), regGroup o.s.val 6 = true ∧ (s.getG o.d).toNat = 5 ∧ s.here.tags.getLsbD 5 = true ∧
        stashChecks s stash (s.getRegs o.s.val 6) = .error (.trap 0x0FC 0 0 false)) ∧
      ∀ stash : Bool, ∃ (s : State) (L : Fin 6144) (tag : Fin 64) (o : StashOp) (ps : List (Loc × Nat)),
        let mine (o : StashOp) : Bool := o.tag == tag && o.stash == stash
        let u := s.modCore L fun c => { c with stashes := c.stashes.filter fun o => !mine o }
        let out : List Byte × List Bool × Bool := if stash then (o.encoded.1, o.encoded.2, true) else o.decoded
        s.ev = (if stash then .stashComplete L tag else .restoreComplete L tag) ∧ enginesHeld s L = false ∧
          (s.core L).stashes.find? mine = some o ∧
          resolveRange u (u.engineOf L) (if stash then o.blocks else o.elems) out.1.length .write = .ok ps ∧ s.grants = [] := by
  refine ⟨fun stash => ?_, ⟨ported, waits_of (by decide +kernel)⟩, fun stash => ⟨regs base [(6, 5)], { d := 6, s := 0 }, ?_⟩, fun stash => ?_⟩
  · let s := hbm (regs base stashBlockW)
    let x : StashOp := { core := 0, tag := 0, stash, elems := 0x1100, n := 64, blocks := 0x2000, fmt := 2, sr := false, key := 0, step := 0,
                         row := 0, col0 := 0 }
    have ⟨es, h1⟩ := ok_of (r := resolveRange s (s.party s.L) x.elems (x.n * x.esz) (if stash then .read else .write))
      (by cases stash <;> decide +kernel)
    have ⟨bs, h2⟩ := ok_of (r := resolveRange s (s.party s.L) x.blocks x.blockBytes (if stash then .write else .read))
      (by cases stash <;> decide +kernel)
    refine ⟨s, { d := 6, s := 0 }, x, es, bs, both3 (by decide +kernel) ⟨?_, h1, h2, ?_⟩⟩
    · rw [ok_iff]; cases stash <;> decide +kernel
    · simp only [portFree_iff]; decide +kernel
  · cases stash <;> simp only [error_iff] <;> decide +kernel
  · let o := stashOp0 stash (List.replicate 256 0)
    let s := event (core0 (hbm base) fun c => { c with stashes := [o] }) (if stash then .stashComplete 0 5 else .restoreComplete 0 5)
    have ⟨ps, h⟩ := ok_of (r := resolveRange (s.modCore 0 fun c => { c with stashes := c.stashes.filter fun o => !(o.tag == 5 && o.stash == stash) })
      ((s.modCore 0 fun c => { c with stashes := c.stashes.filter fun o => !(o.tag == 5 && o.stash == stash) }).engineOf 0)
      (if stash then o.blocks else o.elems) (if stash then (o.encoded.1, o.encoded.2, true) else o.decoded).1.length .write)
      (by cases stash <;> decide +kernel)
    exact ⟨s, 0, 5, o, ps, by cases stash <;> decide +kernel, by cases stash <;> decide +kernel, by cases stash <;> decide +kernel, h,
      by cases stash <;> rfl⟩

/-- A collective's descriptor: its axes, 64 elements, its source at 0x1100 and its destination at 0x1200, or the rings of a mask (R50, R56). -/
def collB (axis etype : Nat) (src dst : Nat) (n : Nat := 1) (mask : Nat := 0) : List Byte :=
  leBytes 8 axis ++ leBytes 8 n ++ leBytes 8 src ++ leBytes 8 dst ++ leBytes 4 64 ++ leBytes 4 1 ++ leBytes 4 1 ++ leBytes 4 1
    ++ [1, BitVec.ofNat 8 etype, if mask = 0 then 0 else 1, 0] ++ leBytes 4 9 ++ leBytes 8 0x1100 ++ leBytes 8 0x1200 ++ leBytes 16 mask ++ List.replicate 40 0

/-- One participant die with whole shards; and two modules side by side that reduce. -/
def soloB : List Byte := collB 6 1 0xFFFFFFFFFFFF 0xFFFFFFFFFFFF
def duoB (etype : Nat) : List Byte := collB 521 etype 0x1FFFFFFFFFFFF 0xFFFFFFFFFFFF

/-- Die 0's part, by core 0, with tag 5. -/
def part0 (b : List Byte) : CollPart := { die := 0, core := 0, tag := 5, desc := b }

/-- Context 0 has a collective, in a mesh of one row and two columns. -/
def colls (k : Coll) (e : Event) : State :=
  event { base.modCtx 0 fun x => { x with colls := [k] } with part := 0x5001000 } e

/-- A start at 0x1400 by fibre 2, with tag 5 in a0. -/
def starting (b : List Byte) : State := (regs base [(0, 5), (1, 0x1400), (2, 0x1410)]).wr 0x20400 b

theorem witness_CollectivesStart :
    (∃ (s : State) (o : OpM2) (b : List Byte),
      let va : VAddr := (s.getG o.s).extractLsb' 0 56
      va.toNat % 64 = 0 ∧ readVa s (s.party s.L) va 128 = .ok (b, false) ∧ (s.getG o.d).toNat = 5 ∧ s.here.tags.getLsbD 5 = true ∧
        PortFree s ∧ collChecks s s.L (collDesc b) = .ok ()) ∧
      (let s := starting soloB
       let x := collDesc soloB
       x.meshOk s = true ∧ x.layoutOk (x.num 16 8) = true ∧ x.layoutOk (x.num 24 8) = true ∧ (∀ i < x.rank, x.lens.getD i 1 ≠ 0) ∧
         x.bytes x.src ≤ 2 ^ 40 ∧ x.bytes x.dst ≤ 2 ^ 40 ∧ (∃ q ∈ x.here s, q.2 = dieOf s.L) ∧ (s.ctx (s.ctxNum s.L)).colls = [] ∧
         collsOn s (dieOf s.L) < 16 ∧ x.reservedOk = true ∧ x.etype < 2 ∧ x.ringdst = false ∧
         x.srcVa.toNat + x.bytes x.src ≤ x.dstVa.toNat) ∧
      (∀ late : Bool, ∃ s : State, ((collDesc soloB).id, dieOf s.L) ∈ (s.ctx s.myCtx).collLate ↔ late = true) ∧
      (∃ (s : State) (w : Wait), writeGo s noGran true = .error (.wait w)) ∧
      (∃ (s : State) (o : OpM2) (b : List Byte),
        let va : VAddr := (s.getG o.s).extractLsb' 0 56
        va.toNat % 64 = 0 ∧ readVa s (s.party s.L) va 128 = .ok (b, false) ∧ (s.getG o.d).toNat = 5 ∧ s.here.tags.getLsbD 5 = true ∧
          collChecks s s.L (collDesc b) = .error (.trap 0x0E0 0 0 false) ∧ restarts 0x0E0 = false) ∧
      (∃ (s : State) (o : OpM2) (b : List Byte),
        let va : VAddr := (s.getG o.s).extractLsb' 0 56
        va.toNat % 64 = 0 ∧ readVa s (s.party s.L) va 128 = .ok (b, false) ∧ (s.getG o.d).toNat = 5 ∧ s.here.tags.getLsbD 5 = true ∧
          collChecks s s.L (collDesc b) = .error (.wait .collective)) ∧
      ((starting soloB).getG 2).toNat % 64 ≠ 0 := by
  let busy (s : State) : State := s.modCtx 0 fun x => { x with colls := (List.range 16).map fun i => { id := BitVec.ofNat 32 (20 + i), parts := [part0 []] } }
  refine ⟨⟨starting soloB, { d := 0, s := 1 }, soloB, ?_⟩, by decide +kernel,
    fun late => ⟨(starting soloB).modCtx 0 fun x => { x with collLate := if late then [(9, 0)] else [] }, by cases late <;> decide +kernel⟩,
    ⟨ported, waits_of (by decide +kernel)⟩, ⟨starting (List.replicate 128 0), { d := 0, s := 1 }, List.replicate 128 0, ?_⟩,
    ⟨busy (starting soloB), { d := 0, s := 1 }, soloB, ?_⟩, by decide +kernel⟩ <;> simp only [ok_iff, error_iff, portFree_iff] <;> decide +kernel

theorem witness_CollectivesRunAndEnd :
    (∃ (s : State) (c : Fin 48) (id : BitVec 32) (peers : List (List Byte)) (k : Coll) (ps : List CollPart),
      let all := (k.parts.map (·.desc) ++ peers).map fun b => b.take 50 ++ (b.drop 52).take 4
      s.ev = .collDescriptorCompare c id peers ∧ s.coll? c id (!·.agreed) = some k ∧ collRuns s k = true ∧
        (∃ b ∈ k.parts.map (·.desc) ++ peers, (∀ q ∈ (collDesc b).here s, k.parts.any (·.die == q.2) = true) ∧
          (collDesc b).coords.length ≤ k.parts.length + peers.length) ∧
        (∀ x ∈ all, ∀ y ∈ all, x = y) ∧ k.parts.mapM (readSource s) = .ok ps) ∧
      (∃ (s : State) (c : Fin 48) (id : BitVec 32) (peers : List (List Byte)) (k : Coll),
        let all := (k.parts.map (·.desc) ++ peers).map fun b => b.take 50 ++ (b.drop 52).take 4
        s.ev = .collDescriptorCompare c id peers ∧ s.coll? c id (!·.agreed) = some k ∧ collRuns s k = true ∧
          (∃ b ∈ k.parts.map (·.desc) ++ peers, (∀ q ∈ (collDesc b).here s, k.parts.any (·.die == q.2) = true) ∧
            (collDesc b).coords.length ≤ k.parts.length + peers.length) ∧
          ∃ x ∈ all, ∃ y ∈ all, x ≠ y) ∧
      (∃ (s : State) (c : Fin 48) (id : BitVec 32) (d : Fin 8) (chunk : Nat) (k : Coll) (p : CollPart),
        let x := collDesc p.desc
        s.ev = .collReadyToReceive c id d chunk none ∧ (s.ctx c).colls = [k] ∧ k.id = id ∧ k.agreed = true ∧ k.parts = [p] ∧ p.die = d.val ∧
          p.done = false ∧ chunk ∉ p.got ∧ chunk ∉ p.ready ∧ enginesHeld s p.core = false ∧ x.ringdst = false ∧
          chunk * 0x10000 < x.bytes x.dst) ∧
      (∃ (s : State) (c : Fin 48) (id : BitVec 32) (d : Fin 8) (chunk : Nat) (data : List Byte) (pl : List Nat) (k : Coll) (p : CollPart)
          (q : List Nat) (b : List Byte) (pois : List Bool) (ps : List (Loc × Nat)),
        let x := collDesc p.desc
        let per := 0x10000 / x.esz
        s.ev = .collChunkArrive c id d chunk data pl ∧ (s.ctx c).colls = [k] ∧ k.id = id ∧ k.agreed = true ∧ k.parts = [p] ∧
          p.die = d.val ∧ chunk ∈ p.ready ∧ (k.desc.here s).find? (·.2 == d.val) = some (q, d.val) ∧ enginesHeld s p.core = false ∧
          x.ringdst = false ∧ k.piece s q (per * chunk) (min per (x.elems x.dst - per * chunk)) data pl = some (b, pois) ∧ true ∉ pois ∧ s.grants = [] ∧
          resolveRange s (s.engineOf p.core) (x.dstVa + BitVec.ofNat 56 (0x10000 * chunk)) b.length .write = .ok ps) ∧
      (∃ (s : State) (c : Fin 48) (id : BitVec 32) (n : Nat) (peers : List (BitVec 8 × BitVec 8 × BitVec 32)) (k : Coll)
          (g : List (List Nat)) (b : Nat),
        let all := modulePass (k.blockSums s g b) (k.nf.getLsbD 0) :: peers
        s.ev = .gatewayPassOne c id n peers ∧ (s.ctx c).colls = [k] ∧ k.id = id ∧ k.agreed = true ∧ k.desc.etype = 0 ∧
          k.pass1.any (·.1 == n) = false ∧ k.block? s n = some (g, b) ∧ peers.length + 1 = (k.desc.modules g).length ∧
          collRuns s k = true ∧ (all.any (·.2.1.getLsbD 6) && all.any (·.2.1.getLsbD 7)) = false) ∧
      (∃ (s : State) (c : Fin 48) (id : BitVec 32) (n : Nat) (peers : List (List (BitVec 32))) (k : Coll) (g : List (List Nat)) (b : Nat),
        s.ev = .gatewayPassTwo c id n peers ∧ (s.ctx c).colls = [k] ∧ k.id = id ∧ k.agreed = true ∧ k.desc.etype = 1 ∧
          k.pass2.any (·.1 == n) = false ∧ k.block? s n = some (g, b) ∧ peers.length + 1 = (k.desc.modules g).length ∧
          collRuns s k = true) ∧
      (∃ (s : State) (c : Fin 48) (id : BitVec 32) (d : Fin 8) (k : Coll) (p : CollPart),
        let x := collDesc p.desc
        s.ev = .collComplete c id d ∧ (s.ctx c).colls = [k] ∧ k.id = id ∧ k.agreed = true ∧ k.parts = [p] ∧ p.die = d.val ∧
          p.done = false ∧ enginesHeld s p.core = false ∧ x.ringdst = false ∧ x.bytes x.dst ≤ p.got.length * 0x10000 ∧ x.donectr = 0) ∧
      ∃ (s : State) (c : Fin 48) (id : BitVec 32) (cause : Cause) (k : Coll),
        s.ev = .collFail c id cause ∧ s.coll? c id (fun _ => true) = some k ∧ ∃ p ∈ k.parts, p.done = false := by
  let solo : Coll := { id := 9, parts := [part0 soloB], agreed := true }
  let duo (t : Nat) : Coll := { id := 9, parts := [part0 (duoB t)], agreed := true }
  let ready : CollPart := { part0 soloB with ready := [0], src := List.replicate 256 1, pois := List.replicate 256 false }
  let got : CollPart := { part0 soloB with got := [0] }
  refine ⟨?_, ⟨colls { id := 9, parts := [part0 (duoB 1)] } (.collDescriptorCompare 0 9 [soloB]), 0, 9, [soloB],
      { id := 9, parts := [part0 (duoB 1)] }, by decide +kernel⟩,
    ⟨colls solo (.collReadyToReceive 0 9 0 0 none), 0, 9, 0, 0, solo, part0 soloB, by decide +kernel⟩, ?_,
    ⟨colls (duo 0) (.gatewayPassOne 0 9 0 [(0, 128, 0)]), 0, 9, 0, [(0, 128, 0)], duo 0, [[0], [1]], 0, by decide +kernel⟩,
    ⟨colls (duo 1) (.gatewayPassTwo 0 9 0 [[]]), 0, 9, 0, [[]], duo 1, [[0], [1]], 0, by decide +kernel⟩,
    ⟨colls { solo with parts := [got] } (.collComplete 0 9 0), 0, 9, 0, { solo with parts := [got] }, got, by decide +kernel⟩,
    ⟨colls solo (.collFail 0 9 0x0E8), 0, 9, 0x0E8, solo, by decide +kernel⟩⟩
  · let s := colls { id := 9, parts := [part0 soloB] } (.collDescriptorCompare 0 9 [])
    have ⟨ps, h⟩ := ok_of (r := [part0 soloB].mapM (readSource s)) (by decide +kernel)
    exact ⟨s, 0, 9, [], { id := 9, parts := [part0 soloB] }, ps, both5 (by decide +kernel) h⟩
  · let s := colls { solo with parts := [ready] } (.collChunkArrive 0 9 0 0 [] [])
    have ⟨ps, h⟩ := ok_of (r := resolveRange s (s.engineOf 0) 0x1200 256 .write) (by decide +kernel)
    refine ⟨s, 0, 9, 0, 0, [], [], { solo with parts := [ready] }, ready, [0], List.replicate 256 1, List.replicate 256 false, ps, both6 (by decide +kernel) (both6 (by decide +kernel) ⟨rfl, ?_⟩)⟩
    have e : (collDesc ready.desc).dstVa + BitVec.ofNat 56 (0x10000 * 0) = 0x1200 := by decide +kernel
    rw [e, List.length_replicate]; exact h

/-- A round of cores 0 and 1, and their contributions. -/
def round01 (w0 w1 : Word) (lost : Bool) : TreeRound := { seq := 3, members := [0, 1], words := [(0, w0), (1, w1)], lost }

/-- A contribution of the value 5 in round 3: an integer sum (R67). -/
def treeWord (op : Word) : Word := 5 ||| op <<< 32 ||| 3 <<< 40

theorem witness_TreeRoundsEnd :
    (∀ lost : Bool, ∃ (s : State) (c : Fin 48) (r : TreeRound) (rest : List TreeRound) (L0 : Nat) (w : Word) (ws : List (Nat × Word)) (L : Nat),
      s.ev = .treeRoundComplete c ∧ (s.ctx c).rounds = r :: rest ∧ roundDone r = true ∧ r.words = (L0, w) :: ws ∧ r.members.Nodup ∧
        L ∉ r.gone ∧ (s.core L).treeOut.length < 4 ∧ (s.core L).treeHeld = [] ∧ r.lost = lost ∧ L ∈ r.members ∧
        (treeSeqOf w = r.seq ∧ ∀ x ∈ ws, x.2.extractLsb' 32 16 = w.extractLsb' 32 16)) ∧
      (∃ (s : State) (c : Fin 48) (r : TreeRound) (rest : List TreeRound) (L0 : Nat) (w : Word) (ws : List (Nat × Word)) (L : Nat),
        s.ev = .treeRoundComplete c ∧ (s.ctx c).rounds = r :: rest ∧ roundDone r = true ∧ r.words = (L0, w) :: ws ∧ r.members.Nodup ∧
          L ∉ r.gone ∧ (s.core L).treeOut.length < 4 ∧ (s.core L).treeHeld = [] ∧ r.lost = false ∧ L ∈ r.members ∧
          ¬(treeSeqOf w = r.seq ∧ ∀ x ∈ ws, x.2.extractLsb' 32 16 = w.extractLsb' 32 16)) ∧
      ∃ (s : State) (L : Fin 6144) (e : TreeEntry) (r : List TreeEntry),
        s.ev = .treeResultDeliver L ∧ (s.core L).treeHeld = e :: r ∧ (s.core L).treeOut.length < 4 := by
  let at_ (r : TreeRound) : State := event (base.modCtx 0 fun x => { x with rounds := [r] }) (.treeRoundComplete 0)
  refine ⟨fun lost => ⟨at_ (round01 (treeWord 0) (treeWord 0) lost), 0, round01 (treeWord 0) (treeWord 0) lost, [], 0, treeWord 0,
      [(1, treeWord 0)], 1, ?_⟩,
    ⟨at_ (round01 (treeWord 0) (treeWord 1) false), 0, round01 (treeWord 0) (treeWord 1) false, [], 0, treeWord 0, [(1, treeWord 1)], 0, ?_⟩,
    ⟨event (core0 base fun c => { c with treeHeld := [{ word := 5 }] }) (.treeResultDeliver 0), 0, { word := 5 }, [], by decide +kernel⟩⟩
  · cases lost <;> decide +kernel
  · decide +kernel


/-- A reservation of fibre 2 of core 0 on the granule at 0x20100, granted in cycle 0, and the 8-byte atomics it serves. -/
def granting (granted : Bool) (op : Option AtomicOp) : Grant := { gran := 0x4020, core := 0, fibre := 2, granted, op }
def atomicOp0 (form : AtomicForm) : AtomicOp := { form, key := 0x20100, size := 8, y := 3, dst := some 4, iss := { core := 0, slot := 1, pc := 0x1000 } }

/-- The fibre waits for a value that is on its way to a register. -/
def accessing (d : Option GReg) : State :=
  event (fib2 base fun f => { f with status := .waiting .access, pend := some { dst := d, value := 9, pc := 0x1000 } }) (.accessComplete 0 2)

/-- The plane of fibre 2 of core 0. -/
def plane0 : Plane := { L := 0, f := 2, sh := false }

/-- One reservation stands at the homes. -/
def homed (g : Grant) (e : Event) : State := { event base e with grants := [g] }

theorem witness_ReservationsAreGrantedWrittenAndEnd :
    (∀ lr pois : Bool, ∃ (s : State) (g : Grant) (o : AtomicOp) (p : Plane),
      s.ev = .reservationGrant g.gran ∧ s.arriving? (8 * g.gran) = false ∧ s.grants = [g] ∧ g.granted = false ∧ g.away = false ∧
        g.op = some o ∧ AtomicPlane s g o p ∧ o.form = (if lr then .lr else .add) ∧ s.poisoned o.key o.size = pois ∧ ((s.core g.core).fib g.fibre).task = none) ∧
      (∃ (s : State) (g : Grant) (o : AtomicOp) (p : Plane) (bs : List Byte) (old : Word) (st : Sticky),
        s.ev = .atomicReleaseWrite g.gran ∧ s.Inv ∧ s.grants = [g] ∧ g.granted = true ∧ g.op = some o ∧ s.heldWrites = [] ∧
          AtomicPlane s g o p ∧ atomicResult s o = .ok (bs, old, st)) ∧
      (∃ (s : State) (g : Grant),
        s.ev = .reservationTimeout g.gran ∧ s.grants = [g] ∧ g.granted = true ∧ g.op = none ∧ s.heldWrites = [] ∧
          let d := s.die (homeDie (8 * g.gran))
          g.since + 2 ^ d.rsvTmo.toNat ≤ d.cycle.toNat) ∧
      ∀ d ∈ [none, some 7, some 8], ∃ (s : State) (L : Fin 6144) (f : BitVec 12) (p : Pending),
        let x := (s.core L).fib f.toNat
        s.ev = .accessComplete L f ∧ f ≠ 0 ∧ x.status = .waiting .access ∧ x.pend = some p ∧ p.dst = d := by
  have granted (lr pois : Bool) : ∃ (s : State) (g : Grant) (o : AtomicOp),
      s.ev = .reservationGrant g.gran ∧ s.arriving? (8 * g.gran) = false ∧ s.grants = [g] ∧ g.granted = false ∧ g.away = false ∧
        g.op = some o ∧ (g.core = 0 ∧ g.fibre = 2 ∧ o.shadow = false ∧ (s.core g.core).hasFib g.fibre = true) ∧
        o.form = (if lr then .lr else .add) ∧ s.poisoned o.key o.size = pois ∧ ((s.core g.core).fib g.fibre).task = none := by
    let o := atomicOp0 (if lr then .lr else .add)
    refine ⟨{ homed (granting false (some o)) (.reservationGrant 0x4020) with poison := if pois then [0x804] else [] }, granting false (some o), o, ?_⟩
    revert lr pois
    decide +kernel
  refine ⟨fun lr pois => ?_,
    ⟨homed (granting true (some (atomicOp0 .add))) (.atomicReleaseWrite 0x4020), granting true (some (atomicOp0 .add)), atomicOp0 .add, plane0,
      leBytes 8 3, 0, {}, rfl, ?_, rfl, rfl, rfl, rfl, ⟨rfl, by decide +kernel⟩, ?_⟩,
    ⟨(homed (granting true none) (.reservationTimeout 0x4020)).modDie 0 fun d => { d with cycle := 0x10000 }, granting true none, by decide +kernel⟩,
    fun d hd => ?_⟩
  · obtain ⟨s, g, o, h1, h2, h3, h4, h5, h6, ⟨h7, h8, h9, ha⟩, hb⟩ := granted lr pois
    exact ⟨s, g, o, plane0, h1, h2, h3, h4, h5, h6, ⟨by rw [h7, h8, h9]; rfl, ha⟩, hb⟩
  · simp only [inv_iff]; decide +kernel
  · simp only [ok_iff]; decide +kernel
  · refine ⟨accessing d, 0, 2, { dst := d, value := 9, pc := 0x1000 }, ?_⟩
    revert d; decide +kernel

/-- Fibres 2 to 7 in the worker slots, fibre 2 over its quantum; and fibre 8, of higher priority, ready. -/
def crowded (e : Event) : State :=
  event (core0 base fun c => { c with
    fibres := c.fibres.map (fun x => if x.1 = 2 then (2, { x.2 with quantum := 1024 }) else x) ++
      [3, 4, 5, 6, 7].map (fun n => (n, { pc := 0x1000 })) ++ [(8, { pc := 0x1000, prio := 1 })]
    slots := #v[some 2, some 3, some 4, some 5, some 6, some 7] }) e

theorem witness_WaitsEndAndSlotsAreFilled :
    (∃ (s : State) (L : Fin 6144) (f : BitVec 12), s.ev = .waitWake L f ∧ f ≠ 0 ∧ canWake s L f.toNat = true) ∧
      (∃ (s : State) (L : Fin 6144) (i : Fin 6) (f : Nat) (g : Nat) (x : Fibre),
        s.ev = .slotFill L ∧ (s.core L).held = false ∧ (s.core L).freeWorker = some i.val ∧ (s.core L).nextFibre = some f ∧
          ((s.core L).fibres.map (·.1)).Nodup ∧ g ≠ f ∧ (g, x) ∈ (s.core L).fibres ∧ (s.core L).queued g x = true) ∧
      (∃ (s : State) (L : Fin 6144) (f : BitVec 12) (b : List Byte),
        let x := (s.core L).fib f.toNat
        s.ev = .fibreRefill L f ∧ x.spilled = true ∧ x.status = .ready ∧ (s.core L).rqUse < 256 ∧
          readVa s (s.engineOf L) (spillAddr s L f.toNat) 224 = .ok (b, false)) ∧
      (∃ (s : State) (L : Fin 6144) (f : BitVec 12) (b : List Byte),
        let x := (s.core L).fib f.toNat
        s.ev = .fibreRefill L f ∧ x.spilled = true ∧ x.status = .ready ∧ (s.core L).rqUse < 256 ∧
          readVa s (s.engineOf L) (spillAddr s L f.toNat) 224 = .ok (b, true)) ∧
      (∃ (s : State) (L : Fin 6144) (f : Nat),
        s.ev = .preemptPriority L ∧ (s.core L).outranked = some f ∧ 2 ≤ f ∧ ((s.core L).fib f).status = .ready) ∧
      (∃ (s : State) (L : Fin 6144) (slot : Fin 8) (f : Nat),
        s.ev = .preemptQuantum L slot ∧ (s.core L).overQuantum slot = some f ∧ 2 ≤ f ∧ ((s.core L).fib f).status = .ready) ∧
      (∃ (s : State) (L : Fin 6144) (w : Writeback),
        s.ev = .registerWriteback L ∧ (s.core L).wb = [w] ∧ w.due < s.cycleOf L ∧ w.shadow = false ∧
          ((s.core L).fib w.fibre).status = .writeback) ∧
      (∃ (s : State) (L : Fin 6144) (w : Writeback),
        s.ev = .registerWriteback L ∧ (s.core L).wb = [w] ∧ w.due < s.cycleOf L ∧ w.shadow = true ∧ (s.core L).shadowSt = .writeback) ∧
      ∃ (s : State) (L : Fin 6144) (w : Writeback), s.ev = .registerWriteback L ∧ (s.core L).wb = [w] ∧ s.cycleOf L ≤ w.due := by
  let two (e : Event) : State := event (core0 base fun c => { c with fibres := c.fibres ++ [(3, { prio := 1 }), (4, {})] }) e
  let wb0 : Writeback := { due := 5, slot := 1, fibre := 2, reg := 31, value := 7 }
  let late (w : Writeback) : State :=
    (event (core0 (fib2 base fun f => { f with status := .writeback }) fun c => { c with wb := [w] }) (.registerWriteback 0)).modDie 0
      fun d => { d with cycle := 5 }
  let spilled (p : List Nat) : State :=
    event (({ core0 base fun c => { c with fibres := c.fibres ++ [(17, { spilled := true })] } with poison := p } : State).modCtx 0
      fun x => { x with fscfg := 0 }) (.fibreRefill 0 17)
  refine ⟨⟨event (fib2 base fun f => { f with status := .waiting (.cycle 0) }) (.waitWake 0 2), 0, 2, by decide +kernel⟩,
    ⟨two (.slotFill 0), 0, 1, 3, 4, {}, by decide +kernel⟩, ?_, ?_,
    ⟨crowded (.preemptPriority 0), 0, 7, by decide +kernel⟩, ⟨crowded (.preemptQuantum 0 1), 0, 1, 2, by decide +kernel⟩,
    ⟨late { wb0 with due := 0 }, 0, { wb0 with due := 0 }, by decide +kernel⟩,
    ⟨core0 (late { wb0 with due := 0, shadow := true }) fun c => { c with shadowSt := .writeback }, 0, { wb0 with due := 0, shadow := true },
      by decide +kernel⟩,
    ⟨late wb0, 0, wb0, by decide +kernel⟩⟩
  · refine ⟨spilled [], 0, 17, List.replicate 224 0, both4 (by decide +kernel) ?_⟩
    rw [ok_iff]; decide +kernel
  · refine ⟨spilled [0x804], 0, 17, List.replicate 224 0, both4 (by decide +kernel) ?_⟩
    rw [ok_iff]; decide +kernel

theorem witness_UrgentDeliveryRotationsAndTraps :
    (∃ (s : State) (L : Fin 6144) (k : Nat),
      let c := s.core L
      s.ev = .urgentDelivery L ∧ c.deliverable = true ∧ (s.ctxOfCore L).isSome = true ∧ c.urgentEvent = some k ∧ k = 3) ∧
      (∃ (s : State) (L : Fin 6144), s.ev = .rotationEnd L ∧
        let c := s.core L
        c.pfClr = false ∧ c.pfRun = true ∧ c.stopped = false ∧ c.halted = false) ∧
      (∃ (s : State) (L : Fin 6144), s.ev = .rotationEnd L ∧ (s.core L).pfRun = false ∧ (s.core L).pfClr = false) ∧
      (∃ (s : State) (L : Fin 6144), s.ev = .corePfctlClr L ∧ s.recovery = false) ∧
      (∀ load : Bool, ∃ (s : State) (L : Fin 6144) (p : Pending),
        let c := s.core L
        s.ev = .urgentDelivery L ∧ c.deliverable = true ∧ (s.ctxOfCore L).isSome = true ∧ c.urgentEvent = some 3 ∧
          (c.fib 0).status = .waiting .access ∧ (c.fib 0).pend = some p ∧ p.load = load ∧ p.dst = some 3) ∧
      ∃ (s : State) (L : Fin 6144) (slot : Fin 8) (cause : Cause) (eng : Bool) (addr aux : Word) (f : Nat),
        s.ev = .trap L slot cause eng addr aux ∧ s.cur.core = L.val ∧ s.cur.slot = slot.val ∧ 1 ≤ slot.val ∧ slot.val ≤ 6 ∧
          (s.core L).inSlot slot = some f ∧ 2 ≤ f ∧ ((s.core L).fib f).status ≠ .parked ∧ restarts cause = false :=
  ⟨⟨event (core0 base fun c => { c with upSoft := true, uctl := 0x1F }) (.urgentDelivery 0), 0, 3, by decide +kernel⟩,
    ⟨event base (.rotationEnd 0), 0, by decide +kernel⟩, ⟨event (core0 base fun c => { c with pfRun := false }) (.rotationEnd 0), 0, by decide +kernel⟩,
    ⟨event base (.corePfctlClr 0), 0, by decide +kernel⟩,
    fun load => ⟨event (core0 (urgent base) fun c => { c.modFib 0 (fun f => { f with
        status := .waiting .access, pend := some { dst := some 3, value := 9, pc := 0x1000, load } }) with upSoft := true, uctl := 0x1F }) (.urgentDelivery 0),
      0, { dst := some 3, value := 9, pc := 0x1000, load }, by cases load <;> decide +kernel⟩,
    ⟨event base (.trap 0 1 0x0E0 false 0 0), 0, 1, 0x0E0, false, 0, 0, 2, by decide +kernel⟩⟩

/-- Each branch of a host write: a round that is owed; a split beyond eight and one that is taken, both ways; a courier
that waits and one that runs; an inbox of 4,096 entries, one beyond the direct portion, and one in it. -/
theorem witness_HostWritesOfCoreRegisters :
    (∃ (s : State) (L : Fin 6144) (v : Word), s.ev = .coreUpendWrite L v ∧ s.recovery = false) ∧
      (∃ (s : State) (L : Fin 6144) (v : Word), s.ev = .coreTreeWrite L v ∧ s.recovery = false ∧ treeOwe s L = true) ∧
      (∃ (s : State) (L : Fin 6144) (v : Word), s.ev = .coreTreeWrite L v ∧ s.recovery = false ∧ ¬(treePend s L = true ∨ treeOwe s L = true)) ∧
      (∃ (s : State) (L : Fin 6144) (v : Word), s.ev = .coreSplitWrite L v ∧ s.recovery = false ∧ s.Inv ∧ 8 < v.toNat % 16) ∧
      (∃ (s : State) (L : Fin 6144) (v : Word), s.ev = .coreSplitWrite L v ∧ s.recovery = false ∧ s.Inv ∧ v.toNat % 16 ≤ 8 ∧ tcmPins s L = [] ∧
        (s.core L).locks = [] ∧ (s.core L).fibres.all (fun e => e.2.h.toList.all (·.isNone)) = true) ∧
      (∃ (s : State) (L : Fin 6144) (v : Word) (q : Fin 4), s.ev = .coreCourierWrite L v ∧ s.recovery = false ∧ (s.core L).courierCmd = none ∧
        ((s.core L).fib 1).status = .waiting (.mailboxFull q) ∧ (s.core L).mailEmpty = true ∧ s.grants = []) ∧
      (∃ (s : State) (L : Fin 6144) (v : Word), s.ev = .coreCourierWrite L v ∧ s.recovery = false ∧ (s.core L).mailEmpty = false) ∧
      (∃ (s : State) (L : Fin 6144) (v : Word), s.ev = .coreInboxWrite L v ∧ s.recovery = false ∧ (s.core L).inbox.getLsbD 0 = false ∧ v.getLsbD 0 = true ∧
        11 < v.toNat / 4 % 16) ∧
      (∃ (s : State) (L : Fin 6144) (v : Word), s.ev = .coreInboxWrite L v ∧ s.recovery = false ∧ (s.core L).inbox.getLsbD 0 = false ∧ v.getLsbD 0 = true ∧
        v.toNat / 4 % 16 ≤ 11 ∧ (s.core L).directBytes < v.toNat % 2 ^ 18 / 128 * 128 + 128 * 2 ^ (v.toNat / 4 % 16)) ∧
      ∃ (s : State) (L : Fin 6144) (v : Word), s.ev = .coreInboxWrite L v ∧ s.recovery = false ∧ (s.core L).inbox.getLsbD 0 = false ∧ v.getLsbD 0 = true ∧
        v.toNat / 4 % 16 ≤ 11 ∧ ¬(s.core L).directBytes < v.toNat % 2 ^ 18 / 128 * 128 + 128 * 2 ^ (v.toNat / 4 % 16) := by
  refine ⟨⟨event base (.coreUpendWrite 0 8), 0, 8, by decide +kernel⟩, ⟨event (base.modCtx 0 fun x => { x with rounds := [({ seq := 3, members := [0, 1] } : TreeRound)] }) (.coreTreeWrite 0 1), 0, 1, by decide +kernel⟩,
    ⟨event base (.coreTreeWrite 0 1), 0, 1, by decide +kernel⟩, ⟨event base (.coreSplitWrite 0 9), 0, 9, ?_⟩,
    ⟨event base (.coreSplitWrite 0 8), 0, 8, ?_⟩,
    ⟨event base (.coreCourierWrite 0 0x2000), 0, 0x2000, 0, by decide +kernel⟩,
    ⟨event (core0 base fun c => { c with mb := c.mb.set 0 { full := true, fibre := 2 } }) (.coreCourierWrite 0 0x2000), 0, 0x2000, by decide +kernel⟩,
    ⟨event base (.coreInboxWrite 0 0x31), 0, 0x31, by decide +kernel⟩, ⟨event base (.coreInboxWrite 0 0x3FF81), 0, 0x3FF81, by decide +kernel⟩,
    ⟨event base (.coreInboxWrite 0 0x81), 0, 0x81, by decide +kernel⟩⟩
  · simp only [inv_iff]; decide +kernel
  · simp only [inv_iff]; decide +kernel

/-- A message in flight from core 1 to core 0, or to the fibre that waits for its status. -/
def carried (s : State) (b : MsgBody) (e : Event) : State :=
  event { s with msgs := [{ id := 1, src := 8, dst := 0, ctx := 0, fibre := 2, pc := 0, cycle := 0, body := b }] } e
def msg1 (b : MsgBody) : Msg := { id := 1, src := 8, dst := 0, ctx := 0, fibre := 2, pc := 0, cycle := 0, body := b }

/-- A remote MMCLR of accumulator 0, and a capability of two uses with key 5 and every right. -/
def clear0 : MatCmd := { instr := .mmclr { q := 0, s := 0 }, key := 0, row := 0, col := 0, fibre := 2, src := 8, pc := 0, srcFibre := 2 }

theorem witness_MessagesArrive :
    (∃ (s : State) (i : Nat) (m : Msg) (T : Nat) (va : VAddr) (k : Nat) (bs : List Byte),
      s.ev = .remoteStoreArrive i ∧ Arrives s i m T ∧ m.body = .store va k bs ∧ s.Inv ∧ boundAt s T k bs.length = none) ∧
      (∃ (s : State) (i : Nat) (m : Msg) (T : Nat) (off : BitVec 18) (inc : BitVec 32),
        s.ev = .sigincArrive i none ∧ Arrives s i m T ∧ m.body = .siginc off inc ∧ s.Inv ∧ off.toNat < (s.core T).directBytes) ∧
      (∀ ok : Bool, ∃ (s : State) (i : Nat) (m : Msg) (T : Nat) (off : BitVec 18) (n : Nat) (task : Option VAddr),
        s.ev = .ringCreditArrive i none ∧ Arrives s i m T ∧ m.body = .credit off n task false 0 ∧
          let v := { s with msgs := [] }.countMsg m T
          hasOk (remoteCredit v m ⟨T, off.toNat⟩ n task 0) = ok) ∧
      (∃ (s : State) (i : Nat) (m : Msg) (T : Nat) (ws : List Word),
        s.ev = .appendArrive i none ∧ Arrives s i m T ∧ m.body = .append ws ∧ ws.length = 8 ∧ s.Inv ∧
          (s.core T).inEn = true ∧ (s.core T).inCount < 2 ^ (s.core T).inLog2) ∧
      (∀ ok : Bool, ∃ (s : State) (i : Nat) (m : Msg) (T : Nat) (cmd : MatCmd) (key : BitVec 32),
        s.ev = .mmrcArrive i none ∧ Arrives s i m T ∧ m.body = .mmrc cmd key ∧ (mmrcStatus (s.core T) cmd key == 0) = ok) ∧
      (∀ low : Bool, ∃ (s : State) (i : Nat) (m : Msg) (L f : Nat) (v : Word) (p : Pending) (d : GReg),
        s.ev = .appendStatusReturn i none ∧ s.msgs = [m] ∧ m.id = i ∧ s.localCore m.dst = some L ∧ (s.core L).fenced = false ∧ m.body = .status f v ∧ f ≠ 0 ∧
          ((s.core L).fib f).status = .waiting .status ∧ ((s.core L).fib f).pend = some p ∧ p.dst = some d ∧ decide (d.val < 8) = low) ∧
      (∃ (s : State) (i : Nat) (m : Msg) (L : Nat) (cause : Cause) (eng : Bool) (addr aux : Word),
        s.ev = .appendStatusReturn i none ∧ s.msgs = [m] ∧ m.id = i ∧ s.localCore m.dst = some L ∧ (s.core L).fenced = false ∧
          m.body = .refused cause eng addr aux) ∧
      ∀ e ∈ [Event.remoteStoreArrive 1, .sigincArrive 1 none, .appendArrive 1 none, .ringCreditArrive 1 none, .mmrcArrive 1 none],
        ∃ (s : State) (m : Msg) (T : Nat), s.ev = e ∧ s.msgs = [m] ∧ m.id = 1 ∧ s.localCore m.dst = some T ∧ (s.core T).fenced = true ∧
          ∀ L ∈ s.localCore m.src, (s.core L).fenced = false := by
  refine ⟨⟨carried base (.store 0xFF000000000200 (tcmKey 0 0x200) [7]) (.remoteStoreArrive 1), 1, msg1 (.store 0xFF000000000200 (tcmKey 0 0x200) [7]), 0,
      0xFF000000000200, tcmKey 0 0x200, [7], ?_⟩,
    ⟨carried base (.siginc 0x40 3) (.sigincArrive 1 none), 1, msg1 (.siginc 0x40 3), 0, 0x40, 3, ?_⟩,
    fun ok => ⟨carried ((ringed 0 0 []).wrN (tcmKey 0 32) 4 8) (.credit 0 (if ok then 1 else 0) none false 0) (.ringCreditArrive 1 none), 1,
      msg1 (.credit 0 (if ok then 1 else 0) none false 0), 0, 0, if ok then 1 else 0, none, ?_⟩,
    ⟨carried (core0 base fun c => { c with inbox := 1 }) (.append (List.replicate 8 7)) (.appendArrive 1 none), 1, msg1 (.append (List.replicate 8 7)), 0,
      List.replicate 8 7, ?_⟩, fun ok => ?_, fun low => ?_,
    ⟨carried base (.refused 0x070 false 0 0) (.appendStatusReturn 1 none), 1, msg1 (.refused 0x070 false 0 0), 0, 0x070, false, 0, 0, by decide +kernel⟩,
    fun e he => ⟨carried (core0 base fun c => { c with fenced := true }) (.siginc 0 1) e, msg1 (.siginc 0 1), 0, ?_⟩⟩
  · simp only [Arrives, inv_iff]; decide +kernel
  · simp only [Arrives, inv_iff]; decide +kernel
  · simp only [Arrives]; revert ok; decide +kernel
  · simp only [Arrives, inv_iff]; decide +kernel
  · cases ok
    · exact ⟨carried base (.mmrc clear0 5) (.mmrcArrive 1 none), 1, msg1 (.mmrc clear0 5), 0, clear0, 5, by simp only [Arrives]; decide +kernel⟩
    · exact ⟨carried (core0 base fun c => { c with mmcap := 0x0002000F00000005 }) (.mmrc clear0 5) (.mmrcArrive 1 none), 1, msg1 (.mmrc clear0 5), 0,
        clear0, 5, by simp only [Arrives]; decide +kernel⟩
  · cases low
    · exact ⟨carried (fib2 base fun f => { f with status := .waiting .status, pend := some { dst := some 8 } }) (.status 2 7) (.appendStatusReturn 1 none),
        1, msg1 (.status 2 7), 0, 2, 7, { dst := some 8 }, 8, by decide +kernel⟩
    · exact ⟨carried (fib2 base fun f => { f with status := .waiting .status, pend := some { dst := some 7 } }) (.status 2 7) (.appendStatusReturn 1 none),
        1, msg1 (.status 2 7), 0, 2, 7, { dst := some 7 }, 7, by decide +kernel⟩
  · revert e; decide +kernel

/-- A task record with ENTRY 0x1000 and, where `fp` holds, one region of 64 bytes at an address that nothing maps. -/
def entryRec (fp : Bool) : TRec :=
  ⟨leBytes 8 0x1000 ++ List.replicate 32 0 ++ leBytes 8 (if fp then 0x1500 else 0) ++ List.replicate 12 0 ++ [if fp then 4 else 0] ++ List.replicate 67 0⟩

/-- That record stands at 0x1400. -/
def recorded (fp : Bool) : State := ((base.wr 0x20400 (entryRec fp).raw).wr 0x20500 (leBytes 8 0x5000 ++ leBytes 8 64))

/-- Its task, which fetches what the list names. -/
def fetching (pins : List Pin) (srcs : List (VAddr × Nat × Bool)) : Task :=
  { recAddr := 0x1400, launch := none, prio := 1, phase := .fetching, pins, raw := (entryRec false).raw, srcs }

/-- Core 0 holds the entry of the record, and one of an older one, in deque 0. -/
def queued (s : State) (e : Event) : State :=
  event (core0 s fun c => { c with deques := #v[[{ recAddr := 0x1480, prio := 0 }, { recAddr := 0x1400, prio := 0 }], [], [], []], dqHw := #v[2, 0, 0, 0] }) e

theorem witness_TasksAreDispatchedStolenAndBalanced :
    (∃ (s u : State) (L : Fin 6144) (c : Nat) (e : DqEntry) (x : TRec) (rs : List Region) (fs : List Byte) (pins : List Pin) (m : Nat),
      (s.ev = .taskDispatch L ∧ taskCtx s L = some c ∧ restarted s c L = none ∧ (s.core L).ahead < (s.core L).aheadMax ∧
        hasEntry s L = true ∧ (u.core L).task? e.recAddr = none) ∧
        pick s c L ((s.core L).order false) = (u, some e) ∧
        let v := (spillAll u L).modCore L fun k => { k with tasks := k.tasks ++
          [{ recAddr := e.recAddr, launch := u.launchOf e.recAddr, prio := BitVec.ofNat 2 e.eff, phase := .dispatching,
             book := u.bookOf (u.launchOf e.recAddr) }] }
        let w := setRecState v c e.recAddr 3
        readTask w c L e.recAddr = .ok (x, rs, fs) ∧ placeOn w c L rs = some (pins, m)) ∧
      (∃ (s u : State) (L : Fin 6144) (r : VAddr) (k : Task) (c : Nat),
        s.ev = .footprintFetchDone L r ∧ (s.core L).task? r = some k ∧ k.phase = .fetching ∧ s.ctxOfCore L = some c ∧ enginesHeld s L = false ∧
          fetchRegions s L k.srcs k.pins = .ok (u, false) ∧ (s.core L).fibres.length < fibreLimit s L ∧ (u.core L).rqUse < 256 ∧
          (u.core L).fibres.length < 4094) ∧
      (∃ (s : State) (L : Fin 6144) (r : VAddr) (k : Task) (c : Nat) (cause : Cause) (a b : Word) (g : Bool),
        s.ev = .footprintFetchFault L r ∧ (s.core L).task? r = some k ∧ k.phase = .fetching ∧ s.ctxOfCore L = some c ∧ enginesHeld s L = false ∧
          fetchRegions s L k.srcs k.pins = .error (.trap cause a b g)) ∧
      (∀ found : Bool, ∃ (s : State) (thief victim : Fin 6144),
        s.ev = .stealRequest thief victim ∧ nextVictim s thief = some victim.val ∧ thief ≠ victim ∧
          (((s.core victim).order true).find? fun x => chargesFit s (s.ctxNum thief) thief (queuedFootprint s (s.ctxNum thief) victim x.2.2.recAddr)).isSome = found) ∧
      (∃ (s : State) (thief : Fin 6144) (e : DqEntry), s.ev = .stealReply thief ∧ (s.core thief).stealIn = some (some e) ∧ Unspilled (s.core thief)) ∧
      (∃ (s : State) (L : Fin 6144) (c m : Nat) (e : DqEntry) (l : List DqEntry),
        s.ev = .balanceStep L ∧ taskCtx s L = some c ∧ (s.core L).deques = #v[l ++ [e], [], [], []] ∧
          Unspilled (s.core L) ∧ (l ++ [e]).all (fun x => holdable s c (queuedFootprint s c L x.recAddr)) = true ∧ (l.all fun x => x.recAddr != e.recAddr) = true ∧
          shallowest s 0 (neighbours s c L) = some m ∧ m ≠ L.val ∧ (s.core L).bal.extractLsb' 0 8 ≠ 0 ∧
          ((s.core m).dq 0).length + ((s.core L).bal.extractLsb' 0 8).toNat < l.length + 1) ∧
      ∃ (s : State) (L : Fin 6144) (e : DqEntry) (r : List DqEntry), s.ev = .balanceEntryArrive L ∧ (s.core L).balIn = e :: r ∧
        Unspilled (s.core L) := by
  have some_of {α : Type} (o : Option α) (h : o.isSome = true) : ∃ x, o = some x := Option.isSome_iff_exists.1 h
  let tasks (s : State) (k : Task) (e : Event) : State := event (core0 s fun c => { c with tasks := [k] }) e
  refine ⟨?_, ⟨tasks (recorded false) (fetching [] []) (.footprintFetchDone 0 0x1400), tasks (recorded false) (fetching [] []) (.footprintFetchDone 0 0x1400), 0,
      0x1400, fetching [] [], 0, rfl, by decide +kernel, rfl, by decide +kernel, by decide +kernel, rfl, by decide +kernel⟩,
    ⟨tasks base (fetching [{ scratch := false, off := 0x800, len := 64 }] [(0x5000, 64, false)]) (.footprintFetchFault 0 0x1400), 0, 0x1400,
      fetching [{ scratch := false, off := 0x800, len := 64 }] [(0x5000, 64, false)], 0, 0x040, 0x5000, 0, false, ?_⟩,
    fun found => ?_,
    ⟨event (core0 base fun c => { c with stealIn := some (some { recAddr := 0x1400, prio := 3 }) }) (.stealReply 0), 0, { recAddr := 0x1400, prio := 3 },
      by simp only [Unspilled]; decide +kernel⟩,
    ⟨core0 (queued base (.balanceStep 0)) fun c => { c with bal := 0x201 }, 0, 0, 1, { recAddr := 0x1400, prio := 0 }, [{ recAddr := 0x1480, prio := 0 }],
      by simp only [Unspilled]; decide +kernel⟩,
    ⟨event (core0 base fun c => { c with balIn := [{ recAddr := 0x1400, prio := 1 }] }) (.balanceEntryArrive 0), 0, { recAddr := 0x1400, prio := 1 }, [],
      by simp only [Unspilled]; decide +kernel⟩⟩
  · let s := queued (recorded false) (.taskDispatch 0)
    let e : DqEntry := { recAddr := 0x1480, prio := 0 }
    let u := (pick s 0 0 ((s.core 0).order false)).1
    let v := (spillAll u 0).modCore 0 fun k => { k with tasks := k.tasks ++
      [{ recAddr := e.recAddr, launch := u.launchOf e.recAddr, prio := BitVec.ofNat 2 e.eff, phase := .dispatching,
         book := u.bookOf (u.launchOf e.recAddr) }] }
    let w := setRecState v 0 e.recAddr 3
    have hp : (pick s 0 0 ((s.core 0).order false)).2 = some e := by decide +kernel
    have ⟨⟨x, rs, fs⟩, h⟩ := ok_of (r := readTask w 0 0 e.recAddr) (by decide +kernel)
    have hr : (match readTask w 0 0 e.recAddr with | .ok y => y.2.1 | .error _ => []) = [] := by decide +kernel
    have hn : rs = [] := by rw [h] at hr; exact hr
    have ⟨⟨pins, m⟩, hq⟩ := some_of (placeOn w 0 0 []) (by decide +kernel)
    exact ⟨s, u, 0, 0, e, x, rs, fs, pins, m, by decide +kernel, Prod.ext rfl hp, h, hn ▸ hq⟩
  · simp only [error_iff]; decide +kernel
  · let s (l : List DqEntry) : State := event (base.modCore 1 fun c => { c with announced := true, deques := #v[l, [], [], []] }) (.stealRequest 0 1)
    cases found
    · exact ⟨fib2 (core0 (s []) fun c => { c with slots := Vector.replicate 6 none }) fun f => { f with status := .parked }, 0, 1, by decide +kernel⟩
    · exact ⟨fib2 (core0 (s [{ recAddr := 0x1400, prio := 0 }]) fun c => { c with slots := Vector.replicate 6 none }) fun f => { f with status := .parked },
        0, 1, by decide +kernel⟩

/-- A book entry of one task at 0x1400 without rings, and a running book of it. -/
def entry0 (sop : BitVec 2) : BookEntry := { mb := 0, stage := 0, kind := 0, sop, slot := 0, up := 15, dn := 15, upn := 0, dnn := 0, graph := 0x1400, ntask := 1 }
def book0 (b : Book) (e : Event) : State := event (base.modDie 0 fun d => { d with book := b }) e
def bookRun (sop : BitVec 2) : Book := { state := .run, entries := [entry0 sop], infl := 1 }

theorem witness_BooksAdvance :
    (∃ (s : State) (d : Fin 8), s.ev = .bookCtlGo d ∧ s.recovery = false) ∧ (∃ (s : State) (d : Fin 8), s.ev = .bookCtlPause d ∧ s.recovery = false) ∧
    (∃ (s : State) (d : Fin 8),
      let b := (s.die d).book
      s.ev = .bookCtlClear d ∧ s.recovery = false ∧ (b.state = .ready ∨ ((b.state = .held ∨ b.state = .done ∨ b.state = .fault) ∧ b.flight = []))) ∧
      (∃ (s : State) (d : Fin 8),
        let b := (s.die d).book
        s.ev = .bookCtlClear d ∧ s.recovery = false ∧ ¬(b.state = .ready ∨ ((b.state = .held ∨ b.state = .done ∨ b.state = .fault) ∧ b.flight = []))) ∧
      (∃ (s : State) (d : Fin 8) (e : BookEntry) (k : Nat),
        let b := (s.die d).book
        s.ev = .bookAdvance d ∧ (s.launches.find? fun l => b.flight.any (·.1 == l.id) && !l.unread.isEmpty) = none ∧ b.state = .run ∧
          b.entries[b.pos]? = some e ∧ b.stall e = some k) ∧
      (∀ sop ∈ ([0, 1, 3] : List (BitVec 2)), ∃ (s : State) (d : Fin 8) (e : BookEntry),
        let b := (s.die d).book
        (s.ev = .bookAdvance d ∧ (s.launches.find? fun l => b.flight.any (·.1 == l.id) && !l.unread.isEmpty) = none ∧ b.state = .run ∧
          b.entries[b.pos]? = some e ∧ b.stall e = none ∧ (e.sop = 1 → b.stash.getLsbD e.slot.toNat = false) ∧
          (2 ≤ e.sop → b.stash.getLsbD e.slot.toNat = true)) ∧ e.sop = sop ∧
          let u := s.modDie d fun x => { x with book := x.book.take e }
          entryReadable u b.ctx.toNat e = true) ∧
      (∀ sop : BitVec 2, ∃ (s : State) (d : Fin 8) (i n : Nat) (e : BookEntry) (l : Launch),
        let b := (s.die d).book
        s.ev = .bookLaunchComplete d i ∧ b.flight.find? (·.1 == i) = some (i, n) ∧ b.entries[n]? = some e ∧ e.sop = sop ∧
          s.launches.find? (·.id == i) = some l ∧ l.unread = [] ∧ l.tasks = [] ∧ l.failed = 0) ∧
      (∀ loop : Bool, ∃ (s : State) (d : Fin 8),
        let b := (s.die d).book
        s.ev = .bookTableEnd d ∧ b.state = .run ∧ b.pos = b.entries.length ∧ b.flight = [] ∧ b.donea = 0 ∧ b.loop = loop) ∧
      (∃ (s : State) (d : Fin 8) (j : Nat) (r : List Nat),
        s.ev = .bookNotice d none ∧ (s.die d).book.notices = j :: r ∧ j < 8) ∧
      ∃ (s : State) (d : Fin 8) (id : CoreId) (off : BitVec 16) (down : Bool) (j : Nat),
        s.ev = .bookNotice d (some (id, off, down)) ∧ (s.die d).book.ringIdx id off.toNat down = some j ∧ j < 8 := by
  let flying (sop : BitVec 2) : State :=
    let t : BookTask := { die := 0, entry := 0, kind := 0, sop, slot := 0, stage := 0, mb := 0, step := 0 }
    { book0 { bookRun sop with flight := [(1, 0)], pos := 1 } (.bookLaunchComplete 0 1) with launches := [{ id := 1, ctx := 0, owner := .book 0 t }] }
  refine ⟨⟨book0 {} (.bookCtlGo 0), 0, by decide +kernel⟩, ⟨book0 {} (.bookCtlPause 0), 0, by decide +kernel⟩,
    ⟨book0 { state := .done } (.bookCtlClear 0), 0, by decide +kernel⟩, ⟨book0 { state := .held, flight := [(1, 0)] } (.bookCtlClear 0), 0, by decide +kernel⟩,
    ⟨book0 { bookRun 0 with infl := 0 } (.bookAdvance 0), 0, entry0 0, 0, by decide +kernel⟩,
    fun sop h => ⟨book0 { bookRun sop with stash := if sop = 3 then 1 else 0 } (.bookAdvance 0), 0, entry0 sop, ?_⟩,
    fun sop => ⟨flying sop, 0, 1, 0, entry0 sop, { id := 1, ctx := 0, owner := .book 0 { die := 0, entry := 0, kind := 0, sop, slot := 0, stage := 0, mb := 0, step := 0 } }, ?_⟩,
    fun loop => ⟨book0 { state := .run, loop } (.bookTableEnd 0), 0, ?_⟩,
    ⟨book0 { state := .run, notices := [7, 1] } (.bookNotice 0 none), 0, 7, [1], by decide +kernel⟩,
    ⟨book0 { state := .run, rings := [{ core := 8, off := 0x40, down := true }] } (.bookNotice 0 (some (8, 0x40, true))), 0, 8, 0x40, true, 0, by decide +kernel⟩⟩
  · revert sop; decide +kernel
  · revert sop; decide +kernel
  · cases loop <;> decide +kernel

/-- Context 0 with submission queue 0 and completion queue 0. -/
def queues (y : SubQ) (z : CompQ) (e : Event) : State := event (base.modCtx 0 fun x => { x with sqs := [(0, y)], cqs := [(0, z)] }) e
def openCq : CompQ := { en := true, log2 := 4, vec := 1 }
/-- An enabled queue with one packet to read. -/
def oneSq : SubQ := { en := true, log2 := 3, tail := 1 }
/-- A packet of queue 0. -/
def packet (kind : BitVec 8) (w : Vector Word 6) (issued : Bool) : Packet :=
  { id := 1, q := 0, stamp := 0, kind, order := false, quiet := false, tag := 0, body := w, issued }
def packeted (p : Packet) (e : Event) : State := (queues oneSq openCq e).modCtx 0 fun x => { x with packets := [p] }

theorem witness_QueuesAreEnabledAndRead :
    (∀ ok : Bool, ∃ (s : State) (c : Fin 48) (q : Fin 64) (v : Word), s.ev = .sqEnable c q .both v ∧ s.recovery = false ∧ ((s.ctx c).sq q).en = false ∧
      decide (3 ≤ (v.extractLsb' 7 4).toNat ∧ ((s.ctx c).cq (v.extractLsb' 3 4).toNat).en = true) = ok) ∧
      (∃ (s : State) (c : Fin 48) (q : Fin 64) (lane : Lane) (v : Word), s.ev = .sqDisable c q lane v ∧ s.recovery = false ∧ ((s.ctx c).sq q).en = true ∧ lane ≠ .high) ∧
      (∃ (s : State) (c : Fin 48) (q : Fin 64), s.ev = .sqResume c q ∧ s.recovery = false ∧ ((s.ctx c).sq q).en = true) ∧
      (∀ ok : Bool, ∃ (s : State) (c : Fin 48) (q : Fin 16) (v : Word),
        let y := (s.ctx c).cq q
        s.ev = .cqEnable c q .both v ∧ s.recovery = false ∧ y.en = false ∧ y.held = [] ∧ decide (4 ≤ (v.extractLsb' 1 4).toNat ∧ v.extractLsb' 5 11 ≠ 0) = ok) ∧
      (∀ ok : Bool, ∃ (s : State) (c : Fin 48) (v : Word), s.ev = .fqEnable c .both v ∧ s.recovery = false ∧ (s.ctx c).fq.en = false ∧ (s.ctx c).fqHeld = [] ∧
        decide (4 ≤ (v.extractLsb' 1 4).toNat ∧ v.extractLsb' 5 11 ≠ 0) = ok) ∧
      (∃ (s : State) (c : Fin 48) (q : Fin 16) (v : Word) (e : BitVec 128),
        let y := (s.ctx c).cq q
        let z : CompQ := { y with head := v.setWidth 32 }
        s.ev = .cqHeadWrite c q .both v ∧ s.recovery = false ∧ s.Inv ∧ y.held = [e] ∧ z.room = true) ∧
      (∃ (s : State) (c : Fin 48) (v : Word), s.ev = .fqHeadWrite c .both v ∧ s.recovery = false ∧ (s.ctx c).fqHeld = []) ∧
      (∀ ok : Bool, ∃ (s : State) (c : Fin 48) (q : Fin 64) (off : BitVec 18) (v : BitVec 32),
        let y := (s.ctx c).sq q
        s.ev = .kick off 4 v ∧ s.recovery = false ∧ off.toNat = c.val * 0x1000 + q.val * 64 ∧ y.en = true ∧
          decide (y.halt = true ∨ (v - y.head).toNat ≤ 2 ^ y.log2.toNat) = ok ∧ s.Inv ∧ CqRoom s c y.cq.toNat) ∧
      (∀ err same whole : Bool, ∃ (s : State) (c : Fin 48) (q : Fin 64),
        let y := (s.ctx c).sq q
        let b := s.hostRead (y.base.toNat / 4096 * 4096 + 64 * (y.head.toNat % 2 ^ y.log2.toNat)) 64
        let p := (packetOf b s.nextId q).1
        s.ev = .sqPacketRead c q err ∧ canRead s c q = true ∧ y.tries = 0 ∧ s.Inv ∧ CqRoom s c y.cq.toNat ∧
          decide (p.stamp = y.seq ∧ leNat ((b.drop 56).take 2) = y.seq.toNat) = same ∧ (if (packetOf b s.nextId q).2 then bodyCause p else some 0x160).isNone = whole) ∧
      (∀ last : Bool, ∃ (s : State) (c : Fin 48) (q : Fin 64),
        let y := (s.ctx c).sq q
        let b := s.hostRead (y.base.toNat / 4096 * 4096 + 64 * (y.head.toNat % 2 ^ y.log2.toNat)) 64
        let p := (packetOf b s.nextId q).1
        s.ev = .sqStampRetry c q ∧ canRead s c q = true ∧ 1 ≤ y.tries ∧
          ¬(p.stamp = y.seq ∧ leNat ((b.drop 56).take 2) = y.seq.toNat) ∧ decide (y.tries = 64) = last ∧ s.Inv ∧ CqRoom s c y.cq.toNat) ∧
      (∃ (s : State) (c : Fin 48) (q : Fin 64) (p : Packet) (e : Event),
        s.ev = .packetIssueUnblock c q ∧ unblocked s c q = some p ∧ pktEvent c p = some e) ∧
      ∀ ok : Bool, ∃ (s : State) (c : Fin 48) (v : Word), s.ev = .ctxPinqWrite c .both v ∧ s.recovery = false ∧
        decide (256 < (v.extractLsb' 0 9).toNat ∨ 48 < (v.extractLsb' 16 6).toNat) = ok := by
  let read (err same whole : Bool) : State :=
    let s := queues { oneSq with seq := if same then 0 else 5 } openCq (.sqPacketRead 0 0 err)
    if whole then s.wr (hostKey 0) (leBytes 4 0x01030000) else s
  refine ⟨fun ok => ⟨queues {} openCq (.sqEnable 0 0 .both (if ok then 0x180 else 0x100)), 0, 0, if ok then 0x180 else 0x100, ?_⟩,
    ⟨queues oneSq openCq (.sqDisable 0 0 .low 0), 0, 0, .low, 0, by decide +kernel⟩, ⟨queues oneSq openCq (.sqResume 0 0), 0, 0, by decide +kernel⟩,
    fun ok => ⟨queues {} {} (.cqEnable 0 0 .both (if ok then 0x28 else 0x8)), 0, 0, if ok then 0x28 else 0x8, ?_⟩,
    fun ok => ⟨queues {} {} (.fqEnable 0 .both (if ok then 0x28 else 0x26)), 0, if ok then 0x28 else 0x26, ?_⟩,
    ⟨queues {} { openCq with held := [7] } (.cqHeadWrite 0 0 .both 0), 0, 0, 0, 7, ?_⟩,
    ⟨queues {} {} (.fqHeadWrite 0 .both 1), 0, 1, by decide +kernel⟩,
    fun ok => ⟨queues oneSq openCq (.kick 0 4 (if ok then 8 else 9)), 0, 0, 0, if ok then 8 else 9, ?_⟩,
    fun err same whole => ⟨read err same whole, 0, 0, ?_⟩,
    fun last => ⟨queues { oneSq with seq := 5, tries := if last then 64 else 63 } openCq (.sqStampRetry 0 0), 0, 0, ?_⟩,
    ⟨packeted (packet 3 (Vector.replicate 6 0) false) (.packetIssueUnblock 0 0), 0, 0, packet 3 (Vector.replicate 6 0) false, .signalPacket 0 1, by decide +kernel⟩,
    fun ok => ⟨queues {} {} (.ctxPinqWrite 0 .both (if ok then 0x310000 else 0x300100)), 0, if ok then 0x310000 else 0x300100, ?_⟩⟩
  · revert ok; decide +kernel
  · revert ok; decide +kernel
  · revert ok; decide +kernel
  · simp only [inv_iff]; decide +kernel
  · simp only [inv_iff, CqRoom]; revert ok; decide +kernel
  · simp only [inv_iff, CqRoom]; revert err same whole; decide +kernel
  · simp only [inv_iff, CqRoom]; revert last; decide +kernel
  · revert ok; decide +kernel

/-- A packet that can issue, issues: one that HEAD has passed as it was read, and one that HEAD passes now. -/
theorem issuing_of {s : State} {c i kind : Nat} {p : Packet} (h : (s.ctx c).packet? i = some p)
    (k : (decide (p.kind.toNat = kind) && canIssue s c p && !p.late) = true) :
    issuing s c i kind = some (s.setPacket c { p with issued := true }, { p with issued := true }) := by
  simp only [Bool.and_eq_true, decide_eq_true_eq, Bool.not_eq_true'] at k
  simp [issuing, h, k.1.1, k.1.2, k.2]

theorem issuing_late {s : State} {c i kind : Nat} {p : Packet} (h : (s.ctx c).packet? i = some p)
    (k : (decide (p.kind.toNat = kind) && canIssue s c p && p.late) = true) :
    issuing s c i kind = some (passHead (s.setPacket c { p with issued := true }) c p.q, { p with issued := true }) := by
  simp only [Bool.and_eq_true, decide_eq_true_eq] at k
  simp [issuing, h, k.1.1, k.1.2, k.2]

/-- A failure. -/
theorem error_of {ε α : Type} {r : Except ε α} (h : hasOk r = false) : ∃ e, r = .error e := by
  cases r with
  | ok x => cases h
  | error e => exact ⟨e, rfl⟩

/-- A SIGNAL of 7 to the counter at 0x1100, whose line is poisoned or not. -/
def signal7 (flags : Nat) (issued : Bool) : Packet := packet 3 #v[0x1100, BitVec.ofNat 64 (flags * 2 ^ 32 + 7), 0, 0, 0, 0] issued
def signalling (poisoned : Bool) (flags : Nat) : State :=
  { packeted (signal7 flags false) (.signalPacket 0 1) with poison := if poisoned then [0x20100 / 64] else [] }

theorem witness_PacketsDoTheirWork :
    (∃ (s : State) (p : Packet), p.quiet = false ∧ s.Inv ∧ CqRoom s 0 ((s.ctx 0).sq p.q).cq.toNat) ∧
      (∃ (s u : State) (c : Fin 48) (i : Nat) (p : Packet), s.ev = .launchPacket c i ∧ issuing s c i 1 = some (u, p)) ∧
      (∀ tell : Bool, ∃ (s : State) (i c : Nat) (l : Launch) (p : Packet),
        (s.ev = .launchComplete i ∧ s.launch? i = some l ∧ overPacket s l = some (c, p) ∧ (p.w 2 != 0) = tell) ∧
          (tell = true → ∃ d : Loc, s.Inv ∧ s.grants = [] ∧ resolveRange s (noCore c) (p.va 2) 4 .atomic = .ok [(d, 4)] ∧
            resolve s (noCore c) (p.va 2) .atomic = .ok d ∧ s.poisoned d.key 4 = false)) ∧
      (∃ (s u : State) (c : Fin 48) (i : Nat) (p : Packet), s.ev = .copyPacket c i ∧ issuing s c i 2 = some (u, p)) ∧
      (∃ (s : State) (c : Fin 48) (i n : Nat) (p : Packet) (l : Loc),
        s.ev = .copyPacketDone c i ∧ running s c i 2 = some p ∧ p.num 16 8 = n ∧ n ≠ 0 ∧ p.num 24 1 = 1 ∧ s.Inv ∧ s.grants = [] ∧
          s.rangePieces (p.va 1) n = [((p.va 1).toNat, n)] ∧ resolve s (noCore c) (p.va 1) .write = .ok l) ∧
      (∃ (s : State) (c : Fin 48) (i : Nat) (p : Packet),
        s.ev = .copyPacketDone c i ∧ running s c i 2 = some p ∧ pktCopyHeld s c p = true) ∧
      (∃ (s u : State) (c : Fin 48) (i pages : Nat) (p : Packet) (cause : Cause),
        s.ev = .copyPacketDone c i ∧ running s c i 2 = some p ∧ pktCopyHeld s c p = false ∧ copyBody s c p = (u, some (cause, pages))) ∧
      (∀ poisoned : Bool, ∀ flags ∈ ([0, 1, 2, 3] : List Nat), ∃ (s u : State) (c : Fin 48) (i : Nat) (p : Packet) (l : Loc),
        (s.ev = .signalPacket c i ∧ issuing s c i 3 = some (u, p)) ∧ p.num 12 1 = flags ∧ u.Inv ∧ u.grants = [] ∧
          resolveRange u (noCore c) (p.va 0) 4 .atomic = .ok [(l, 4)] ∧ resolve u (noCore c) (p.va 0) .atomic = .ok l ∧
          u.poisoned l.key 4 = poisoned) ∧
      (∃ (s u : State) (c : Fin 48) (i : Nat) (p : Packet), s.ev = .waitPacket c i ∧ issuing s c i 4 = some (u, p)) ∧
      (∃ (s : State) (c : Fin 48) (i : Nat) (p : Packet) (l : Loc), resolveRange s (noCore c) (p.va 0) 4 .read = .ok [(l, 4)] ∧
        running s c i 4 = some p ∧ s.ev = .waitPacketSatisfied c i) ∧
      (∃ (s : State) (c : Fin 48) (i : Nat) (p : Packet), s.ev = .waitPacketTimeout c i ∧ running s c i 4 = some p) ∧
      (∃ (s u : State) (c : Fin 48) (i : Nat) (p : Packet) (cause : Cause),
        s.ev = .mapPacket c i ∧ issuing s c i 5 = some (u, p) ∧ mapBody u c (mapReq u p) = .error cause) ∧
      (∃ (s u : State) (c : Fin 48) (i t : Nat) (p : Packet) (e : Word),
        let m := mapReq u p
        (s.ev = .mapPacket c i ∧ issuing s c i 5 = some (u, p)) ∧ u.Inv ∧ m.unmap = false ∧ m.count = 1 ∧ m.lvl = 0 ∧ m.ps64 = false ∧
          m.ents = [e] ∧ m.va + 4096 ≤ 0xFD * 2 ^ 48 ∧ entryValid u m e = true ∧ tableAt u m.va 4 (u.ctx c).poolBase 0 = .ok (some t) ∧
          pteV (u.rd64 (t + 8 * ptIndex m.va 0)) = false ∧ overQuota (u.ctx c) (useAfter (u.ctx c) m [none]) = false) ∧
      ∃ (s u : State) (c : Fin 48) (i : Nat) (p : Packet) (remote : Option (List (Nat × Nat × Nat))),
        s.ev = .bookPacket c i remote ∧ issuing s c i 6 = some (u, p) := by
  let issue (k : BitVec 8) (w : Vector Word 6) (e : Event) : State := packeted (packet k w false) e
  let done (k : BitVec 8) (w : Vector Word 6) : Packet := packet k w true
  let zero : Vector Word 6 := Vector.replicate 6 0
  let launched (w : Vector Word 6) : State :=
    { packeted (done 1 w) (.launchComplete 5) with launches := [{ id := 5, ctx := 0, owner := .packet 0 1 }] }
  let map (va : Word) : Vector Word 6 := #v[va, 1, 0, 0, 0, 0]
  let mapping (va : Word) : State := (issue 5 (map va) (.mapPacket 0 1)).wr (hostKey 0) (leBytes 8 0x2100F)
  refine ⟨⟨queues oneSq openCq .idle, packet 3 zero false, ?_⟩,
    ⟨issue 1 zero (.launchPacket 0 1), _, 0, 1, _, rfl, issuing_late (p := packet 1 zero false) (by decide +kernel) (by decide +kernel)⟩, fun tell => ?_,
    ⟨issue 2 zero (.copyPacket 0 1), _, 0, 1, _, rfl, issuing_of (p := packet 2 zero false) (by decide +kernel) (by decide +kernel)⟩,
    ⟨packeted (done 2 #v[0x100, 0x1100, 64, 1, 0, 0]) (.copyPacketDone 0 1), 0, 1, 64, done 2 #v[0x100, 0x1100, 64, 1, 0, 0], atMem, ?_⟩,
    ⟨{ packeted (done 2 #v[0x100, 0x1100, 64, 1, 0, 0]) (.copyPacketDone 0 1) with grants := [heldGrant] }, 0, 1, done 2 #v[0x100, 0x1100, 64, 1, 0, 0],
      by decide +kernel⟩, ?_,
    fun poisoned flags hf => ?_,
    ⟨issue 4 zero (.waitPacket 0 1), _, 0, 1, _, rfl, issuing_of (p := packet 4 zero false) (by decide +kernel) (by decide +kernel)⟩,
    ⟨packeted (done 4 #v[0x1100, 7, 0, 0, 0, 0]) (.waitPacketSatisfied 0 1), 0, 1, done 4 #v[0x1100, 7, 0, 0, 0, 0], atMem, ?_⟩,
    ⟨packeted (done 4 zero) (.waitPacketTimeout 0 1), 0, 1, done 4 zero, by decide +kernel⟩, ?_, ?_,
    ⟨issue 6 zero (.bookPacket 0 1 none), _, 0, 1, _, none, rfl, issuing_late (p := packet 6 zero false) (by decide +kernel) (by decide +kernel)⟩⟩
  · simp only [inv_iff, CqRoom]; decide +kernel
  · cases tell
    · exact ⟨launched zero, 5, 0, { id := 5, ctx := 0, owner := .packet 0 1 }, done 1 zero, by decide +kernel, fun h => by cases h⟩
    · refine ⟨launched #v[0, 0, 0x1100, 0, 0, 0], 5, 0, { id := 5, ctx := 0, owner := .packet 0 1 }, done 1 #v[0, 0, 0x1100, 0, 0, 0], by decide +kernel,
        fun _ => ⟨atMem, ?_⟩⟩
      simp only [inv_iff, ok_iff]; decide +kernel
  · simp only [inv_iff, ok_iff]; decide +kernel
  · let s := packeted (done 2 #v[0x100, 0x5000, 64, 1, 0, 0]) (.copyPacketDone 0 1)
    have h : (copyBody s 0 (done 2 #v[0x100, 0x5000, 64, 1, 0, 0])).2 = some (0x041, 0) := by decide +kernel
    exact ⟨s, _, 0, 1, 0, done 2 #v[0x100, 0x5000, 64, 1, 0, 0], 0x041, rfl, by decide +kernel, by decide +kernel, Prod.ext rfl h⟩
  · refine ⟨signalling poisoned flags, _, 0, 1, _, atMem, ⟨rfl, issuing_of (p := signal7 flags false) ?_ ?_⟩, ?_⟩
    · revert flags poisoned; decide +kernel
    · revert flags poisoned; decide +kernel
    · simp only [inv_iff, ok_iff]; revert flags poisoned; decide +kernel
  · simp only [ok_iff]; decide +kernel
  · let s := issue 5 (map 0x1000) (.mapPacket 0 1)
    have ⟨cause, h⟩ := error_of (r := mapBody (passHead (s.setPacket 0 (done 5 (map 0x1000))) 0 0) 0 (mapReq (passHead (s.setPacket 0 (done 5 (map 0x1000))) 0 0) (done 5 (map 0x1000)))) (by decide +kernel)
    exact ⟨s, _, 0, 1, _, cause, rfl, issuing_late (p := packet 5 (map 0x1000) false) (by decide +kernel) (by decide +kernel), h⟩
  · refine ⟨mapping 0x2000, _, 0, 1, placePool + 0x4000, _, 0x2100F,
      ⟨rfl, issuing_late (p := packet 5 (map 0x2000) false) (by decide +kernel) (by decide +kernel)⟩, ?_⟩
    simp only [inv_iff, ok_iff]; decide +kernel

/-- Context 0 changed. -/
def ctx0 (s : State) (e : Event) (f : Ctx → Ctx) : State := event (s.modCtx 0 f) e

/-- Fibre 2 is parked by a trap at 0x1000 that went to the host. -/
def trap0x : TrapInfo := { cause := 0x0E0, pc := 0x1000 }
def parked2 (e : Event) : State := event (fib2 base fun f => { f with status := .parked, trap := some trap0x }) e

/-- The same with its trap at the head of the urgent handler's queue. -/
def urgent2 (e : Event) : State := event (core0 (parked2 .idle) fun c => { c with trapQ := [2] }) e

theorem witness_ContextsStopAndTrapsAreResolved :
    (∀ may : Bool, ∃ (s : State) (c : Fin 48) (lane : Lane) (v : Word), s.ev = .ctxEnable c lane v ∧ s.recovery = false ∧ lane ≠ .high ∧ v.getLsbD 0 = true ∧
      (s.ctx c).en = false ∧ mayEnable s c = may ∧ s.Inv) ∧
      (∀ en stopped : Bool, ∃ (s : State) (c : Fin 48), s.ev = .ctxDisable c ∧ s.recovery = false ∧ (s.ctx c).en = en ∧ (s.ctx c).stopped = stopped ∧ dumpPending s c = false) ∧
      (∃ (s : State) (c : Fin 48) (r : Cause), s.ev = .gangStop c r ∧ (s.ctx c).en = true ∧ (s.ctx c).stopped = false ∧ (s.ctx c).stopping = false) ∧
      (∃ s : State, s.ev = .ctxGctlStop 0 ∧ s.recovery = false) ∧
      (∃ (s : State) (c : Fin 48), s.ev = .gangStopDrained c ∧ (s.ctx c).stopping = true ∧ drained s c = true ∧ (s.ctx c).disabling = false) ∧
      (∃ (s : State) (c : Fin 48), s.ev = .ctxGctlResume c ∧ s.recovery = false ∧ ((s.ctx c).reasons = [] ∨ (s.ctx c).reason ≠ 0x156)) ∧
      (∃ (s : State) (c : Fin 48), s.ev = .ctxGctlResume c ∧ s.recovery = false ∧ (s.ctx c).reasons = [0x156] ∧ (s.ctx c).reason = 0x156) ∧
      (∃ s t u v : State,
        (s.ev = .ctxFcmdReplay 0 0 2 ∧ s.recovery = false ∧ hostParked s 0 0 2 = none) ∧ (t.ev = .ctxFcmdSkip 0 0 2 ∧ t.recovery = false ∧ hostParked t 0 0 2 = none) ∧
          (u.ev = .ctxFcmdRestart 0 0 2 ∧ u.recovery = false ∧ hostParked u 0 0 2 = none) ∧ (v.ev = .ctxFcmdFail 0 0 2 ∧ v.recovery = false ∧ hostParked v 0 0 2 = none)) ∧
      (∃ (s t u v : State) (x : TrapInfo),
        (s.ev = .ctxFcmdReplay 0 0 2 ∧ s.recovery = false ∧ hostParked s 0 0 2 = some 0 ∧ ((s.core 0).fib 2).trap = some x) ∧
          (t.ev = .ctxFcmdSkip 0 0 2 ∧ t.recovery = false ∧ hostParked t 0 0 2 = some 0 ∧ ((t.core 0).fib 2).trap = some x) ∧
          (u.ev = .ctxFcmdRestart 0 0 2 ∧ u.recovery = false ∧ hostParked u 0 0 2 = some 0 ∧ ((u.core 0).fib 2).trap = some x) ∧
          (v.ev = .ctxFcmdFail 0 0 2 ∧ v.recovery = false ∧ hostParked v 0 0 2 = some 0 ∧ ((v.core 0).fib 2).trap = some x)) ∧
      (∃ s t u v : State,
        (s.ev = .coreTactReplay 0 ∧ s.recovery = false ∧ (s.core 0).trapQ = []) ∧ (t.ev = .coreTactSkip 0 ∧ t.recovery = false ∧ (t.core 0).trapQ = []) ∧
          (u.ev = .coreTactRestart 0 ∧ u.recovery = false ∧ (u.core 0).trapQ = []) ∧ (v.ev = .coreTactFail 0 ∧ v.recovery = false ∧ (v.core 0).trapQ = [])) ∧
      ∃ (s t u v : State) (x : TrapInfo),
        (s.ev = .coreTactReplay 0 ∧ s.recovery = false ∧ (s.core 0).trapQ = [2] ∧ ((s.core 0).fib 2).trap = some x) ∧
          (t.ev = .coreTactSkip 0 ∧ t.recovery = false ∧ (t.core 0).trapQ = [2] ∧ ((t.core 0).fib 2).trap = some x) ∧
          (u.ev = .coreTactRestart 0 ∧ u.recovery = false ∧ (u.core 0).trapQ = [2] ∧ ((u.core 0).fib 2).trap = some x) ∧
          (v.ev = .coreTactFail 0 ∧ v.recovery = false ∧ (v.core 0).trapQ = [2] ∧ ((v.core 0).fib 2).trap = some x) := by
  refine ⟨fun may => ⟨ctx0 base (.ctxEnable 0 .low 1) fun x => { x with en := false, ptPool := if may then 0x10004 else 0x10000 }, 0, .low, 1, ?_⟩,
    fun en stopped => ⟨ctx0 base (.ctxDisable 0) fun x => { x with en, stopped }, 0, ?_⟩, ⟨event base (.gangStop 0 0x156), 0, 0x156, by decide +kernel⟩,
    ⟨event base (.ctxGctlStop 0), by decide +kernel⟩, ⟨ctx0 base (.gangStopDrained 0) fun x => { x with stopping := true, reasons := [0x156] }, 0, by decide +kernel⟩,
    ⟨event base (.ctxGctlResume 0), 0, by decide +kernel⟩,
    ⟨ctx0 base (.ctxGctlResume 0) fun x => { x with stopped := true, reasons := [0x156], reason := 0x156 }, 0, by decide +kernel⟩,
    ⟨event base (.ctxFcmdReplay 0 0 2), event base (.ctxFcmdSkip 0 0 2), event base (.ctxFcmdRestart 0 0 2), event base (.ctxFcmdFail 0 0 2), by decide +kernel⟩,
    ⟨parked2 (.ctxFcmdReplay 0 0 2), parked2 (.ctxFcmdSkip 0 0 2), parked2 (.ctxFcmdRestart 0 0 2), parked2 (.ctxFcmdFail 0 0 2), trap0x, by decide +kernel⟩,
    ⟨event base (.coreTactReplay 0), event base (.coreTactSkip 0), event base (.coreTactRestart 0), event base (.coreTactFail 0), by decide +kernel⟩,
    ⟨urgent2 (.coreTactReplay 0), urgent2 (.coreTactSkip 0), urgent2 (.coreTactRestart 0), urgent2 (.coreTactFail 0), trap0x, by decide +kernel⟩⟩
  · simp only [inv_iff]; revert may; decide +kernel
  · revert en stopped; decide +kernel

/-- Cluster 0 changed. -/
def clu0 (s : State) (e : Event) (f : Cluster → Cluster) : State := event (s.modCluster 0 f) e

/-- Dumps of context 0: one that runs, and one that is queued. -/
def dumping (len : Nat) (e : Event) : State := { event base e with dump := { busy := true, base := 0x1000, len } }
def dumpDue (e : Event) : State := { ctx0 base e (fun x => { x with stopped := true }) with dump := { queue := [(0, 0x170, 0)] } }

theorem witness_FatalFaultsDumpsAndHalts :
    (∀ busy queued : Bool, ∃ (s : State) (c : Fin 48) (cause : Cause) (core : CoreId), s.ev = .fatalFault c cause core ∧
      decide (s.dump.busy = true ∧ s.dump.ctx.toNat = c.val) = busy ∧ s.dump.queue.any (·.1 == c.val) = queued ∧ (s.ctx c).drain = none ∧
      (s.ctx c).en = true) ∧
      (∃ (s : State) (c : Nat) (cause : Cause) (core : CoreId) (r : List (Nat × Cause × CoreId)),
        s.ev = .dumpStart ∧ s.dump.queue = (c, cause, core) :: r ∧ c < 48 ∧ s.dump.busy = false ∧ (s.ctx c).stopped = true) ∧
      (∃ s : State, s.ev = .dumpComplete ∧ s.dump.busy = true ∧ s.dump.len = 0) ∧
      (∃ s u : State, s.ev = .dumpComplete ∧ s.dump.busy = true ∧ s.dump.len ≠ 0 ∧ (s.ctx s.dump.ctx.toNat).fqHeld = [] ∧
        (s.ctx s.dump.ctx.toNat).fq.room = false ∧
        writePoisoned s (noCore s.dump.ctx.toNat) (BitVec.ofNat 56 s.dump.base) ((dumpImage s).1.1.take s.dump.len) ((dumpImage s).1.2.take s.dump.len) = .ok u) ∧
      (∀ hnd busy : Bool, ∃ (s : State) (L : Fin 6144) (slot : Fin 8) (f i : Nat),
        s.ev = .pcMatchFire L slot ∧ ReadyWorker s L slot f ∧ ((s.core L).fib f).noMatch = false ∧
          matchPoint (s.core L) ((s.core L).slotPc slot) = some i ∧ i < 16 ∧ ((s.core L).pmhnd.getD i 0 &&& 0xFFFFFFFFFFFFFE != 0) = hnd ∧
          (s.core L).handler.isSome = busy) ∧
      (∀ halt : Bool, ∃ (s : State) (L : Fin 6144) (slot : Fin 8) (f : Nat) (w : Word),
        s.ev = .clusterBreakpoint L slot ∧ ReadyWorker s L slot f ∧
          ((s.cluster (clusterOf L)).bp.toList.find? fun w => w.getLsbD 0 && w.extractLsb' 1 55 == ((s.core L).slotPc slot).extractLsb' 1 55) = some w ∧
          w.getLsbD 56 = halt ∧ (s.cluster (clusterOf L)).halted = false ∧ (s.cluster (clusterOf L)).halting = false) ∧
      (∀ st halt : Bool, ∃ (s : State) (L : Fin 6144) (slot : Fin 8) (f : Nat) (g : BitVec 53) (w : Word),
        s.ev = .clusterWatchpoint L slot g st ∧ ReadyWorker s L slot f ∧ s.cur.core = L.val ∧ s.cur.slot = slot.val ∧
          ((s.cluster (clusterOf L)).wp.toList.find? fun w => w.extractLsb' 3 53 == g && w.getLsbD (if st then 57 else 56)) = some w ∧
          w.getLsbD 58 = halt ∧ (s.cluster (clusterOf L)).halted = false ∧ (s.cluster (clusterOf L)).halting = false) ∧
      (∃ (s : State) (k : Fin 48), s.ev = .cluDbgctlHalt k ∧ s.recovery = false ∧ (s.cluster k).halted = false ∧ (s.cluster k).halting = false) ∧
      (∀ halted : Bool, ∃ (s t : State) (k : Fin 48), s.ev = .clusterHalt k 0x140 8 ∧ (s.cluster k).halted = halted ∧ (s.cluster k).halting = false ∧
        t.ev = .cluDbgctlResume k ∧ t.recovery = false ∧ (t.cluster k).halted = halted ∧ (t.cluster k).halting = false) ∧
      (∃ (s : State) (L : Fin 6144) (f : Fibre), s.ev = .replayStop L ∧ replayHit s L = some f ∧ (s.cluster (clusterOf L)).halted = false ∧
        (s.cluster (clusterOf L)).halting = false) ∧
      ∃ (s : State) (k : Fin 48), s.ev = .traceSample k ∧ (s.cluster k).traces 1 = false := by
  let matched (hnd busy : Bool) : State :=
    event (core0 (fib2 base fun f => { f with noMatch := false }) fun c => { c with
      pmpc := c.pmpc.set 15 0x1001, pmhnd := c.pmhnd.set 15 (if hnd then 0x2000 else 0), handler := if busy then some 3 else none }) (.pcMatchFire 0 1)
  let bp (halt : Bool) : State :=
    clu0 base (.clusterBreakpoint 0 1) fun k => { k with bp := k.bp.set 7 (if halt then 0x0100000000001001 else 0x1001) }
  let wp (st halt : Bool) : State :=
    clu0 base (.clusterWatchpoint 0 1 0x220 st) fun k => { k with
      wp := k.wp.set 3 ((if halt then 0x0400000000001100 else 0x1100) + if st then 0x0200000000000000 else 0x0100000000000000) }
  refine ⟨fun busy queued => ⟨{ event base (.fatalFault 0 0x173 0) with dump := { busy, queue := if queued then [(0, 0x170, 0)] else [] } }, 0, 0x173, 0, ?_⟩,
    ⟨dumpDue .dumpStart, 0, 0x170, 0, [], by decide +kernel⟩, ⟨dumping 0 .dumpComplete, by decide +kernel⟩, ?_,
    fun hnd busy => ⟨matched hnd busy, 0, 1, 2, 15, ?_⟩, fun halt => ⟨bp halt, 0, 1, 2, if halt then 0x0100000000001001 else 0x1001, ?_⟩,
    fun st halt => ⟨wp st halt, 0, 1, 2, 0x220,
      (if halt then 0x0400000000001100 else 0x1100) + if st then 0x0200000000000000 else 0x0100000000000000, ?_⟩,
    ⟨event base (.cluDbgctlHalt 0), 0, by decide +kernel⟩,
    fun halted => ⟨clu0 base (.clusterHalt 0 0x140 8) fun k => { k with halted }, clu0 base (.cluDbgctlResume 0) fun k => { k with halted }, 0, ?_⟩,
    ?_,
    ⟨event base (.traceSample 0), 0, by decide +kernel⟩⟩
  · revert busy queued; decide +kernel
  · have ⟨u, h⟩ := ok_of (r := writePoisoned (dumping 0x1000 .dumpComplete) (noCore (dumping 0x1000 .dumpComplete).dump.ctx.toNat)
      (BitVec.ofNat 56 (dumping 0x1000 .dumpComplete).dump.base) ((dumpImage (dumping 0x1000 .dumpComplete)).1.1.take (dumping 0x1000 .dumpComplete).dump.len)
      ((dumpImage (dumping 0x1000 .dumpComplete)).1.2.take (dumping 0x1000 .dumpComplete).dump.len)) (by decide +kernel)
    exact ⟨dumping 0x1000 .dumpComplete, u, both5 (by decide +kernel) h⟩
  · simp only [ReadyWorker]; revert hnd busy; decide +kernel
  · simp only [ReadyWorker]; revert halt; decide +kernel
  · simp only [ReadyWorker]; revert st halt; decide +kernel
  · revert halted; decide +kernel
  · let s := clu0 (tasked.wr 0x20500 (List.replicate 128 0)) (.replayStop 0) fun k => { k with rptask := 0x1501 }
    have ⟨f, h⟩ := Option.isSome_iff_exists.1 (show (replayHit s 0).isSome = true by decide +kernel)
    exact ⟨s, 0, f, rfl, h, by decide +kernel⟩

/-- A move of the page at 0x20000 to die 1, with `moved` bytes done; and die 0 with it. -/
def move0 (moved : Nat) : Migration :=
  { ctx := 0, va := 0x1000, src := 0x20000, dst := 0x10020000, size := 4096, moved, leaf := placePool + 0x4008 }
def moving (moved : Nat) (e : Event) : State := event (base.modDie 0 fun d => { d with mig := some (move0 moved) }) e

theorem witness_PagesMoveAndCoresAreFenced :
    (∃ (s : State) (d : Fin 8), s.ev = .migrationGo d ∧ s.recovery = false ∧ (s.ctx ((s.die d).migVa.extractLsb' 56 6).toNat).en = false) ∧
      (∃ (s : State) (d : Fin 8) (m : Migration), s.ev = .migrationGo d ∧ s.recovery = false ∧ migrationCheck s d = .ok m) ∧
      (∃ (s : State) (d : Fin 8) (m : Migration), s.ev = .migrationLineMove d ∧ s.Inv ∧ (s.die d).mig = some m ∧ m.moved < m.size ∧
        lineDrained s (m.src + m.moved) = true) ∧
      (∀ stands : Bool, ∃ (s : State) (d : Fin 8) (m : Migration), s.ev = .migrationDone d ∧ s.Inv ∧ (s.die d).mig = some m ∧ m.size ≤ m.moved ∧
        leafStands s m = stands ∧ ptePS (s.rd64 m.leaf) = false) ∧
      (∀ last : Bool, ∃ (s : State) (L : Fin 6144) (f : BitVec 12) (g : Grant) (o : AtomicOp) (m : Migration) (p : Plane),
        s.ev = .movedReply L f ∧ s.grants = [g] ∧ g.away = true ∧ g.core = L ∧ g.fibre = f.toNat ∧ g.op = some o ∧ AtomicPlane s g o p ∧
          (s.moves.find? fun m => m.covers false (8 * g.gran)) = some m ∧ decide (4 ≤ g.moved) = last ∧
          o.iss.core = L) ∧
      (∃ (s : State) (L : Fin 6144) (slot : Nat), s.ev = .watchdogExpiry L ∧ wdogSlot s L = some slot) ∧
      (∃ (s : State) (L : Fin 6144) (slot : Fin 8) (o : EngineOp),
        s.ev = .engineHang L slot none ∧ enginesHeld s L = false ∧ (s.core L).vec = some o ∧ o.remote = false ∧ o.iss.slot = slot.val ∧
          o.iss.core = L ∧ o.shadow = false ∧ 2 ≤ o.fibre ∧ ((s.core L).fib o.fibre).task = none) ∧
      (∃ (s : State) (L : Fin 6144) (slot : Fin 8) (tag : Fin 64) (o : CopyOp),
        s.ev = .engineHang L slot (some tag) ∧ enginesHeld s L = false ∧ (s.cluster (clusterOf L)).copies = [o] ∧ o.core = L ∧ o.tag = tag ∧
          o.slot = slot ∧ o.granted = true ∧ o.failed = 0) ∧
      (∀ fenced port : Bool, ∃ (s : State) (L : Fin 6144), s.ev = .coreStateError L port ∧ (s.core L).fenced = fenced) ∧
      (∃ s t : State, (s.ev = .coreFence 0 ∧ (s.core 0).fenced = false) ∧ (t.ev = .coreFence 0 ∧ (t.core 0).fenced = true ∧ (t.core 0).fenceCause = 0)) ∧
      (∃ (s : State) (L : Fin 6144), s.ev = .coreFence L ∧ (s.core L).fenced = true ∧ (s.core L).fenceCause ≠ 0 ∧ (s.core L).portBad = true ∧
        s.writesOpen L = true) ∧
      (∀ bad : Bool, ∃ (s : State) (L : Fin 6144), s.ev = .coreFence L ∧ (s.core L).fenced = true ∧ (s.core L).fenceCause ≠ 0 ∧ (s.core L).portBad = bad ∧
        s.writesOpen L = false ∧ (s.core L).unrestartable = true) ∧
      (∃ (s : State) (L : Fin 6144), s.ev = .coreFence L ∧ (s.core L).fenced = true ∧ (s.core L).fenceCause ≠ 0 ∧ (s.core L).portBad = false ∧
        (s.core L).unrestartable = false ∧ (s.cluster (clusterOf L)).spares = []) ∧
      ∀ isOpen : Bool, ∃ (s : State) (L : Fin 6144) (spare : Nat) (rest : List Nat), s.ev = .coreFence L ∧ (s.core L).fenced = true ∧
        (s.core L).fenceCause ≠ 0 ∧ (s.core L).portBad = false ∧ (s.core L).unrestartable = false ∧ (s.cluster (clusterOf L)).spares = spare :: rest ∧
        s.writesOpen L = isOpen := by
  let asked (n : Nat) : Grant := { granting false (some (atomicOp0 .add)) with away := true, moved := n }
  let fence (s : State) (isOpen bad : Bool) : State :=
    let s := if isOpen then { s with heldWrites := [{ core := some 0, key := 0x20100, bytes := [1] }] } else s
    event (core0 s fun c => { c with fenced := true, fenceCause := 0x127, portBad := bad }) (.coreFence 0)
  let op : EngineOp := { fibre := 2, slot := 1, iss := { core := 0, slot := 1, pc := 0x1000 }, next := 0x1002 }
  refine ⟨⟨event (base.modDie 0 fun d => { d with migVa := 0x0100000000001000 }) (.migrationGo 0), 0, by decide +kernel⟩, ?_,
    ⟨moving 64 (.migrationLineMove 0), 0, move0 64, ?_⟩, fun stands => ⟨(moving 4096 (.migrationDone 0)).modCtx 0 fun x => { x with en := stands }, 0, move0 4096, ?_⟩,
    fun last => ⟨{ moving 0 (.movedReply 0 2) with grants := [asked (if last then 4 else 3)] }, 0, 2, asked (if last then 4 else 3), atomicOp0 .add, move0 0,
      { L := 0, f := 2, sh := false }, ?_⟩,
    ⟨event (base.modDie 0 fun d => { d with cycle := 0x1000000 }) (.watchdogExpiry 0), 0, 1, by decide +kernel⟩,
    ⟨event (core0 base fun c => { c with vec := some op }) (.engineHang 0 1 none), 0, 1, op, by decide +kernel⟩,
    ⟨copying [{ copyOp0 with granted := true }] (.engineHang 0 7 (some 5)), 0, 7, 5, { copyOp0 with granted := true }, by decide +kernel⟩,
    fun fenced port => ⟨event (core0 base fun c => { c with fenced }) (.coreStateError 0 port), 0, ?_⟩,
    ⟨event base (.coreFence 0), event (core0 base fun c => { c with fenced := true }) (.coreFence 0), by decide +kernel⟩,
    ⟨fence base true true, 0, by decide +kernel⟩, fun bad => ⟨fence base false bad, 0, ?_⟩,
    ⟨fence (tasked.modCluster 0 fun k => { k with spares := [] }) false false, 0, by decide +kernel⟩,
    fun isOpen => ⟨fence tasked isOpen false, 0, 16, [33, 50, 67, 84, 101, 118, 135], ?_⟩⟩
  · let s := event (base.modDie 0 fun d => { d with migVa := 0x1000, migDpa := 0x10020000 }) (.migrationGo 0)
    have ⟨m, h⟩ := ok_of (r := migrationCheck s 0) (by decide +kernel)
    exact ⟨s, 0, m, rfl, by decide +kernel, h⟩
  · simp only [inv_iff]; decide +kernel
  · simp only [inv_iff]; revert stands; decide +kernel
  · refine ⟨rfl, rfl, rfl, rfl, rfl, rfl, ⟨rfl, ?_⟩, ?_⟩ <;> revert last <;> decide +kernel
  · revert fenced port; decide +kernel
  · revert bad; decide +kernel
  · revert isOpen; decide +kernel

theorem witness_HostAccessesReachTheirTargets :
    (∃ s : State, s.ev = .barRegisterWrite 0x10080 .both 7 ∧ s.mgmt.boot.extractLsb' 0 2 ≠ 2) ∧
      (∃ (s : State) (off : BitVec 26) (lane : Lane) (x : Slot), s.ev = .rcRegisterRead off lane ∧ s.slotAt off.toNat = some x) ∧
      (∃ (s : State) (bar : Fin 3) (off size : Nat) (w : Option Word), s.ev = .barUnassignedAccess bar off size w ∧ bar ≠ 2 ∧
        barAssigned s bar off size w.isSome = false) ∧
      (∀ some : Bool, ∃ (s : State) (d : Fin 8) (lane : Lane) (w : Option Word), s.ev = .dieCdataAccess d lane w ∧ s.mgmt.boot.extractLsb' 0 2 ≠ 2 ∧
        ((s.die d).selected d).isSome = some ∧ w.isSome = some) ∧
      (∃ (s : State) (off size pa : Nat) (b : List Byte), s.ev = .hostCxlAccess off size (some b) ∧ s.Inv ∧ s.grants = [] ∧ s.heldWrites = [] ∧
        cxlPa s.cxlWin off = some pa ∧ b.length ≤ 64 - off % 64) ∧
      (∃ (s : State) (off size pa : Nat), s.ev = .hostCxlAccess off size none ∧ cxlPa s.cxlWin off = some pa ∧ size ≤ 64 - off % 64) ∧
      (∃ (w : Word) (off : Nat), w.getLsbD 0 = true ∧ off < (w.extractLsb' 4 7).toNat * 2 ^ 30) ∧
      (∃ (s : State) (v : Word), s.ev = .devCxlwinEnable .both v ∧ s.cxlWin.getLsbD 0 = false) ∧
      (∃ (s : State) (w : Fin 64) (v : Word), s.ev = .devPwwinEnable w .both v ∧ (spGet s.pwWins w {}).en = false) ∧
      (∃ (s : State) (req : BitVec 16) (off : BitVec 36) (data : List Byte) (ep : Bool), s.ev = .peerWrite req off data ep ∧ s.pwAt off.toNat = none) ∧
      (∀ mapped : Bool, ∃ (s : State) (req : BitVec 16) (off : BitVec 36) (data : List Byte) (ep : Bool) (x : PwWin),
        let va : VAddr := BitVec.ofNat 56 ((x.va.extractLsb' 20 36).toNat * 2 ^ 20 + off.toNat - x.boff * 2 ^ 20)
        s.ev = .peerWrite req off data ep ∧ s.pwAt off.toNat = some x ∧ s.rangePieces va data.length = [(va.toNat, data.length)] ∧
          (peerHome s x.ctx va.toNat).isSome = mapped ∧ s.Inv ∧ s.grants = [] ∧ s.heldWrites = [] ∧ ep = true ∧ data ≠ []) ∧
      ∃ (s : State) (off : BitVec 36), s.ev = .peerRead off := by
  let cxl (e : Event) : State := { event base e with cxlWin := 0x11 }
  let peer (off : BitVec 36) : State := { event base (.peerWrite 7 off [1, 2] true) with pwWins := [(0, { win := 0x1000001 })] }
  refine ⟨⟨event base (.barRegisterWrite 0x10080 .both 7), by decide +kernel⟩, ?_, ⟨event base (.barUnassignedAccess 0 1 4 none), 0, 1, 4, none, by decide +kernel⟩,
    fun some => ⟨event (base.modDie 0 fun d => { d with csel := if some then 0 else 0x300 }) (.dieCdataAccess 0 .both (if some then Option.some 1 else none)), 0,
      .both, if some then Option.some 1 else none, ?_⟩,
    ⟨cxl (.hostCxlAccess 60 4 (some [1, 2, 3, 4])), 60, 4, 0x1000000003C, [1, 2, 3, 4], ?_⟩,
    ⟨cxl (.hostCxlAccess 64 64 none), 64, 64, 0x10000000040, by decide +kernel⟩, ⟨0x11, 0x3FFFFFFF, by decide +kernel⟩,
    ⟨event base (.devCxlwinEnable .both 0x11), 0x11, by decide +kernel⟩, ⟨event base (.devPwwinEnable 63 .both 0x1000001), 63, 0x1000001, by decide +kernel⟩,
    ⟨event base (.peerWrite 7 0x1100 [1] false), 7, 0x1100, [1], false, by decide +kernel⟩,
    fun mapped => ⟨peer (if mapped then 0x1100 else 0x5000), 7, if mapped then 0x1100 else 0x5000, [1, 2], true, { win := 0x1000001 }, ?_⟩,
    ⟨event base (.peerRead 0), 0, rfl⟩⟩
  · have ⟨x, h⟩ := Option.isSome_iff_exists.1 (show ((event base (.rcRegisterRead 0x10080 .high)).slotAt 0x10080).isSome = true by decide +kernel)
    exact ⟨event base (.rcRegisterRead 0x10080 .high), 0x10080, .high, x, rfl, h⟩
  · revert some; decide +kernel
  · simp only [inv_iff]; decide +kernel
  · simp only [inv_iff]; revert mapped; decide +kernel

/-- A flit with a sequence number, with the CRC of its bytes and without. -/
def flit (seq : BitVec 12) (crc : BitVec 32) : Flit := { payload := 0, seq, ftype := Config.flitType, ack := 0, nak := 0, crc }
def sealed (seq : BitVec 12) : Flit := (flit seq 0).seal

theorem sealed_crc (seq : BitVec 12) : crc32 (sealed seq).covered = (sealed seq).crc := rfl

/-- A flit whose CRC is wrong. -/
def spoilt (f : Flit) : Flit := { f with crc := crc32 f.covered + 1 }

theorem spoilt_crc (f : Flit) : crc32 (spoilt f).covered ≠ (spoilt f).crc := by
  show crc32 f.covered ≠ crc32 f.covered + 1
  generalize crc32 f.covered = x
  exact fun h => by simp at h

theorem flit_type : Config.flitType ≠ Config.flitType + 1 := by
  have (x : BitVec 4) : x ≠ x + 1 := by bv_omega
  exact this _

/-- Port 0 with flits to send again. -/
def port0 (e : Event) (f : Port → Port) : State := event (base.setPort 0 (f { up := true })) e

theorem witness_ResetsLinksAndBudgets :
    (∀ cold : Bool, ∃ s : State, s.reset? = some cold ∧ mayReset s = true) ∧
      (∃ s : State, s.ev = .firmwareBoot none none ∧ s.mgmt.boot.extractLsb' 0 2 = 0 ∧ ∃ f : FwSlot, f.bootable = true ∧ Config.minSvn.toNat ≤ f.svn.toNat) ∧
      (∀ same : Bool, ∃ (s : State) (p : Fin 16) (peer : Word), s.ev = .linkTraining p peer ∧ (s.port p).up = false ∧ (s.port p).failed = false ∧ s.part.getLsbD 26 = true ∧
        edgeInside s p = true ∧ decide (peer = s.part) = same) ∧
      (∃ (s : State) (p : Fin 16) (peer : Word), s.ev = .linkTraining p peer ∧ (s.port p).failed = true) ∧
      (∃ (s : State) (p : Fin 16) (f : Flit), s.ev = .flitReceive p f ∧ (s.port p).up = true ∧ crc32 f.covered ≠ f.crc) ∧
      (∀ seq : Fin 3, ∃ (s : State) (p : Fin 16) (f : Flit), s.ev = .flitReceive p f ∧ (s.port p).up = true ∧ crc32 f.covered = f.crc ∧
        f.ftype ≠ Config.flitType + 1 ∧ (seq = 0 → f.seq = (s.port p).rxSeq + 1)
          ∧ (seq = 1 → f.seq ≠ (s.port p).rxSeq + 1 ∧ ((s.port p).rxSeq - f.seq).toNat = 2047)
          ∧ (seq = 2 → f.seq ≠ (s.port p).rxSeq + 1 ∧ ((s.port p).rxSeq - f.seq).toNat = 2048)) ∧
      (∃ (s : State) (p : Fin 16) (f : Flit), s.ev = .flitReceiveInReset p f ∧ (s.port p).up = true ∧ s.reset?.isSome = true ∧
        crc32 f.covered = f.crc ∧ f.ftype ≠ Config.flitType + 1 ∧ f.seq = (s.port p).rxSeq + 1) ∧
      (∀ app : Bool, ∃ (s : State) (i : Nat) (m : Msg), s.ev = .destinationInResetReport i ∧ (s.outMsgs.take s.linked).find? (·.id == i) = some m ∧
        if app then ∃ ws, m.body = .append ws ∧ s.localCore m.src = some 1 else ∃ va k bs, m.body = .store va k bs) ∧
      (∃ (s : State) (p : Fin 16) (seq : BitVec 12), s.ev = .flitNakReceive p seq ∧ (s.port p).up = true ∧ acked (s.port p).replay seq = []) ∧
      (∀ tries : Fin 18, ∃ (s : State) (p : Fin 16) (seq : BitVec 12), s.ev = .flitNakReceive p seq ∧ (s.port p).up = true ∧
        acked (s.port p).replay seq ≠ [] ∧ (acked (s.port p).replay seq).length = (s.port p).replay.length ∧ (s.port p).tries = tries) ∧
      (∃ (s : State) (p : Fin 16) (seq : BitVec 12), s.ev = .flitAckReceive p seq ∧ (acked (s.port p).replay seq).length < (s.port p).replay.length) ∧
      (∀ route : Bool, ∃ (s : State) (p : Fin 16), s.ev = .portDown p ∧ (s.port p).up = true ∧ (s.port p).tries = 17 ∧
        (usePort (portEvent (s.setPort p { s.port p with up := false, failed := true, replay := [], moved := [], tries := 0 }) p)
          (p.val / 4) (p.val % 4)).isSome = route) ∧
      (∃ (s : State) (p lane : Fin 16) (m : BitVec 8), s.ev = .laneMarginMeasure p lane m ∧ (s.port p).up = true ∧ m.toNat < s.lmthr.toNat ∧
        (s.port p).degr = false ∧ (s.port p).training = none) ∧
      (∃ (s : State) (p lane : Fin 16), s.ev = .laneSwap p ∧ (s.port p).training = some lane) ∧
      (∃ (s : State) (cls : Fin 5) (i : Nat) (v : BitVec 13), s.ev = .budgetPeriodStart cls ∧ s.budgetNext = [(i, v)] ∧ i / 8 = cls) ∧
      (∀ reject : Bool, ∃ (s : State) (cls : Fin 5) (act : Fin 7) (v : Word), s.ev = .modBudgetWrite cls act .both v ∧ s.recovery = false ∧
        decide (s.shareSet (cls.val * 8 + act) < (v.extractLsb' 0 13).toNat ∧
          4096 < ((List.range 7).filter fun a => a != act.val).foldl (fun n a => n + s.shareSet (cls.val * 8 + a)) 0 + (v.extractLsb' 0 13).toNat) = reject) ∧
      (∃ (s : State) (d : Fin 8) (amps : BitVec 12), s.ev = .railThrottle d amps ∧ 2000 ≤ amps.toNat) ∧
      (∃ (s : State) (d : Fin 8), s.ev = .railThrottleEnd d ∧ (s.die d).throttled = true) ∧
      ∀ a ∈ [EccAt.phys 0, .phys 0x10000000000, .phys 0x2000000003F, .tcm 6143 0x3FFFF, .scratch 47 0x3FFFFFF], ∃ s t u : State,
        (eccHome a).isSome = true ∧ s.ev = .scrubRead a (.corrected 5) ∧ t.ev = .scrubRead a .uncorrectable ∧ u.ev = .scrubRead a .clean := by
  let app : Msg := { id := 3, src := 8, dst := 0x10000, ctx := 0, fibre := 2, pc := 0, cycle := 0, body := .append [7] }
  let sent (m : Msg) : State := { event base (.destinationInResetReport 3) with outMsgs := [m], linked := 1 }
  refine ⟨fun cold => ⟨{ base with reset? := some cold }, rfl, by cases cold <;> decide +kernel⟩,
    ⟨{ event base (.firmwareBoot none none) with mgmt := {} }, rfl, by decide +kernel, { image := [], key := [], sig := [], svn := 255, bootable := true }, by have := Config.minSvn.isLt; simp; omega⟩,
    fun same => ⟨{ event base (.linkTraining 4 (if same then 0x5001000 else 0x5001001)) with part := 0x5001000 }, 4, if same then 0x5001000 else 0x5001001, ?_⟩,
    ⟨port0 (.linkTraining 0 0) fun x => { x with up := false, failed := true }, 0, 0, rfl, by decide +kernel⟩,
    ⟨port0 (.flitReceive 0 (spoilt (flit 0 0))) id, 0, spoilt (flit 0 0), rfl, by decide +kernel, spoilt_crc _⟩,
    fun seq => ⟨port0 (.flitReceive 0 (sealed 7)) fun x => { x with rxSeq := [6, 2054, 2055].getD seq.val 0 }, 0, sealed 7, rfl, ?_, sealed_crc 7, flit_type, ?_⟩,
    ⟨{ port0 (.flitReceiveInReset 0 (sealed 0)) id with reset? := some true }, 0, sealed 0, rfl, by decide +kernel, rfl, sealed_crc 0, flit_type, by decide +kernel⟩,
    fun isApp => ?_,
    ⟨port0 (.flitNakReceive 0 5) fun x => { x with replay := [flit 4 0, flit 5 0] }, 0, 5, by decide +kernel⟩,
    fun tries => ⟨port0 (.flitNakReceive 0 5) fun x => { x with replay := [flit 6 0], tries }, 0, 5, rfl, ?_⟩,
    ⟨port0 (.flitAckReceive 0 5) fun x => { x with replay := [flit 5 0, flit 6 0] }, 0, 5, by decide +kernel⟩,
    fun route => ⟨event ((base.setPort 0 { up := true, tries := 17, replay := [flit 5 0] }).setPort 3 { up := route }) (.portDown 0), 0, rfl, ?_⟩,
    ⟨port0 (.laneMarginMeasure 0 3 23) id, 0, 3, 23, by decide +kernel⟩,
    ⟨port0 (.laneSwap 0) fun x => { x with training := some 3 }, 0, 3, by decide +kernel⟩,
    ⟨{ event base (.budgetPeriodStart 4) with budgetNext := [(38, 5)] }, 4, 38, 5, rfl, rfl, rfl⟩,
    fun reject => ⟨event base (.modBudgetWrite 0 0 .both (if reject then 4096 else 0)), 0, 0, if reject then 4096 else 0, ?_⟩,
    ⟨event base (.railThrottle 7 2000), 7, 2000, by decide +kernel⟩,
    ⟨event (base.modDie 0 fun d => { d with throttled := true }) (.railThrottleEnd 0), 0, by decide +kernel⟩,
    fun a ha => ⟨event base (.scrubRead a (.corrected 5)), event base (.scrubRead a .uncorrectable), event base (.scrubRead a .clean), ?_, rfl, rfl, rfl⟩⟩
  · revert same; decide +kernel
  · revert seq; decide +kernel
  · revert seq; decide +kernel
  · cases isApp
    · exact ⟨sent { app with body := .store 0 0 [1] }, 3, { app with body := .store 0 0 [1] }, by decide +kernel, by decide +kernel, 0, 0, [1], rfl⟩
    · exact ⟨sent app, 3, app, by decide +kernel, by decide +kernel, [7], rfl, by decide +kernel⟩
  · revert tries; decide +kernel
  · revert route; decide +kernel
  · revert reject; decide +kernel
  · revert a; decide +kernel

/-- A checkpoint of packet 1 with one shard, by the context's HOSTA at host address 0x10000. -/
def shard0 : Shard := { id := 5, va := 0x1000, len := 64, off := 0, layout := 0, rgroup := 1, ridx := 3, owner := 3, flags := 1, digest := 7 }
def ckpt0 (restore : Bool) (shards : List Shard) : Ckpt :=
  { pkt := 1, restore, id := 9, deva := 0x1100, hosta := 0x10000, dedup := true, cuts := !restore, shards }
def ckpted (kind : BitVec 8) (e : Event) (f : Ctx → Ctx) : State := (packeted (packet kind (Vector.replicate 6 0) true) e).modCtx 0 f

/-- Swaps keep the length of a shard. -/
theorem swaps_length (l : List (Nat × Nat)) (b : List Byte) : (l.foldl swapAt b).length = b.length := by
  induction l generalizing b with
  | nil => rfl
  | cons p l ih =>
    simp only [List.foldl_cons, ih, swapAt]
    split <;> simp

theorem shard_length (s : State) (c : Nat) :
    (shardBytes s c).length =
      let b := (shardWords s c).flatMap fun w => leBytes 8 w.toNat
      (b ++ List.replicate ((64 - b.length % 64) % 64) 0).length :=
  swaps_length _ _

/-- A CHECKPOINT of a context without cores, with its DEVA and its list of regions; 2 MiB at 0x200000 are mapped. -/
def cutting (deva list : Word) : State :=
  (((packeted (packet 7 #v[0, deva, 0, 0, 0, 0] false) (.checkpointPacket 0 1)).wr 0x13008 (leBytes 8 0x200027)).modCtx 0 fun x =>
    { x with ckList := list, rect := Vector.replicate 4 0 })

theorem witness_CheckpointsAndTheController_list :
    ∃ (s u : State) (c : Fin 48) (i : Nat) (p : Packet) (cause : Cause), s.ev = .checkpointPacket c i ∧
      issuing s c i 7 = some (u, p) ∧ regionList u c = .error cause := by
  have ⟨cause, h⟩ := error_of (r := regionList (passHead ((cutting 0 0x0100000000005000).setPacket 0
    { packet 7 #v[0, 0, 0, 0, 0, 0] false with issued := true }) 0 0) 0) (by decide +kernel)
  exact ⟨cutting 0 0x0100000000005000, _, 0, 1, _, cause, rfl,
    issuing_late (p := packet 7 #v[0, 0, 0, 0, 0, 0] false) (by decide +kernel) (by decide +kernel), h⟩

/-- The clauses of a CHECKPOINT with a readable list: DEVA in window 0xFF, DEVA without room, a region out of its limits, a cut. -/
theorem witness_CheckpointsAndTheController_cut :
    ∀ k : Fin 4, ∃ (s u : State) (c : Fin 48) (i : Nat) (p : Packet) (l : List (Shard × Bool)), s.ev = .checkpointPacket c i ∧
      issuing s c i 7 = some (u, p) ∧ regionList u c = .ok l ∧ decide ((p.va 1).toNat / 2 ^ 48 = 0xFF) = decide (k = 0) ∧
      (k ≠ 0 → devaHolds u c (p.va 1) (shardsLen (l.map (·.1)) + (shardBytes u c).length) = decide (2 ≤ k)) ∧ l.any (fun x => !x.2) = decide (k = 2) := by
  refine fun k => ⟨cutting ([0xFF000000000000, 0x5000, 0x200000, 0x200000].getD k.val 0) (if k = 2 then 0x0100000000001400 else 0), _, 0, 1, _,
    if k = 2 then [({ id := 0, va := 0, len := 0, off := 0, layout := 0, rgroup := 0, ridx := 0, owner := 0, flags := 0, digest := 0 }, false)] else [], ?_,
    issuing_late (p := packet 7 #v[0, [0xFF000000000000, 0x5000, 0x200000, 0x200000].getD k.val 0, 0, 0, 0, 0] false) ?_ ?_, ?_, ?_, ?_, ?_⟩
  · revert k; decide +kernel
  · revert k; decide +kernel
  · revert k; decide +kernel
  · simp only [ok_iff]; revert k; decide +kernel
  · revert k; decide +kernel
  · simp only [shard_length]; revert k; decide +kernel
  · revert k; decide +kernel

theorem witness_CheckpointsAndTheController :
    (∃ (s : State) (c : Fin 48) (k : Ckpt), s.ev = .checkpointStepBoundary c ∧ (s.ctx c).ckpt = some k ∧ k.restore = false ∧ k.cuts = false ∧
        atBoundary s c = true) ∧
      (∃ (s : State) (c : Fin 48) (k : Ckpt) (p : Packet), s.ev = .checkpointCopyDone c ∧ (s.ctx c).ckpt = some k ∧ running s c k.pkt 7 = some p ∧
        k.cuts = true ∧ (s.ctx c).stopped = true ∧ (s.ctx c).reasons.contains 0x170 = false ∧ rangeHeld s c k.deva (shardsLen k.shards + (shardBytes s c).length) = false) ∧
      (∃ (s : State) (c : Fin 48) (i : Nat) (ridx : BitVec 16) (dig : BitVec 512) (k : Ckpt) (x : Shard),
        s.ev = .dedupDigestReceive c i ridx dig ∧ (s.ctx c).drain = some k ∧ k.shards[i]? = some x ∧ k.exchanges x = true ∧ ridx ≠ x.ridx ∧
          (s.die 0).cycle.toNat ≤ k.since + 19000000) ∧
      (∀ xreq : Bool, ∃ (s : State) (c : Fin 48) (i : Nat) (ridx : BitVec 16) (k : Ckpt) (x : Shard),
        s.ev = .dedupDigestTimeout c i ridx ∧ (s.ctx c).drain = some k ∧ k.shards[i]? = some x ∧ k.exchanges x = true ∧ ridx ≠ x.ridx ∧
          ridx ∉ x.heard ∧ k.since + 19000000 ≤ (s.die 0).cycle.toNat ∧ x.flags.getLsbD 1 = xreq) ∧
      (∃ (s : State) (c : Fin 48) (e : Bool) (k : Ckpt) (p : Packet) (b : List Byte) (pois : Bool),
        s.ev = .checkpointDrainDone c e ∧ (s.ctx c).drain = some k ∧ running s c k.pkt 7 = some p ∧
          drainBytes s c k = .ok (b, pois)) ∧
      (∃ (s u : State) (c : Fin 48) (i : Nat) (p : Packet), s.ev = .restorePacket c i ∧ issuing s c i 8 = some (u, p)) ∧
      (∃ (s u : State) (c : Fin 48) (k : Ckpt) (cause : Cause), s.ev = .restoreStepBoundary c ∧ (s.ctx c).ckpt = some k ∧ k.restore = true ∧
        k.ended = false ∧ atBoundary s c = true ∧
        (match readShards s c k.hosta.toNat k.shards k.deva with
          | (v, some cause) => (v, cause)
          | (v, none) => installShards v c k) = (u, cause)) ∧
      (∃ (s : State) (c : Fin 48) (k : Ckpt) (p : Packet), s.ev = .restorePacketDone c ∧ (s.ctx c).ckpt = some k ∧ k.restore = true ∧ k.ended = true ∧
        running s c k.pkt 8 = some p) ∧
      (∃ s : State, s.ev = .devAttcmdGo ∧ s.mgmt.attBusy = false) ∧
      (∃ s : State, s.ev = .attestationDone ∧ s.Inv ∧ s.mgmt.attBusy = true) ∧
      (∃ s t u : State, (s.ev = .mbxReadIdentityCert ∧ s.Inv ∧ s.mgmt.mbxBusy = false) ∧ (t.ev = .mbxReadCheckpointCert ∧ t.Inv ∧ t.mgmt.mbxBusy = false) ∧
        (u.ev = .mbxReadAuthorityCert ∧ u.Inv ∧ u.mgmt.mbxBusy = false)) ∧
      (∀ bad : Bool, ∃ s : State, s.ev = .mbxWritePartitionRecord ∧ s.mgmt.mbxBusy = false ∧
        decide (2 ^ 27 ≤ (BitVec.ofNat 64 (leNat (s.hostRead s.mgmt.mbxAddr.toNat 8))).toNat) = bad) ∧
      (∃ s : State, s.ev = .mbxInvalidCommand 5 ∧ s.mgmt.mbxBusy = false) ∧
      ∃ s : State, s.ev = .mbxCommandDone ∧ s.mgmt.mbxBusy = true := by
  let zero : Vector Word 6 := Vector.replicate 6 0
  let issue (k : BitVec 8) (list : Word) (e : Event) : State := (packeted (packet k zero false) e).modCtx 0 fun x => { x with ckList := list }
  refine ⟨⟨ctx0 base (.checkpointStepBoundary 0) fun x => { x with ckpt := some { ckpt0 false [shard0] with cuts := false } }, 0,
      { ckpt0 false [shard0] with cuts := false }, by decide +kernel⟩,
    ⟨ckpted 7 (.checkpointCopyDone 0) fun x => { x with ckpt := some (ckpt0 false [shard0]), stopped := true, reasons := [0x157] }, 0, ckpt0 false [shard0],
      packet 7 zero true, by decide +kernel⟩,
    ⟨ctx0 base (.dedupDigestReceive 0 0 2 7) fun x => { x with drain := some (ckpt0 false [shard0]) }, 0, 0, 2, 7, ckpt0 false [shard0], shard0, by decide +kernel⟩,
    fun xreq => ⟨(ctx0 base (.dedupDigestTimeout 0 0 2) fun x => { x with drain := some (ckpt0 false [{ shard0 with flags := if xreq then 3 else 1 }]) }).modDie 0
        fun d => { d with cycle := 19000000 }, 0, 0, 2, ckpt0 false [{ shard0 with flags := if xreq then 3 else 1 }], { shard0 with flags := if xreq then 3 else 1 }, ?_⟩,
    ⟨ckpted 7 (.checkpointDrainDone 0 false) fun x => { x with drain := some (ckpt0 false [shard0]) }, 0, false, ckpt0 false [shard0], packet 7 zero true,
      List.replicate 64 0, false, ?_⟩,
    ⟨issue 8 0 (.restorePacket 0 1), _, 0, 1, _, rfl, issuing_of (p := packet 8 zero false) (by decide +kernel) (by decide +kernel)⟩,
    ⟨ckpted 8 (.restoreStepBoundary 0) fun x => { x with ckpt := some (ckpt0 true []) }, _, 0, ckpt0 true [], _, rfl, by decide +kernel, rfl, rfl, by decide +kernel,
      rfl⟩,
    ⟨ckpted 8 (.restorePacketDone 0) fun x => { x with ckpt := some { ckpt0 true [] with ended := true } }, 0, { ckpt0 true [] with ended := true },
      packet 8 zero true, by decide +kernel⟩,
    ⟨event base .devAttcmdGo, by decide +kernel⟩, ⟨{ event base .attestationDone with mgmt := { base.mgmt with attBusy := true } }, ?_⟩,
    ⟨event base .mbxReadIdentityCert, event base .mbxReadCheckpointCert, event base .mbxReadAuthorityCert, ?_⟩,
    fun bad => ⟨(event base .mbxWritePartitionRecord).wr (hostKey 0) [0, 0, 0, if bad then 8 else 7], ?_⟩, ⟨event base (.mbxInvalidCommand 5), by decide +kernel⟩,
    ⟨{ event base .mbxCommandDone with mgmt := { base.mgmt with mbxBusy := true } }, by decide +kernel⟩⟩
  · revert xreq; decide +kernel
  · simp only [ok_iff]; decide +kernel
  · simp only [inv_iff]; decide +kernel
  · simp only [inv_iff]; decide +kernel
  · revert bad; decide +kernel

/-! ## Digests -/

/-- SHA-512 of "abc", as FIPS 180-4 gives it (R108, R129). -/
theorem test_sha512 :
    sha512 [0x61, 0x62, 0x63] =
      0xddaf35a193617abacc417349ae20413112e6fa4e89a97ea20a9eeee64b55d39a2192992a274fc1a836ba3c23a3feebbd454d4423643ce80e2a9ac94fa54ca49f := by
  decide +kernel
/-! ### Further clauses: a turn before an event, accesses that wait or trap, tasks that retire -/

/-- The latched hypotheses of a step of slot 1 of core 0 at 0x1000. -/
def stepsHere (s : State) : Bool :=
  decide (issueNext s = some (0, 1)) && decide (beforeIssue s 0 1 ((s.core 0).slotPc 1) = none)
    && decide ((fetchChain s 0 ((s.core 0).slotPc 1)).stop = none) && decide ((fetchChain s 0 ((s.core 0).slotPc 1)).words = [1])

/-- The state in which the chain at 0x1000 is fetched. -/
def fetchesHere (s : State) : State := { s with cur := { core := 0, slot := 1, pc := (s.core 0).slotPc 1 }, focus := 1 }

/-- A step whose fetch goes, with no event before it and with an engine's event behind every turn; and one whose fetch a FENCE of kind LL
holds behind an LR that is not granted. -/
theorem witness_StepRunsTheDecodedInstruction_fetch :
    (base.agenda = [] ∧ stepsHere base = true ∧ okIs (fetchGo (fetchesHere base) 0 ((base.core 0).slotPc 1) 1) () = true) ∧
      (let s := { base with agenda := [.stashComplete 0 0] }
       (∃ e r, s.agenda = e :: r ∧ 0 < e.turns s) ∧ stepsHere s = true ∧ okIs (fetchGo (fetchesHere s) 0 ((s.core 0).slotPc 1) 1) () = true) ∧
      ∃ s : State, s.agenda = [] ∧ stepsHere s = true ∧
        ∃ rd wr g, fetchGo (fetchesHere s) 0 ((s.core 0).slotPc 1) 1 = .error (.wait (.port rd wr g)) := by
  refine ⟨by decide +kernel, ⟨⟨.stashComplete 0 0, [], rfl, by decide +kernel⟩, by decide +kernel⟩,
    ⟨{ core0 base fun c => { c with fence := 1 } with grants := ported.grants }, rfl, by decide +kernel, true, false, noGran, ?_⟩⟩
  rfl

/-- The control page's word at 0x100 of window 0xFF. -/
def atControl : Loc := ⟨tcmKey 0 0x100, .control 0x100⟩

/-- a1 in mapped memory, a2 in the core's TCM, a3 odd, a4 on the control page. -/
def places : State := regs base [(1, 0x1100), (2, 0xFF000000000200), (3, 0x1101), (4, 0xFF000200000100), (5, 8)]

/-- The traps of atomics: a misaligned address, the control page, and a reservation held, for both sizes. -/
theorem witness_AtomicsReadModifyWrite_traps :
    (places.getG 3).extractLsb' 0 56 = 0x1101 ∧
      (∀ n ∈ [4, 8], 0x1101 % n ≠ 0 ∧ 0xFF000200000100 % n = 0 ∧
        okIs (resolve places (places.party places.L) ((places.getG 4).extractLsb' 0 56) .atomic) atControl = true ∧
        ∃ l, Reaches (reserved false) (((reserved false).getG 1).extractLsb' 0 56) n .atomic l ∧ (reserved false).me.rsv ≠ none) := by
  refine ⟨by decide +kernel, fun n hn => ⟨?_, ?_, by decide +kernel, atMem, ?_⟩⟩
  · revert n; decide +kernel
  · revert n; decide +kernel
  · simp only [reaches_iff]; revert n; decide +kernel

/-- The traps of FAMOADD, ACCADD and ACCRD: another place than mapped memory or die store, a reservation held, a misaligned cell, and a reserved
bit of the operand word. -/
theorem witness_FloatingAtomicsAndCells_traps :
    (∃ l, Reaches places 0xFF000000000200 4 .atomic l ∧ (places.getG 2).extractLsb' 0 56 = 0xFF000000000200 ∧ ∀ nc, l.home ≠ .mapped nc) ∧
      (∃ l, Reaches (reserved true) 0x1100 4 .atomic l ∧ l.home = .mapped false ∧ (reserved true).me.rsv ≠ none) ∧
      ((places.getG 3).extractLsb' 0 56).toNat % 32 ≠ 0 ∧
      (∀ k ∈ [Kind.atomic, .read], ∃ l, ((places.getG 2).extractLsb' 0 56).toNat % 32 = 0 ∧
        resolve places (places.party places.L) ((places.getG 2).extractLsb' 0 56) k = .ok l ∧ ∀ nc, l.home = .mapped nc → ¬l.key < 8 * 0x10000000) ∧
      (∃ l, ((reserved true).getG 1).toNat % 32 = 0 ∧ resolve (reserved true) ((reserved true).party (reserved true).L)
          (((reserved true).getG 1).extractLsb' 0 56) .atomic = .ok l ∧ l.home = .mapped false ∧ l.key < 8 * 0x10000000 ∧ (reserved true).me.rsv ≠ none) ∧
      ∃ l, ((places.getG 1).extractLsb' 0 56).toNat % 32 = 0 ∧
        resolve places (places.party places.L) ((places.getG 1).extractLsb' 0 56) .read = .ok l ∧ 8 ≤ (places.getG 5).toNat := by
  refine ⟨⟨atTcm, ?_, by decide +kernel, nofun⟩, ⟨atMem, ?_⟩, by decide +kernel, fun k hk => ⟨atTcm, by decide +kernel, ?_, nofun⟩, ⟨atMem, ?_⟩, ⟨atMem, ?_⟩⟩
  case refine_3 => simp only [ok_iff]; revert k; decide +kernel
  all_goals simp only [reaches_iff, ok_iff]; decide +kernel

/-- Sixteen fibres of core 0 hold reservations, and fibre 2 none. -/
def manyRsv : State :=
  core0 ptrs fun c => { c with fibres := c.fibres ++ (List.range 16).map fun i => (100 + i, { rsv := some { addr := 0x1100, key := 0x20100, word := false } }) }

/-- LR's traps, and SC's under a reservation of another address, and of another size. -/
theorem witness_ReservationsLoadStoreAndWait_traps :
    (∀ n ∈ [4, 8], ∃ l, Reaches manyRsv 0x1100 n .atomic l ∧ (manyRsv.getG 1).extractLsb' 0 56 = 0x1100 ∧ manyRsv.me.rsv = none ∧ 16 ≤ manyRsv.rsvCount) ∧
      ∀ word : Bool, ∃ l x, Reaches (reserved word) 0x1100 (if word then 8 else 4) .atomic l ∧ (reserved word).me.rsv = some x ∧ x.addr = 0x1100 ∧
        x.word ≠ !word ∧ ∃ k, Reaches (reserved word) 0xFF000000000200 (if word then 4 else 8) .atomic k ∧ x.addr ≠ 0xFF000000000200 := by
  refine ⟨fun n hn => ⟨atMem, ?_⟩, fun word => ⟨atMem, { addr := 0x1100, key := 0x20100, word }, ?_, ?_, rfl, ?_, atTcm, ?_⟩⟩
  · simp only [reaches_iff]; revert n; decide +kernel
  all_goals cases word <;> (try simp only [reaches_iff]) <;> decide +kernel

/-- FSPAWN's traps: a reserved bit, an odd entry, and a full core; FEXIT's: outside a worker slot, in a task, and under a reservation. -/
theorem witness_FibresStartAndEnd_traps :
    (let s := regs base [(1, 0x0400000000001000), (2, 0x1001)]
     (s.getG 1).extractLsb' 58 6 ≠ 0 ∧ ¬(s.getG 2).extractLsb' 58 6 ≠ 0 ∧ (s.getG 2).getLsbD 0 = true) ∧
      (let s := core0 base fun c => { c with fibres := c.fibres ++ (List.range 255).map fun i => (100 + i, {}) }
       ¬(s.getG 0).extractLsb' 58 6 ≠ 0 ∧ ¬(s.getG 0).getLsbD 0 = true ∧ fibreLimit s s.L ≤ s.here.fibres.length) ∧
      (urgent base).worker = false ∧ (¬tasked.worker = false ∧ tasked.me.task ≠ none) ∧
      (¬(reserved false).worker = false ∧ ¬(reserved false).me.task ≠ none ∧ (reserved false).me.rsv ≠ none) := by
  decide +kernel

/-! ### Retirement (R143) -/

/-- A record at an address: DEPCTR and STATE, and a valid rest. -/
def recordBytes (depctr state : Nat) : List Byte :=
  List.replicate 56 0 ++ leBytes 4 depctr ++ [0, 0, 0, BitVec.ofNat 8 (16 * state)] ++ List.replicate 64 0
def depRec (depctr state : Nat) : TRec := ⟨recordBytes depctr state⟩

/-- The record of a task with one dependent, at 0x1400. -/
def oneDep : List Byte := List.replicate 61 0 ++ [1, 0, 0x30] ++ leBytes 8 0x1400 ++ List.replicate 56 0

/-- Fibre 2's task, with what it owes, and a record of this DEPCTR at 0x1400. -/
def retiring (k : Task) (depctr state : Nat) : State :=
  core0 (tasked.wr 0x20400 (recordBytes depctr state)) fun c => { c with tasks := [k] }

theorem retires_iff (s : State) (k : Task) :
    Retires s k ↔ s.Inv ∧ s.me.task = some k.recAddr ∧ s.here.task? k.recAddr = some k ∧ s.me.rsv = none ∧ taskPending s.here k = false
      ∧ k.retiring = none ∧ s.grants = [] ∧ s.heldWrites = [] ∧ portFree s = true := by
  rw [Retires, homesFree_iff]

/-- A task's push with a dependency; a task's fibre that holds a reservation; tasks that retire with nothing, with a slot held, with a push
(of a record without and with a dependency), and with a dependent whose counter is 2, 0 and 1. -/
theorem witness_TasksArePushedPoppedAndRetired_retire :
    (∃ (s : State) (x : TRec), okIs (checkRec s s.myCtx (s.party s.L) ((s.getG 1).extractLsb' 0 56) false (some s.L)) x = true ∧
      s.me.task = none ∧ s.Inv ∧ HomesFree s ∧ okIs (watchRange s ((s.getG 1).extractLsb' 0 56) 128 true false) () = true ∧ x.depctr ≠ 0) ∧
      (∃ (s : State) (x : TRec), okIs (checkRec s s.myCtx (s.party s.L) ((s.getG 1).extractLsb' 0 56) false (some s.L)) x = true ∧
        s.me.task = none ∧ s.Inv ∧ HomesFree s ∧ okIs (watchRange s ((s.getG 1).extractLsb' 0 56) 128 true false) () = true ∧ x.depctr = 0 ∧
        (s.here.dq x.prio).length < 64 ∧ s.here.hw x.prio = (s.here.dq x.prio).length) ∧
      (∀ full : Bool, ∃ (s : State) (x : TRec) (k : Task),
        okIs (checkRec s s.myCtx (s.party s.L) ((s.getG 1).extractLsb' 0 56) false (some s.L)) x = true ∧ s.me.task = some 0x1500 ∧
          s.here.task? 0x1500 = some k ∧ PortFree s ∧ okIs (watchRange s ((s.getG 1).extractLsb' 0 56) 128 true false) () = true ∧
          decide (k.pushes.length < 32) = !full) ∧
      (dequed.slot = 0 ∧ popChoice dequed.here ((dequed.getG 0).toNat % 4) = some (0, 0, { recAddr := 0x1400, prio := 0 }) ∧ dequed.Inv ∧ HomesFree dequed ∧
        (∀ q, q < 4 → dequed.here.hw q = (dequed.here.dq q).length) ∧ okIs (watchCheck dequed (0x1400 + 63) false true) () = true) ∧
      (∃ (s : State) (k : Task), s.me.task = some 0x1500 ∧ s.here.task? 0x1500 = some k ∧ k.retiring = none ∧ s.me.rsv ≠ none) ∧
      (∃ (s : State) (k : Task), s.me.task = some 0x1500 ∧ s.here.task? 0x1500 = some k ∧ k.retiring = none ∧ s.me.rsv = none ∧
        taskPending s.here k = true) ∧
      (Retires tasked task0 ∧ task0.holds = [] ∧ task0.pushes = [] ∧ ({ raw := task0.raw } : TRec).ndep = 0) ∧
      (∀ dep : Fin 2, let k : Task := { task0 with pushes := [0x1400] }
        let s := retiring k dep 0
        Retires s k ∧ ({ raw := k.raw } : TRec).ndep = 0 ∧ okIs (readRec s s.myCtx 0x1400) (depRec dep 0) = true ∧
          (s.here.dq (depRec dep 0).prio).length < 64 ∧ s.here.hw (depRec dep 0).prio = (s.here.dq (depRec dep 0).prio).length ∧
          okIs (resolve s (noCore s.myCtx) (0x1400 + 63) .atomic) ⟨0x2043F, .mapped false⟩ = true) ∧
      ∀ dep : Fin 3, let k : Task := { task0 with raw := oneDep }
        let s := retiring k dep 1
        let m := memPuts s.mem 0x20438 (leBytes 4 ((depRec dep 1).depctr - 1))
        Retires s k ∧ k.holds = [] ∧ k.pushes = [] ∧ ({ raw := k.raw } : TRec).ndep = 1 ∧ (({ raw := k.raw } : TRec).dep 0).setWidth 56 = (0x1400 : VAddr) ∧
          okIs (readRec s s.myCtx 0x1400) (depRec dep 1) = true ∧ (depRec dep 1).depctr = dep ∧ (depRec dep 1).pfail = false ∧
          okIs (resolve s (noCore s.myCtx) (0x1400 + 56) .atomic) ⟨0x20438, .mapped false⟩ = true ∧
          (dep = 1 → okIs (checkRec { s with mem := m } s.myCtx (s.engineOf s.L) 0x1400 true) (depRec 0 1) = true ∧ (depRec 0 1).depctr = 0 ∧
            (s.here.dq (depRec 0 1).prio).length < 64 ∧ s.here.hw (depRec 0 1).prio = (s.here.dq (depRec 0 1).prio).length ∧
            okIs (resolve { s with mem := m } (noCore s.myCtx) (0x1400 + 63) .atomic) ⟨0x2043F, .mapped false⟩ = true) := by
  simp only [retires_iff, homesFree_iff, portFree_iff, inv_iff]
  refine ⟨⟨core0 (tasked.wr 0x20400 (recordBytes 1 0)) fun c => { c.modFib 2 fun f => { f with task := none } with tasks := [] }, depRec 1 0, by decide +kernel⟩,
    ⟨core0 tasked fun c => { c.modFib 2 fun f => { f with task := none } with tasks := [] }, zeroRec, by decide +kernel⟩,
    fun full => ⟨core0 tasked fun c => { c with tasks := [{ task0 with pushes := if full then List.replicate 32 0x1400 else [] }] }, zeroRec,
      { task0 with pushes := if full then List.replicate 32 0x1400 else [] }, ?_⟩, by decide +kernel,
    ⟨fib2 tasked fun f => { f with rsv := some { addr := 0x1100, key := 0x20100, word := false } }, task0, by decide +kernel⟩,
    ⟨core0 tasked fun c => { c with mb := c.mb.set 1 { full := true, fibre := 2, task := some 0x1500 } }, task0, by decide +kernel⟩, by decide +kernel,
    by decide +kernel, by decide +kernel⟩
  revert full; decide +kernel

/-! ### Rings (R195–R199, R412) -/

/-- Fibre 2's task, with slot 0 of the ring at TCM offset 0 held, whose HOLD is 1. -/
def holding0 : State :=
  core0 (tasked.wr (tcmKey 0 0) (leBytes 8 0x1400 ++ List.replicate 8 0 ++ leBytes 2 1 ++ [0x11, 0, 0, 0] ++ leBytes 2 2) |>.wr (tcmKey 0 (0x40 + 25)) [1])
    fun c => { c with tasks := [{ task0 with holds := [{ core := 0, desc := 0, slot := 0, n := 0, bytes := 64 }] }] }

theorem witness_TasksArePushedPoppedAndRetired_hold :
    let h : Hold := { core := 0, desc := 0, slot := 0, n := 0, bytes := 64 }
    let k : Task := { task0 with holds := [h] }
    let m := memPuts holding0.mem (slotState holding0 ring0 0 + 25) [BitVec.ofNat 8 (slotHold holding0 ring0 0 - 1)]
    Retires holding0 k ∧ k.pushes = [] ∧ ({ raw := k.raw } : TRec).ndep = 0 ∧ holdPoisoned holding0 h = false ∧ slotHold holding0 ring0 0 = 1 ∧
      slotReady { holding0 with mem := m } ring0 (ringTail { holding0 with mem := m } ring0) = false := by
  simp only [retires_iff, inv_iff]; decide +kernel

/-- An operation of fibre 3 that names the ring at offset 0 is paused. -/
def pausedRing : State := core0 (ringed 0 0 []) fun c => { c with matPaused := [{ fibre := 3, slot := 2, iss := { core := 0, slot := 2, pc := 0 }, next := 0, descs := [0] }] }

/-- RBIND while the core's write to the descriptor waits at its home; the ring of a paused instruction; and rings that no instruction names. -/
theorem witness_RingsAreBoundAwaitedAndRead_waits :
    (∃ s : State, (s.getG 0).toNat % 64 = 0 ∧ (s.getG 0).toNat < 2 ^ 18 ∧ ∃ w, ringHome s ⟨s.L, (s.getG 0).toNat⟩ = .error (.wait w)) ∧
      (Bound pausedRing 0 ring0 ∧ PortFree pausedRing ∧ pausedRing.here.opNames ring0.off = true) ∧
      (∀ k : Fin 4, let s := ringed 0 0 []
        Bound s 0 ring0 ∧ PortFree s ∧ HomesFree s ∧ s.here.opNames ring0.off = false ∧
          decide ((s.getG (Fin.ofNat 40 k)).toNat = 0 ∨ ringSlots s ring0 < (s.getG (Fin.ofNat 40 k)).toNat) = decide (k = 0 ∨ k = 3)) ∧
      (let s := core0 (ringed 0 0 []) fun c => { c with matPaused := [{ fibre := 2, slot := 1, iss := { core := 0, slot := 1, pc := 0 }, next := 0, descs := [0] }] }
       Bound s 0 ring0 ∧ holdsRing s ring0 = false ∧ (s.here.vecPaused ++ s.here.matPaused).any (fun p => p.fibre == s.fibre && p.descs.contains ring0.off) = true) ∧
      (let s := core0 (fib2 (ringed 0 0 []) fun f => { f with task := some 0x1500 }) fun c =>
         { c with tasks := [{ task0 with holds := [{ core := 0, desc := 0, slot := 0, n := 0, bytes := 64 }] }] }
       Bound s 0 ring0 ∧ holdsRing s ring0 = true) := by
  simp only [bound_iff, homesFree_iff, portFree_iff]
  refine ⟨⟨{ ringed 0 0 [] with heldWrites := [{ core := some 0, key := tcmKey 0 0, bytes := List.replicate 8 1 }] }, by decide +kernel, by decide +kernel,
    waits_of (by decide +kernel)⟩, by decide +kernel, by decide +kernel, by decide +kernel, by decide +kernel⟩

/-- A task with this many records on other modules, that holds slot 0 of the ring or not. -/
def awayTask (away : Nat) (held : Bool) : Task :=
  { task0 with awayHeld := if away = 0 then [] else [(5, away)], holds := if held then [{ core := 0, desc := 0, slot := 0, n := 0, bytes := 8 }] else [] }

/-- The task of fibre 2 produces into the ring at offset 0. -/
def producing (away : Nat) (held : Bool) : State :=
  core0 (fib2 (ringed 0 0 []) fun f => { f with task := some 0x1500 }) fun c => { c with tasks := [awayTask away held] }

theorem witness_RingsAreAdvanced_task :
    (∀ away ∈ [0, 63, 64], ∀ held : Bool, ∃ k : Task,
      Bound (producing away held) 0 ring0 ∧ (producing away held).Inv ∧ HomesFree (producing away held) ∧
        (producing away held).here.opNames ring0.off = false ∧ prodIndex (producing away held) ring0 (producing away held).myId = some 0 ∧
        (producing away held).me.task = some 0x1500 ∧ (producing away held).here.task? 0x1500 = some k ∧ (producing away held).getG 1 = 1 ∧
        freeSlots (producing away held) ring0 0 ≠ 0 ∧ holdsSlot k ring0 (ringHead (producing away held) ring0 + cursor (producing away held) ring0 0) = held ∧
        k.holds.length + k.heldAway = away + (if held then 1 else 0)) ∧
      (ringed 0xFFFFFFFF 0 [(1, 64)]).here.opNames ring0.off = false ∧ (ringed 0 0 []).here.opNames ring0.off = false := by
  refine ⟨fun away h held => ⟨awayTask away held, ?_⟩, by decide +kernel⟩
  simp only [bound_iff, homesFree_iff, inv_iff]
  revert away held; decide +kernel
/-! ### Further clauses of the engines: elements that move, cells, effects (R395–R412) -/

/-- A check passes, with such a value. -/
def okWith {ε α : Type} (r : Except ε α) (P : α → Bool) : Bool :=
  match r with
  | .ok x => P x
  | .error _ => false

/-- Every address resolves for a kind of access, to reachable and clean places. -/
def reachAll (s : State) (n : Nat) (k : Kind) (vas : List VAddr) : Bool :=
  match vas.mapM fun va => resolve s (s.party s.L) va k with
  | .ok locs => locs.all fun l => plainHome l.home && (k != .write || !l.isLocal s.L || (boundAt s s.L l.key n).isNone) && !s.poisoned l.key n
  | .error _ => false

/-- The conditions of a gather or scatter of `w`-bit elements on its indexes: all in range and their places reachable, or one out of range. -/
def movesAll (s : State) (o : OpVG) (w : Nat) (k : Kind) (idx : List Int) : Bool :=
  idx.all (fun i => decide (0 ≤ i) && decide (i < elementLimit s o)) && (elementVas s o w idx).all (fun va => va.toNat % (w / 8) == 0)
    && reachAll s (w / 8) k (elementVas s o w idx)
def outOfRange (s : State) (o : OpVG) (idx : List Int) : Bool :=
  (idx.findIdx? fun i => decide (i < 0) || decide (elementLimit s o ≤ i)).isSome

/-- Gathers and scatters whose elements may be accessed, and with an index out of range; scales at 0x1180; blocks of BSI24; a scale code. -/
theorem witness_VectorConversionsReductionsAndMovesStart_elements :
    (∀ out : Bool, let s := vecs 1 1 0 9 0 0 (if out then leBytes 4 64 else []) []
      Unwatched s 56 ∧ PortFree s ∧ planned s opG.m (gatherForm opG) none (indexed byteWide) (fun _ => need (pairReg opG.s) 0x005) len1
        (fun p => !p.poisoned && (if out then outOfRange s opG else movesAll s opG p.v.d1.fmt.bits .read) ((p.v.x 0).map (intElt p.v.d2.fmt.bits))) = true) ∧
      (∀ out : Bool, let s := vecs 1 1 0 9 0 0 [] (if out then leBytes 4 64 else [])
        Unwatched s 57 ∧ planned s opS.m (scatterForm opS) none (indexed byteWide) (fun v => do sameCount v; need (pairReg opS.s) 0x005) (fun _ => 0)
          (fun p => !p.poisoned && (if out then outOfRange s opS else movesAll s opS p.v.d1.fmt.bits .write) ((p.v.x 1).map (intElt p.v.d2.fmt.bits))) = true) ∧
      (let s := vecs 1 1 2 6 0 0x1180 [] []
       s.me.c.getD ((op1.m.fsel.val + 1) % 4) 0 = 0x1180 ∧ Unwatched s 57 ∧
         planned s op1.m (op1.form true) (some true) (pairIs fun f g => f.isFloat && g.isNarrow) quantCount len2 (fun p =>
           !p.poisoned && (p.v.x 0).length == p.v.n && reachAll s 1 .write
             ((List.range (p.v.n / 32)).map fun b => 0x1180 + BitVec.ofNat 56 (p.v.col / 32) + BitVec.ofNat 56 b)) = true) ∧
      (let s := vecs 1 4 4 2 0x1180 0 [] []
       s.me.c.getD op1.m.fsel.val 0 = 0x1180 ∧ Unwatched s 56 ∧ PortFree s ∧
         planned s op1.m (op1.form true) (some false) (pairIs fun f g => f.isNarrow && g.isFloat) sameCount len2 (fun p =>
           !p.poisoned && reachAll s 1 .read ((List.range ((p.v.col + p.v.n + 31) / 32 - p.v.col / 32)).map fun b =>
             0x1180 + BitVec.ofNat 56 (p.v.col / 32) + BitVec.ofNat 56 b)) = true) ∧
      planned (vecs 4 4 0 0xA 0 0 [] []) op1.m (op1.form true) none (pairIs fun _ _ => true) (fun v => need (v.n % 64 = 0) 0x092) (fun v => v.n / 64 * 200)
        (fun p => (p.v.x 0).length == p.v.n && decide (0 < p.v.n / 64)) = true ∧
      (.fin false 3 0 ∈ ([.fin false 3 0, .fin true 1 0, .nan 0] : List Val) ∧ (3 : Nat) ≠ 0 ∧ emaxOf base.here .e2m1 = some 2 ∧
        (∀ n' m' e', .fin n' m' e' ∈ ([.fin false 3 0, .fin true 1 0, .nan 0] : List Val) → m' ≠ 0 → flog2 m' e' ≤ flog2 3 0)) := by
  simp only [portFree_iff, Unwatched]
  refine ⟨?_, ?_, ?_, ?_, by decide +kernel, by decide, by decide, by decide +kernel, ?_⟩
  · intro out; refine ⟨.inr ?_, ?_⟩ <;> cases out <;> decide +kernel
  · intro out; refine ⟨.inr ?_, ?_⟩ <;> cases out <;> decide +kernel
  · exact ⟨by decide +kernel, .inr (by decide +kernel), by decide +kernel⟩
  · exact ⟨by decide +kernel, .inr (by decide +kernel), by decide +kernel⟩
  · intro n m e h hm
    simp only [List.mem_cons, Val.fin.injEq, reduceCtorEq, List.not_mem_nil, or_false] at h
    rcases h with ⟨rfl, rfl, rfl⟩ | ⟨rfl, rfl, rfl⟩ <;> decide

/-- The cells of MMA and MMAS are stated where the operands and the stream read: clean, poisoned, and of an accumulator with POIS. -/
theorem witness_MatrixFormsStart_cells :
    ∀ pois bad : Bool, let s := core0 (if bad then mats.wrN (tcmKey 0 0x118) 1 1 else mats) fun c =>
        { c with acc := c.acc.set 0 { own := true, owner := 2, pois } }
      okIs (ringOf s s.L s.fibre opM.ha) ⟨0, 0⟩ = true ∧ okIs (ringOf s s.L s.fibre opM.hb) ⟨0, 0x40⟩ = true ∧
        hasOk (fdesc (s.me.f.getD opM.m.fsel.val 0)) = true ∧ hasOk (fdesc (s.me.f.getD ((opM.m.fsel.val + 1) % 4) 0)) = true ∧
        hasOk (headPieces s ⟨0, 0⟩ .read) = true ∧ hasOk (headPieces s ⟨0, 0x40⟩ .read) = true ∧ (s.acc 0).pois = pois ∧
        slotPois s ⟨0, 0⟩ (ringHead s ⟨0, 0⟩) = bad ∧ hasOk (mmaOp s s.mx opM false) = true ∧ hasOk (mmaOp s s.mx opM true) = true ∧
        Unwatched s 56 := by
  intro pois bad
  simp only [Unwatched]
  cases pois <;> cases bad <;>
    exact ⟨by decide +kernel, by decide +kernel, by decide +kernel, by decide +kernel, by decide +kernel, by decide +kernel, rfl, by decide +kernel,
      by decide +kernel, by decide +kernel, .inr (by decide +kernel)⟩

/-- A context that a checkpoint holds back, and a busy matrix unit: MMCLR and SKSET wait for them; a queued command that waits, and one that is dropped. -/
theorem witness_AccumulatorsAreClearedAndCommanded_waits :
    (let s := mats.modCtx 0 fun x => { x with cutting := true }
     s.heldForCut s.fibre = true ∧ ¬((s.here.acc.get 0).own = false ∨ (s.here.acc.get 0).owner ≠ s.fibre)) ∧
      (let s := core0 mats fun c => { c with mat := some { fibre := 3, slot := 2, iss := {}, next := 0 } }
       s.heldForCut s.fibre = false ∧ s.here.mat ≠ none) ∧
      (mats.here.waiters (.engine true []) = 0 ∧ mats.here.woken mats.fibre mats.onShadow (.engine true []) = 0) ∧
      (let cmd : MatCmd := { instr := .mma opM, key := 0, row := 0, col := 0, fibre := 2, src := 8, pc := 0, srcFibre := 2 }
       let at_ (s : State) : Chk EngineOp := remoteOp { s with cur := { core := 0, slot := 7 } } cmd
       okWith (at_ mats) (·.sends.isEmpty) = true ∧ (∃ w, at_ (mats.wrN (tcmKey 0 12) 4 0) = .error (.wait w)) ∧
         stops (at_ (fib2 mats fun f => { f with h := Vector.replicate 16 none })) (.trap 0x071 0 0 false) = true) := by
  exact ⟨by decide +kernel, by decide +kernel, by decide +kernel, by decide +kernel, waits_of (by decide +kernel), by decide +kernel⟩

/-- Operations of fibre 2 that only store, that only pop the ring at offset 0, and that only credit it (R407, R411). -/
def popOp : EngineOp := { fibre := 2, slot := 1, iss := { core := 0, slot := 1, pc := 0x1000 }, next := 0x1002, pops := [0] }
def creditOp : EngineOp := { popOp with pops := [], credit := some { desc := 0, n := 0, bytes := 64, pois := false } }
def engined (s : State) (op : EngineOp) : State :=
  event { core0 s fun c => { c with vec := some op } with heldWrites := op.waiting 0 } (.engineInstructionComplete 0 false)

theorem witness_EngineInstructionsFinish_effects :
    (∀ op ∈ [smallOp, popOp, creditOp], let s := engined (ringed 0xFFFFFFFF 0 [(1, 64)]) op
      Finishes s 0 false op ∧ s.grants = [] ∧ s.heldWrites = op.waiting 0 ∧ op.poison = [] ∧ s.Inv) ∧
      (smallOp.credit = none ∧ smallOp.pops = []) ∧
      (popOp.puts = [] ∧ popOp.credit = none ∧ ringFilled (engined (ringed 0xFFFFFFFF 0 [(1, 64)]) popOp) ring0 ≠ 0) ∧
      (let s := engined (ringed 0xFFFFFFFF 0 [(1, 64)]) creditOp
       creditOp.puts = [] ∧ creditOp.pops = [] ∧ ((s.core 0).fib creditOp.fibre).task = none ∧
         okWith (creditCheck s ring0 (s.coreId 0 0) 64 none) (· == (0, [(0x100000000, 64)])) = true ∧
         (slotState s ring0 0x100000000 + 32 ≤ ring0.key ∨ ring0.key + 64 ≤ slotState s ring0 0x100000000)) := by
  simp only [Finishes, inv_iff]
  decide +kernel
/-! ### Further clauses of copies, stashes and collectives (R55–R65, R171–R175, R416) -/

/-- A request on a tag that is not set, and one whose copy the channel takes with its source. -/
theorem witness_TheCourierServesRequests_tags :
    (let s := mailed block16 5 0
     let t := core0 s fun c => { c with tags := 0 }
     let w6 := ((t.core 0).mb.get 2).words.get 6
     t.ev = .courierRequestServe 0 ∧ (t.core 0).courierFree = true ∧ (t.core 0).courierCmd = none ∧ (t.core 0).nextMail = some 2 ∧
       ((t.core 0).mb.get 2).words.get 7 = 0 ∧ w6.extractLsb' 11 53 = 0 ∧ w6.toNat / 256 % 8 ≤ 4 ∧ (t.core 0).tags.getLsbD 5 = false) ∧
      ∀ acq : Bool, let s := mailed block16 (if acq then 0x45 else 0x5) 0
        let m := (s.core 0).mb.get 2
        let u := s.modCore 0 fun c =>
          { c with mb := c.mb.set 2 { m with full := false }, mbLast := 2, courierTask := m.task, courierDead := false, courierCmd := none }
        (s.core 0).nextMail = some 2 ∧ (s.core 0).tags.getLsbD 5 = true ∧ channelFree s 0 = true ∧ (m.words.get 6).getLsbD 7 = false ∧
          okWith (copyChecks u 0 .cpy (m.words.toList.take 6) ((m.words.get 6).toNat / 64 % 4)) (fun op => !acq ||
            hasOk (copyGrant u { op with tag := 5, task := m.task, dead := m.dead, pc := ((s.core 0).fib 1).pc, chan := freeChannel s 0 })) = true := by
  refine ⟨by decide +kernel, fun acq => ?_⟩
  cases acq <;> decide +kernel

/-- A copy to a ring of another module leaves, and its report comes; one that a reservation elsewhere does not hold back; and one that covers a
poisoned line in part. -/
theorem witness_CopiesReadDeliverAndComplete_away :
    (let o : CopyOp := { copyOp0 with granted := true, dst := .away 0x10008 0x40 }
     let s := copying [o] (.copyComplete 0 5)
     (s.cluster (clusterOf 0)).copies.find? (fun o => o.core == 0 && o.tag == 5) = some o ∧ copyReady s (s.cluster (clusterOf 0)).copies o = true ∧ s.grants = []) ∧
      (let o : CopyOp := { copyOp0 with granted := true }
       let s := { copying [o] (.copyComplete 0 5) with grants := [{ gran := 0x9000, core := 1, fibre := 2, granted := true }] }
       copyReady s (s.cluster (clusterOf 0)).copies o = true ∧ s.grants ≠ [] ∧ copyHeld s o = false) ∧
      (let o : CopyOp := { copyOp0 with granted := true, dst := .away 0x10008 0x40, sent := some 7 }
       ((copying [o] .idle).cluster (clusterOf 0)).copies.find? (fun o => o.core == 0 && o.sent == some 7) = some o ∧ o.core = 0) ∧
      (let s := { base with poison := [0x20200 / 64] }
       s.Inv ∧ s.grants = [] ∧ s.heldWrites = [] ∧ okIs (resolveRange s (s.engineOf 0) 0x1200 16 .write) [(⟨0x20200, .mapped false⟩, 16)] = true ∧
         (linesOf 0x20200 16).any (fun x => s.poison.contains x && (x * 64 < 0x20200 || 0x20200 + 16 < x * 64 + 64)) = true) := by
  simp only [inv_iff]; decide +kernel

/-- A block of FMT 2 that is valid: SE 1, MODE 2, codes of 0. -/
def blockOf (se mode : Byte) : List Byte := [se, mode] ++ List.replicate 30 0

/-- A STASH with its source; RESTOREs whose block is valid, is not valid, and is poisoned; and an end whose destination is not mapped. -/
theorem witness_StashAndRestoreRun_blocks :
    (let o := stashOp0 true (List.replicate 256 0)
     o.fmt ≠ 3 ∧ o.data.length = o.n * 4 ∧ o.pois.length = o.n * 4 ∧ 0 < (o.n + 63) / 64) ∧
      (∀ k : Fin 3, let o : StashOp := { stashOp0 false (blockOf (if k = 0 then 1 else 0) 2) with pois := List.replicate 32 (k = 2) }
        o.fmt ≠ 3 ∧ o.data.length = (o.n + 63) / 64 * 32 ∧ o.pois.length = (o.n + 63) / 64 * 32 ∧ (o.n + 63) / 64 = 1 ∧
          decide (o.pois.any id = true ∨ stashDecode 2 (o.data.take 32) ≠ none) = decide (k ≠ 1)) ∧
      ∀ stash : Bool, ∃ (s : State) (o : StashOp) (c : Cause) (a : Word),
        let mine (o : StashOp) : Bool := o.tag == 5 && o.stash == stash
        let u := s.modCore 0 fun c => { c with stashes := c.stashes.filter fun o => !mine o }
        enginesHeld s 0 = false ∧ (s.core 0).stashes.find? mine = some o ∧
          stops (resolveRange u (u.engineOf 0) (if stash then o.blocks else o.elems)
            (if stash then (o.encoded.1, o.encoded.2, true) else o.decoded).1.length .write) (.trap c a 0 false) = true := by
  refine ⟨by decide +kernel, by decide +kernel, fun stash => ?_⟩
  let o : StashOp := { stashOp0 stash (if stash then List.replicate 256 0 else blockOf 1 2) with elems := 0x5000, blocks := 0x5000 }
  exact ⟨core0 base fun c => { c with stashes := [o] }, o, 0x041, 0x5000, by cases stash <;> decide +kernel⟩

/-! ### Collectives -/

/-- The pieces of a start's descriptor at 0x1400. -/
def startPieces : List (Loc × Nat) := [(⟨0x20400, .mapped false⟩, 128)]

/-- CSTART reads its descriptor: clean, poisoned, held by the port; and the checks pass, fail, and wait. -/
theorem witness_CollectivesStart_reads :
    (∀ bad : Bool, let s := if bad then { starting soloB with poison := [0x20400 / 64] } else starting soloB
      ((s.getG 1).extractLsb' 0 56).toNat % 64 = 0 ∧
        okIs (resolveRange s (s.party s.L) ((s.getG 1).extractLsb' 0 56) 128 .read) startPieces = true ∧ okIs (piecesGo s startPieces false) () = true ∧
        piecesPoisoned s startPieces = bad ∧ s.me.task = none ∧ viewPieces s s.L startPieces = soloB ∧ (s.getG 0).toNat = 5 ∧ s.here.tags.getLsbD 5 = true ∧
        portFree s = true ∧ okIs (watchRange s ((s.getG 1).extractLsb' 0 56) 128 true false) () = true ∧ okIs (collChecks s s.L (collDesc soloB)) () = true) ∧
      (let s := { core0 (starting soloB) fun c => { c with fence := 1 } with grants := ported.grants }
       okIs (resolveRange s (s.party s.L) 0x1400 128 .read) startPieces = true ∧ (s.getG 1).extractLsb' 0 56 = 0x1400 ∧
         ∃ w, piecesGo s startPieces false = .error (.wait w)) ∧
      (let s := starting (List.replicate 128 0)
       okIs (resolveRange s (s.party s.L) 0x1400 128 .read) startPieces = true ∧ okIs (piecesGo s startPieces false) () = true ∧
         stops (collChecks s s.L (collDesc (viewPieces s s.L startPieces))) (.trap 0x0E0 0 0 false) = true) ∧
      (let s := (starting soloB).modCtx 0 fun x => { x with colls := (List.range 16).map fun i => { id := BitVec.ofNat 32 (20 + i), parts := [part0 []] } }
       okIs (resolveRange s (s.party s.L) 0x1400 128 .read) startPieces = true ∧ okIs (piecesGo s startPieces false) () = true ∧
         stops (collChecks s s.L (collDesc (viewPieces s s.L startPieces))) (.wait .collective) = true) ∧
      (let s := { starting soloB with grants := [{ gran := 0x5000, core := 0, fibre := 3, granted := false }] }
       okIs (piecesGo s startPieces false) () = true ∧ ∃ w, writeGo s noGran true = .error (.wait w)) := by
  refine ⟨fun bad => by cases bad <;> decide +kernel, ⟨by decide +kernel, by decide +kernel, waits_of (by decide +kernel)⟩, by decide +kernel, by decide +kernel,
    by decide +kernel, waits_of (by decide +kernel)⟩

/-- An all-gather of two modules side by side; a reduction over one axis whose result a second axis gathers; a destination in the ring of core 0. -/
def shareB : List Byte := collB 521 1 0xFFFFFFFFFFF8 0xFFFFFFFFFFFF
def mixB : List Byte := collB (521 + 65536 * 1033) 1 0x1FFFFFFFFFFF9 0xFFFFFFFFFFFF 2
def ringB : List Byte := collB 6 1 0xFFFFFFFFFFFF 0xFFFFFFFFFFFF 1 1

/-- Context 0 of the machine with a ring has a collective. -/
def ringColl (k : Coll) (e : Event) : State := event ((ringed 0 0 []).modCtx 0 fun x => { x with colls := [k] }) e

/-- A ready-to-receive of module 1 for chunk 0, of 128 bytes at 0x1200. -/
def askBytes : List Byte := leBytes 4 9 ++ [0] ++ leBytes 3 0 ++ leBytes 8 0x1200 ++ leBytes 4 128 ++ List.replicate 12 0
def askMsg (src : CoreId) : Msg := { id := 1, src, dst := 0, ctx := 0, fibre := 1, pc := 0, cycle := 0, body := .ready askBytes }

/-- Chunks of a ring with room and without, asks of another module that can be served and that must wait, and a chunk into a ring. -/
theorem witness_CollectivesRunAndEnd_chunks :
    (∀ room : Bool, let p : CollPart := { part0 ringB with ready := if room then [] else [0, 1] }
      let k : Coll := { id := 9, parts := [p], agreed := true }
      let chunk := if room then 0 else 2
      let s := ringColl k (.collReadyToReceive 0 9 0 chunk none)
      let x := collDesc p.desc
      chunk ∉ p.got ∧ chunk ∉ p.ready ∧ enginesHeld s p.core = false ∧ x.ringdst = true ∧ x.rings 0 = [⟨0, 0⟩] ∧
        chunk * slotBytes s ⟨0, 0⟩ < x.bytes x.dst ∧ chunk = p.got.length + p.ready.length ∧ decide (p.ready.length < freeSlots s ⟨0, 0⟩ 0) = room) ∧
      (∀ wait : Bool, let p : CollPart := { part0 (if wait then mixB else shareB) with src := List.replicate 128 1, pois := List.replicate 128 false }
        let k : Coll := { id := 9, parts := [p], agreed := true }
        let m := askMsg (if wait then 0x20000 else 0x10000)
        let s := colls k (.collReadyToReceive 0 9 0 0 (some m))
        let q := if wait then [0, 1] else [1]
        idModule m.src ≠ s.modNum.toNat ∧ k.id = BitVec.ofNat 32 (leNat (askBytes.take 4)) ∧ collRuns s k = true ∧ k.asked = [] ∧ k.served? s = false ∧
          k.desc.coords.find? (k.desc.idOf · == m.src) = some q ∧ (k.outgoing s q 0 32).isNone = wait ∧
          (∀ x, k.outgoing s q 0 32 = some x → x.1 ≠ [])) ∧
      (let p : CollPart := { part0 ringB with ready := [0], src := List.replicate 256 1, pois := List.replicate 256 false }
       let k : Coll := { id := 9, parts := [p], agreed := true }
       let s := ringColl k (.collChunkArrive 0 9 0 0 [] [])
       let l : Loc := ⟨0x20400, .mapped false⟩
       let u := s.homeWrite none l.key (List.replicate 64 1)
       (k.desc.here s).find? (·.2 == 0) = some ([0], 0) ∧ enginesHeld s p.core = false ∧ s.Inv ∧ s.heldWrites = [] ∧
         k.piece s [0] 0 (min (slotBytes s ring0 / 4) 64) [] [] = some (List.replicate 64 1, List.replicate 64 false) ∧
         okIs (slotPieces s ring0 2 (ringHead s ring0 + cursor s ring0 0) .write) [(l, slotBytes s ring0)] = true ∧
         okWith (creditCheck u ring0 (ringProd u ring0 0) (slotBytes u ring0) none) (· == (0, [(0, 64)])) = true ∧
         (slotState u ring0 0 + 32 ≤ ring0.key ∨ ring0.key + 64 ≤ slotState u ring0 0)) := by
  refine ⟨fun room => by cases room <;> decide +kernel, fun wait => ?_, by simp only [inv_iff]; decide +kernel⟩
  cases wait <;> decide +kernel

/-! ### Further clauses of gateways, refills, messages, queues and packets (R58–R65, R87–R100, R219–R224, R309, R413) -/

/-- A pass one whose policies disagree; passes two of INT32, of FP32 with finite blocks and with one that is not; and starts that agree, that
differ and that fail while a part is open. -/
theorem witness_CollectivesRunAndEnd_gateways :
    (let k : Coll := { id := 9, parts := [part0 (duoB 0)], agreed := true }
     let s := colls k (.gatewayPassOne 0 9 0 [(0, 0xC0, 0)])
     k.desc.etype = 0 ∧ k.pass1.any (·.1 == 0) = false ∧ k.block? s 0 = some ([[0], [1]], 0) ∧ (k.desc.modules [[0], [1]]).length = 2 ∧ collRuns s k = true ∧
       (([modulePass (k.blockSums s [[0], [1]] 0) (k.nf.getLsbD 0), (0, 0xC0, 0)].any (·.2.1.getLsbD 6)) &&
         ([modulePass (k.blockSums s [[0], [1]] 0) (k.nf.getLsbD 0), (0, 0xC0, 0)].any (·.2.1.getLsbD 7))) = true ∧ ∃ p ∈ k.parts, p.done = false) ∧
      (∀ x ∈ [(1, 0), (0, 0), (0, 0x81)], let F : BitVec 8 := BitVec.ofNat 8 x.2
        let p : CollPart := { part0 (duoB x.1) with src := (List.replicate 64 (leBytes 4 (if x.1 = 0 then 0x3F800000 else 1))).flatten, pois := List.replicate 256 false }
        let k : Coll := { id := 9, parts := [p], agreed := true, pass1 := if x.1 = 0 then [(0, 127, F, 0)] else [] }
        let s := colls k (.gatewayPassTwo 0 9 0 [List.replicate 64 1])
        k.pass2.any (·.1 == 0) = false ∧ k.block? s 0 = some ([[0], [1]], 0) ∧ collRuns s k = true ∧ k.asked = [] ∧ (∃ p ∈ k.parts, p.done = false) ∧
          (k.desc.modules [[0], [1]]).length = 2 ∧ k.desc.etype = x.1 ∧ (decide (x.1 = 1) || k.pass1.find? (·.1 == 0) == some (0, 127, F, 0) &&
            (F.extractLsb' 0 3 == 0) == (x.2 == 0) && (k.blockSums s [[0], [1]] 0).getD 63 0 == 0x3F800000) = true) ∧
      (let k : Coll := { id := 9, parts := [part0 soloB] }
       let s := colls k (.collDescriptorCompare 0 9 [])
       s.coll? 0 9 (!·.agreed) = some k ∧ k.asked = [] ∧
         okWith (k.parts.mapM (readSource s)) (fun ps => ps.any fun p => !p.done) = true ∧ ∃ p ∈ k.parts, p.done = false) := by
  refine ⟨by decide +kernel, by decide +kernel, by decide +kernel⟩

/-- A credit for a discarded attempt, for a ring that is not bound, and one more than the 64 records of a task of another module. -/
theorem witness_MessagesArrive_credits :
    (let s := carried (ringed 0 0 []) (.credit 0 1 none true 0) (.ringCreditArrive 1 none)
     s.ev = .ringCreditArrive 1 none ∧ Arrives s 1 (msg1 (.credit 0 1 none true 0)) 0) ∧
      (let s := carried base (.credit 0 1 none false 0) (.ringCreditArrive 1 none)
       Arrives s 1 (msg1 (.credit 0 1 none false 0)) 0 ∧ ringValid ({ s with msgs := [] }.countMsg (msg1 (.credit 0 1 none false 0)) 0) ⟨0, 0⟩ = false) ∧
      ∃ (m : Msg) (n i b : Nat), let s := { (ringed 0 0 []).wrN (tcmKey 0 32) 4 0x10008 with part := 0x5001000 }
        ringValid s ring0 = true ∧ s.foreign m = true ∧ prodIndex s ring0 m.src = some n ∧ 1 ≤ freeSlots s ring0 n ∧ 1 ≤ ringSlots s ring0 ∧
          (creditPlan s ring0 n (ringHead s ring0) (advtBytes s ring0 n 1) (ringSlots s ring0)).1 = [(i, b)] ∧ 64 ≤ 64 + (s.awayOf m.src 0x1400).length ∧
          ∀ h ∈ s.awayOf m.src 0x1400, h.core = ring0.core → h.desc = ring0.off → h.slot.toNat ≠ i % 2 ^ 32 := by
  refine ⟨?_, ?_, { msg1 (.credit 0 1 (some 0x1400) false 64) with src := 0x10008 }, 0, 0, 64, ?_⟩ <;> simp only [Arrives] <;> decide +kernel

/-- A packet of queue 0 in host memory at its HEAD: a LAUNCH whose HEAD move waits for its issue, a SIGNAL, and two whose words are not in order. -/
def atHead (kind : Nat) (body : List Byte) : State :=
  (queues oneSq openCq (.sqPacketRead 0 0 false)).wr (hostKey 0) (leBytes 8 (kind * 65536 + 0x1000000) ++ body ++ List.replicate (56 - body.length) 0)

theorem witness_QueuesAreEnabledAndRead_packets :
    ∀ x ∈ [(1, leBytes 8 0 ++ leBytes 4 1), (5, leBytes 8 0x1000 ++ leBytes 4 1), (6, leBytes 8 0 ++ leBytes 2 1), (7, []), (3, leBytes 8 0x1100), (9, []), (3, leBytes 8 0x1100 ++ leBytes 4 0 ++ [2])],
      let s := atHead x.1 x.2
      let y := (s.ctx 0).sq 0
      let b := s.hostRead (y.base.toNat / 4096 * 4096 + 64 * (y.head.toNat % 2 ^ y.log2.toNat)) 64
      let p := (packetOf b s.nextId 0).1
      canRead s 0 0 = true ∧ y.tries = 0 ∧ p.kind.toNat = x.1 ∧ (p.stamp = y.seq ∧ leNat ((b.drop 56).take 2) = y.seq.toNat) ∧
        decide ((if (packetOf b s.nextId 0).2 then bodyCause p else some 0x160) = none) = decide (x.1 ≠ 9 ∧ (x.1 ≠ 3 ∨ x.2.length = 8)) := by
  decide +kernel

/-- A MAP packet by its CTL and address, with an entry to write in host memory; the state that issues it, and the table of its leaf. -/
def mapW (x : Nat × Nat) : Vector Word 6 := #v[BitVec.ofNat 64 x.2, BitVec.ofNat 64 (1 + x.1 * 2 ^ 32), 0, 0, 0, 0]
def mapping (x : Nat × Nat) : State :=
  (packeted (packet 5 (mapW x) false) (.mapPacket 0 1)).wr (hostKey 0) (leBytes 8 (if x.1 < 2 then 0x2000F else 0x1000000000F))
def mapIssued (x : Nat × Nat) : State := passHead ((mapping x).setPacket 0 (packet 5 (mapW x) true)) 0 0
def mapTable (x : Nat × Nat) : Nat := placePool + 0x1000 * (4 - [0, 0, 1, 2].getD (x.1 % 4) 0)
def mapOld (x : Nat × Nat) : List Word :=
  (List.range (if x.1 % 4 = 1 then 16 else 1)).map fun j =>
    (mapIssued x).rd64 (mapTable x + 8 * (x.2 / 2 ^ (12 + 9 * [0, 0, 1, 2].getD (x.1 % 4) 0) % 512) + 8 * j)

/-- MAPs of pages of each size over no leaf, of one over a leaf, and unmaps with a leaf and without one. -/
def mapCases : List (Nat × Nat) :=
  [(0, 0x2000), (0, 0x1000), (1, 0x10000), (2, 0x200000), (3, 0x40000000), (4, 0x2000), (4, 0x1000), (5, 0x10000), (6, 0x200000), (7, 0x40000000)]

theorem maps_packet : ∀ x ∈ mapCases, ((mapping x).ctx 0).packet? 1 = some (packet 5 (mapW x) false) := by decide +kernel
theorem maps_issue : ∀ x ∈ mapCases, (decide ((packet 5 (mapW x) false).kind.toNat = 5) && canIssue (mapping x) 0 (packet 5 (mapW x) false) &&
    (packet 5 (mapW x) false).late) = true := by decide +kernel

theorem maps_wf : ∀ x ∈ mapCases, Memory.wf (mapIssued x).mem = true := by decide +kernel

theorem witness_PacketsDoTheirWork_maps_issue (x : Nat × Nat) (h : x ∈ mapCases) :
    ∃ u, issuing (mapping x) 0 1 5 = some (u, packet 5 (mapW x) true) ∧ u.Inv := by
  have e : ({ packet 5 (mapW x) false with issued := true } : Packet) = packet 5 (mapW x) true := rfl
  refine ⟨mapIssued x, ?_, maps_wf x h⟩
  rw [issuing_late (maps_packet x h) (maps_issue x h), e]
  rfl

/-- The leaf of the page, where it is present. -/
def mapWas (x : Nat × Nat) : Option Word := (mapOld x).find? fun o => pteV o && pteLeaf o

theorem witness_PacketsDoTheirWork_maps_table : ∀ x ∈ mapCases,
    okWith (tableAt (mapIssued x) x.2 4 ((mapIssued x).ctx 0).poolBase ([0, 0, 1, 2].getD (x.1 % 4) 0)) (· == some (mapTable x)) = true := by
  decide +kernel

theorem witness_PacketsDoTheirWork_maps_leaf : ∀ x ∈ mapCases,
    ((mapOld x).all fun o => !pteV o || pteLeaf o && ptePS o == decide (x.1 % 4 = 1)) = true ∧ (mapWas x).isSome = decide (x.2 = 0x1000) := by
  decide +kernel

theorem witness_PacketsDoTheirWork_maps_quota : ∀ x ∈ mapCases,
    overQuota ((mapIssued x).ctx 0) (useAfter ((mapIssued x).ctx 0) (mapReq (mapIssued x) (packet 5 (mapW x) true)) [mapWas x]) = false := by
  decide +kernel

theorem witness_PacketsDoTheirWork_maps_entry : ∀ x ∈ mapCases.take 5,
    entryValid (mapIssued x) (mapReq (mapIssued x) (packet 5 (mapW x) true)) (BitVec.ofNat 64 (leNat ((mapIssued x).hostRead 0 8))) = true := by
  decide +kernel

/-- COPYs in the three directions; a launch that signals its end and a SIGNAL behind no waiting write; books that may and may not be loaded. -/
theorem witness_PacketsDoTheirWork_copies :
    (∀ dir : Fin 3, let p := packet 2 (if dir = 1 then #v[0x100, 0x1100, 64, 1, 0, 0] else if dir = 2 then #v[0x1100, 0x100, 64, 2, 0, 0] else #v[0x1100, 0x1200, 64, 0, 0, 0]) true
      let s := packeted p (.copyPacketDone 0 1)
      s.ev = .copyPacketDone 0 1 ∧ running s 0 1 2 = some p ∧ p.num 16 8 = 64 ∧ p.num 24 1 = dir.val ∧ s.Inv ∧ s.grants = [] ∧ s.heldWrites = [] ∧
        (dir ≠ 2 → s.rangePieces (p.va 1) 64 = [((p.va 1).toNat, 64)] ∧
          resolve s (noCore 0) (p.va 1) .write = .ok ⟨if dir = 1 then 0x20100 else 0x20200, .mapped false⟩) ∧
        (dir ≠ 1 → s.rangePieces (p.va 0) 64 = [((p.va 0).toNat, 64)] ∧ resolve s (noCore 0) (p.va 0) .read = .ok ⟨0x20100, .mapped false⟩)) ∧
      (let s := { packeted (packet 1 #v[0, 0, 0x1100, 0, 0, 0] true) (.launchComplete 5) with launches := [{ id := 5, ctx := 0, owner := .packet 0 1 }] }
       s.heldWrites = []) ∧
      (signalling false 0).heldWrites = [] ∧
      (∃ d : Nat, ∀ k, k < 6 → (base.ctx 0).owns (d * 6 + k) = false) ∧
      ∀ run : Bool, let s := base.modDie 0 fun d => { d with book := { state := if run then .run else .empty } }
        (s.ctx 0).owns 0 = true ∧ decide ((s.book 0).state = .run ∨ (s.book 0).flight ≠ []) = run := by
  refine ⟨?_, by decide +kernel, by decide +kernel, ⟨7, by decide +kernel⟩, by decide +kernel⟩
  simp only [inv_iff, ok_iff]; decide +kernel

/-- A busy handler takes the next fibre with its slot; and no counted fibre of an armed core has still to count. -/
theorem witness_FatalFaultsDumpsAndHalts_counted :
    let s := core0 (tasked.wr 0x20500 (List.replicate 128 0)) fun c => { c with fibres := c.fibres.map fun e => (e.1, { e.2 with counted := true }) }
    (s.core 0).fibres ≠ [] ∧ ∀ e ∈ (s.core 0).fibres, e.2.counted = true := by
  decide +kernel

/-- A read of BAR1 is of no assigned byte. -/
theorem witness_HostAccessesReachTheirTargets_bars :
    let s := event base (.barUnassignedAccess 1 0 8 none)
    s.ev = .barUnassignedAccess 1 0 8 none ∧ barAssigned s 1 0 8 false = false := by
  decide +kernel

end Sys2Proof.Tests
end

section
/-! SUPPORT. Division (R350): the model's truncated quotient and remainder are those that the rule prints. -/

namespace Sys2Proof.Machine

/-- Truncated division, by the signs and the magnitudes. -/
theorem tdiv_eq_sign_mul_natAbs_div (a b : Int) :
    a.tdiv b = (a * b).sign * ((a.natAbs / b.natAbs : Nat) : Int) := by
  rw [← Int.sign_mul_natAbs (a.tdiv b), Int.sign_tdiv, Int.natAbs_tdiv]
  split
  case isTrue hlt => simp [Nat.div_eq_of_lt hlt]
  case isFalse => rw [Int.sign_mul]; rfl

theorem divS_eq_quotient (x y : Word) :
    divS x y = if y = 0 then BitVec.allOnes 64 else BitVec.ofInt 64 (quotient x y) := by
  simp only [divS, quotient, tdiv_eq_sign_mul_natAbs_div]

theorem remS_eq_sub_mul_quotient (x y : Word) :
    remS x y = if y = 0 then x else BitVec.ofInt 64 (x.toInt - y.toInt * quotient x y) := by
  simp only [remS, quotient, Int.tmod_def, tdiv_eq_sign_mul_natAbs_div]

/-- A register form without flags completes with its result. -/
theorem rr_spec (o : OpRR) (s : State) (lat : Nat) (r : Word) : GivesResult s (rr o s lat r) lat o.d r :=
  result_spec s lat o.d r

/-- Settles O11: each division completes with its result by `rr_spec`, and the signed results are the rule's. -/
theorem divisionTruncatesAndNeverTraps : Obligations.DivisionTruncatesAndNeverTraps := by
  intro s o x y
  refine ⟨?_, ?_, rr_spec o s 6 (divU x y), rr_spec o s 6 (remU x y)⟩
  · rw [← divS_eq_quotient]
    exact rr_spec o s 6 (divS x y)
  · rw [← remS_eq_sub_mul_quotient]
    exact rr_spec o s 6 (remS x y)

end Sys2Proof.Machine
end

section
/-! SUPPORT. The condition tests of B.cc (R353), and what the flags of a comparison (R346) say of its operands. -/

namespace Sys2Proof.Machine

/-! ## The tests -/

section
variable (k : Cond)

@[simp] theorem Cond.test_eq_iff : k.test 0 = true ↔ k.z = true := Iff.rfl
@[simp] theorem Cond.test_ne_iff : k.test 1 = true ↔ k.z = false := iff_of_eq (Bool.not_eq_true' k.z)
@[simp] theorem Cond.test_lt_iff : k.test 2 = true ↔ k.n ≠ k.v := bne_iff_ne
@[simp] theorem Cond.test_ge_iff : k.test 3 = true ↔ k.n = k.v := beq_iff_eq
@[simp] theorem Cond.test_ltu_iff : k.test 4 = true ↔ k.c = true := Iff.rfl
@[simp] theorem Cond.test_geu_iff : k.test 5 = true ↔ k.c = false := iff_of_eq (Bool.not_eq_true' k.c)
@[simp] theorem Cond.test_mi_iff : k.test 6 = true ↔ k.n = true := Iff.rfl
@[simp] theorem Cond.test_al : k.test 7 = true := rfl

end

/-! ## The flags of x − y -/

section
variable (x y : Word)

/-- The result of class A without a borrow in is the difference modulo 2^64. -/
theorem flagsA_sub_r : (flagsA x y false true).r = x - y := by
  apply BitVec.eq_of_toNat_eq
  simp only [flagsA, if_true, Bool.toNat_false, BitVec.toNat_ofInt, BitVec.toNat_sub]
  omega

theorem flagsA_sub_n : (flagsA x y false true).f.n = (x - y).msb :=
  congrArg BitVec.msb (flagsA_sub_r x y)

theorem flagsA_sub_z_iff : (flagsA x y false true).f.z = true ↔ x = y := by
  have hz : (flagsA x y false true).f.z = ((flagsA x y false true).r == 0#64) := rfl
  rw [hz, flagsA_sub_r, beq_iff_eq, BitVec.sub_eq_iff_eq_add, BitVec.zero_add]

/-- The borrow out. -/
theorem flagsA_sub_c_iff : (flagsA x y false true).f.c = true ↔ x.toNat < y.toNat := by
  simp only [flagsA, if_true, Bool.toNat_false, decide_eq_true_eq]
  omega

/-- Signed overflow: the difference of the signed values is outside the signed range. -/
theorem flagsA_sub_v_iff :
    (flagsA x y false true).f.v = true ↔ x.toInt - y.toInt < -2 ^ 63 ∨ 2 ^ 63 ≤ x.toInt - y.toInt := by
  simp only [flagsA, if_true, Bool.toNat_false, Int.natCast_zero, Int.sub_zero, decide_eq_true_eq]

/-- The sign of the difference is wrong exactly when it overflows, so N and V differ exactly when x is below y. -/
theorem flagsA_sub_n_ne_v_iff :
    (flagsA x y false true).f.n ≠ (flagsA x y false true).f.v ↔ x.toInt < y.toInt := by
  have hn : (flagsA x y false true).f.n = true ↔ (x.toInt - y.toInt).bmod (2 ^ 64) < 0 := by
    rw [flagsA_sub_n, BitVec.msb_eq_toInt, BitVec.toInt_sub, decide_eq_true_eq]
  have hx := x.le_toInt
  have hx' := x.toInt_lt
  have hy := y.le_toInt
  have hy' := y.toInt_lt
  rw [ne_eq, Bool.eq_iff_iff, hn, flagsA_sub_v_iff]
  simp only [Int.bmod]
  omega

end

/-! ## B.cc and CMP -/

theorem execBcc_spec (o : OpBC) (s : State) :
    JumpsTo s (execBcc o s) (if s.cond.test o.cc then s.relTarget o.off else s.nextPc) := by
  unfold execBcc
  split
  · exact jump_spec s (s.relTarget o.off)
  · exact jump_spec s s.nextPc

/-- A comparison that completes leaves the flags of x − y. -/
theorem condOf_flags_of_execCmp {o : OpRR} {s t : State} (h : execCmp o s = .next t) :
    condOf (s.plane.flags t) = (flagsA (o.x s) (o.y s) false true).f := by
  obtain ⟨t', ht', -, -, ⟨hf, -⟩, -⟩ := compared_spec s (flagsA (o.x s) (o.y s) false true)
  obtain rfl : t = t' := Host.Outcome.next.inj (h.symm.trans ht')
  exact hf

/-- Settles O9: the tests are read off the flags, and the flags of CMP are those of x − y. -/
theorem conditionsHoldAsTheCompareSays : Obligations.ConditionsHoldAsTheCompareSays := by
  refine ⟨fun k => ⟨k.test_eq_iff, k.test_ne_iff, k.test_lt_iff, k.test_ge_iff, k.test_ltu_iff, k.test_geu_iff,
    k.test_mi_iff, k.test_al⟩, fun s o => execBcc_spec o s, fun s t o h => ?_⟩
  intro c x y
  have hf : c = (flagsA x y false true).f := condOf_flags_of_execCmp h
  have hz := flagsA_sub_z_iff x y
  have hlt := flagsA_sub_n_ne_v_iff x y
  have hc := flagsA_sub_c_iff x y
  have hn := flagsA_sub_n x y
  rw [← hf] at hz hlt hc hn
  refine ⟨c.test_eq_iff.trans hz, ?_, c.test_lt_iff.trans hlt, ?_, c.test_ltu_iff.trans hc, ?_,
    c.test_mi_iff.trans (Bool.eq_iff_iff.mp hn), c.test_al⟩
  · rw [c.test_ne_iff, ← Bool.not_eq_true, ne_eq, hz]
  · rw [c.test_ge_iff, ← Int.not_lt, ← hlt, Decidable.not_not]
  · rw [c.test_geu_iff, ← Nat.not_lt, ← hc, Bool.not_eq_true]

end Sys2Proof.Machine
end

section
/-! SUPPORT. Taking a trap (R277, R282, R286): the trapping fibre parks with its record, and neither the trace of the trap nor its way to
the urgent handler or the host changes what the plane then shows. -/

namespace Sys2Proof.Machine

/-! ## Operations that leave every core as it was -/

/-- The cores and the dies, whose clocks an untouched core starts from, are as they were. -/
def State.SameCores (s t : State) : Prop := t.cores = s.cores ∧ t.dies = s.dies

theorem State.SameCores.rfl {s : State} : s.SameCores s := ⟨Eq.refl _, Eq.refl _⟩

theorem State.SameCores.trans {s t u : State} (h : s.SameCores t) (h' : t.SameCores u) : s.SameCores u :=
  ⟨h'.1.trans h.1, h'.2.trans h.2⟩

theorem State.SameCores.core {s t : State} (h : s.SameCores t) (L : Nat) : t.core L = s.core L := by
  obtain ⟨hcores, hdies⟩ := h
  simp only [State.core, State.cycleOf, State.die, hcores, hdies]

theorem sameCores_wr (s : State) (k : Nat) (bs : List Byte) : s.SameCores (s.wr k bs) := ⟨cores_wr s k bs, dies_wr s k bs⟩

theorem sameCores_setCtx (s : State) (n : Nat) (x : Ctx) : s.SameCores (s.setCtx n x) := ⟨cores_setCtx s n x, dies_setCtx s n x⟩

theorem sameCores_apply (s : State) (who : Option Nat) (k : Nat) (bs : List Byte) (pois : List Nat) :
    s.SameCores (s.apply who k bs pois) := by
  unfold State.apply
  split
  · exact .rfl
  · split <;> exact ⟨rfl, rfl⟩

theorem sameCores_writeParts (who : Option Nat) (pois : List Nat) (fuel : Nat) (s : State) (k : Nat) (bs : List Byte) :
    s.SameCores (writeParts s who k bs pois fuel) := by
  induction fuel generalizing s k bs with
  | zero => exact .rfl
  | succ n ih =>
    unfold writeParts
    split
    · exact .rfl
    · refine State.SameCores.trans ?_ (ih _ _ _)
      split
      · exact ⟨rfl, rfl⟩
      · exact sameCores_apply s who k _ pois

theorem sameCores_homeWrite (s : State) (who : Option Nat) (k : Nat) (bs : List Byte) (pois : List Nat) :
    s.SameCores (s.homeWrite who k bs pois) := by
  unfold State.homeWrite
  split
  · exact sameCores_apply s who k bs pois
  · exact sameCores_writeParts who pois _ s k bs

theorem sameCores_writePieces (who : Option Nat) (pois : List Nat) (ps : List (Loc × Nat)) (s : State) (bs : List Byte) :
    s.SameCores (writePieces s who ps bs pois) := by
  induction ps generalizing s bs with
  | nil => exact .rfl
  | cons e ps ih => exact (sameCores_homeWrite s who e.1.key _ pois).trans (ih _ _)

theorem sameCores_of_writeVa {s t : State} {p : Party} {va : VAddr} {bs : List Byte} (h : writeVa s p va bs = .ok t) :
    s.SameCores t := by
  unfold writeVa at h
  cases hr : resolveRange s p va bs.length .write with
  | error e => rw [hr] at h; cases h
  | ok ps =>
    rw [hr] at h
    cases h
    exact sameCores_writePieces none [] ps s bs

theorem sameCores_of_traceWrite (k len : Nat) (l : List (CoreId × List Byte)) {s t : State} {i : Nat}
    (h : traceWrite s k i len l = some t) : s.SameCores t := by
  induction l generalizing s i with
  | nil => cases h; exact .rfl
  | cons e l ih =>
    unfold traceWrite at h
    split at h
    next u hw => exact (sameCores_of_writeVa hw).trans (ih h)
    next => cases h

/-- A trace record goes to memory and to its cluster's registers alone (R307, R308). -/
theorem sameCores_traceAt (s : State) (k : Nat) (src : CoreId) (kind : Nat) (pc : VAddr) (detail : Nat) :
    s.SameCores (s.traceAt k src kind pc detail) := by
  unfold State.traceAt
  extract_lets x len n stop full
  split
  · exact .rfl
  · split
    · exact ⟨rfl, rfl⟩
    · split
      next t hw => exact (sameCores_of_traceWrite _ _ _ hw).trans ⟨rfl, rfl⟩
      next => exact ⟨rfl, rfl⟩

theorem sameCores_queueIrq (s : State) (q : CompQ) : s.SameCores (s.queueIrq q) := by
  unfold State.queueIrq
  split <;> exact ⟨rfl, rfl⟩

/-! ## What a plane shows of a trap -/

/-- The fields of a trap record that say what trapped, and where. -/
def TrapInfo.what (x : TrapInfo) : Cause × Word × Word × VAddr × Half × BitVec 3 × Bool :=
  (x.cause, x.addr, x.aux, x.pc, x.word, x.npfx, x.eng)

/-- What `Traps` observes of a plane. -/
structure TrapView where
  trap   : Option (Cause × Word × Word × VAddr × Half × BitVec 3 × Bool)
  status : Status
  a      : Vector Word 8
  flags  : Word
  pc     : VAddr
  h      : Vector (Option (BitVec 12)) 16
  s      : Vector Word 32

/-- The view of a core's fibre, or of its shadow plane. -/
def Core.trapView (c : Core) (f : Nat) (sh : Bool) : TrapView where
  trap := (if sh then c.shadowTrap else (c.fib f).trap).map TrapInfo.what
  status := if sh then c.shadowSt else (c.fib f).status
  a := if sh then c.shadowA else (c.fib f).a
  flags := if sh then c.shadowFl else (c.fib f).flags
  pc := if sh then c.shadowPc else (c.fib f).pc
  h := (c.fib f).h
  s := c.s

def Plane.trapView (p : Plane) (t : State) : TrapView := (p.core t).trapView p.f p.sh

/-- A plane that is parked with such a record, and else as it was, has trapped. -/
theorem traps_of_trapView {s t : State} {cause : Cause} {addr aux : Word} {eng : Bool}
    (h : s.plane.trapView t = { s.plane.trapView s with
      trap := some (cause, addr, aux, s.cur.pc, s.cur.word, s.cur.npfx, eng), status := .parked }) :
    Traps s (.next t) cause addr aux eng := by
  simp only [Plane.trapView, Core.trapView, TrapView.mk.injEq] at h
  obtain ⟨htrap, hstatus, ha, hflags, hpc, hh, hs⟩ := h
  refine ⟨t, rfl, htrap, hstatus, fun i _ => ?_, hflags, hpc, hh, hs⟩
  have hp (u : State) : s.plane.a u i = (if s.plane.sh then (s.plane.core u).shadowA else (s.plane.fib u).a).getD i 0 := by
    unfold Plane.a; split <;> rfl
  rw [hp, hp]
  exact congrArg (Vector.getD · i 0) ha

theorem trapView_of_sameCores {s t : State} (h : s.SameCores t) (p : Plane) : p.trapView t = p.trapView s := by
  simp only [Plane.trapView, Plane.core, h.core]

/-- A change of a core that keeps the view of each of its planes keeps that of every plane. -/
theorem trapView_modCore {g : Core → Core} (hg : ∀ c f sh, (g c).trapView f sh = c.trapView f sh) (s : State) (L : Nat) (p : Plane) :
    p.trapView (s.modCore L g) = p.trapView s := by
  unfold Plane.trapView Plane.core
  by_cases h : p.L = L
  · rw [h, core_modCore_same, hg]
  · rw [core_modCore_ne _ _ h]

/-- Marking a record as written to the fault queue changes none of the fields that say what trapped (R285). -/
theorem trapView_markWritten (s : State) (e : FqEntry) (p : Plane) : p.trapView (s.markWritten e) = p.trapView s := by
  have hw (t : Option TrapInfo) : (t.map fun t => { t with written := true }).map TrapInfo.what = t.map TrapInfo.what := by
    cases t <;> rfl
  unfold State.markWritten
  split
  · rfl
  · split
    · rfl
    · refine trapView_modCore (fun c f sh => ?_) s _ p
      dsimp only
      split
      · cases sh
        · rfl
        · simp only [Core.trapView, if_true, hw]; rfl
      · by_cases hf : f = e.fibre
        · subst hf
          simp only [Core.trapView, fib_modFib_same]
          cases sh
          · simp only [Bool.false_eq_true, if_false, hw, s_modFib]
          · rfl
        · simp only [Core.trapView, fib_modFib_ne _ _ hf]; rfl

theorem trapView_fqWrite (s : State) (n : Nat) (e : FqEntry) (p : Plane) : p.trapView (s.fqWrite n e) = p.trapView s := by
  unfold State.fqWrite
  extract_lets x q b u v
  have hv : s.SameCores v := (sameCores_wr s _ _).trans (sameCores_setCtx u n _)
  rw [trapView_markWritten]
  exact trapView_of_sameCores (hv.trans (sameCores_queueIrq v q)) p

theorem trapView_fqSend (s : State) (n : Nat) (e : FqEntry) (p : Plane) : p.trapView (s.fqSend n e) = p.trapView s := by
  unfold State.fqSend
  extract_lets x
  split
  · exact trapView_fqWrite s n e p
  · split <;> exact trapView_of_sameCores (sameCores_setCtx s n _) p

/-- Wherever a trap goes, every plane shows what it showed (R102, R282, R283). -/
theorem trapView_deliver (s : State) (L f : Nat) (t : TrapInfo) (p : Plane) : p.trapView (deliver s L f t) = p.trapView s := by
  have htrace := trapView_of_sameCores (sameCores_traceAt s (clusterOf L) (s.coreId L t.slot.toNat) 5 t.pc t.cause.toNat) p
  unfold deliver
  split
  · rfl
  · rw [trapView_modCore (g := fun c => c.queueTrap f) (fun _ _ _ => rfl)]; exact htrace
  · rw [trapView_fqSend]; exact htrace

theorem trapView_parkTrap (s : State) (t : TrapInfo) :
    s.plane.trapView (parkTrap s s.L s.fibre s.onShadow t)
      = { s.plane.trapView s with trap := some t.what, status := .parked } := by
  have hp : s.plane = ⟨s.L, s.fibre, s.onShadow⟩ := rfl
  simp only [hp, Plane.trapView, Plane.core, parkTrap, core_modCore_same]
  cases s.onShadow
  · simp only [Core.trapView, Bool.false_eq_true, if_false, fib_modFib_same, s_modFib]
    split <;> rfl
  · rfl

/-! ## An instruction that traps -/

/-- The issuing fibre takes a trap that does not restart its task. -/
theorem takeTrap_spec (s : State) {cause : Cause} (h : restarts cause = false) (addr aux : Word) (eng fetch : Bool) :
    Traps s (.next (takeTrap s s.cur cause addr aux eng fetch)) cause addr aux eng := by
  refine traps_of_trapView ?_
  unfold takeTrap trapFibre
  simp only [h, Bool.false_eq_true, if_false]
  rw [trapView_deliver]
  exact trapView_parkTrap s _

/-- A meaning that ends in a trap without details. -/
theorem finish_trap0_spec (s : State) {cause : Cause} (h : restarts cause = false) : Traps s (finish s (trap0 cause)) cause 0 0 false :=
  takeTrap_spec s h 0 0 false false

end Sys2Proof.Machine
end

section
/-! SUPPORT. The schedule book of a die (R164) and the book instructions (R425, R426). -/

namespace Sys2Proof.Machine

/-! ## A change of a die's book -/

theorem die_modDie_same (s : State) {d : Nat} (h : d < 8) (f : Die → Die) : (s.modDie d f).die d = f (s.die d) := by
  simp [State.die, State.modDie, State.setDie, Vector.getD, h]

theorem die_modDie_ne (s : State) {d e : Nat} (h : e ≠ d) (f : Die → Die) : (s.modDie d f).die e = s.die e := by
  by_cases he : e < 8
  · simp [State.die, State.modDie, State.setDie, Vector.getD, he, h.symm]
  · simp [State.die, Vector.getD, he]

/-- There are eight dies. -/
theorem die_modDie_of_ge (s : State) {d : Nat} (h : 8 ≤ d) (f : Die → Die) (e : Nat) : (s.modDie d f).die e = s.die e := by
  by_cases he : e = d
  · subst he; simp [State.die, Vector.getD, Nat.not_lt_of_le h]
  · exact die_modDie_ne s he f

/-- A change of a book leaves its die's clocks, so every core. -/
@[simp] theorem core_modBook (s : State) (d : Nat) (g : Book → Book) (L : Nat) : (s.modBook d g).core L = s.core L := by
  have hclock (e : Nat) : ((s.modBook d g).die e).cycle = (s.die e).cycle ∧ ((s.modBook d g).die e).resetAt = (s.die e).resetAt := by
    unfold State.modBook
    by_cases hd : d < 8
    · by_cases he : e = d
      · subst he; rw [die_modDie_same s hd]; exact ⟨rfl, rfl⟩
      · rw [die_modDie_ne s he]; exact ⟨rfl, rfl⟩
    · rw [die_modDie_of_ge s (Nat.le_of_not_lt hd)]; exact ⟨rfl, rfl⟩
  obtain ⟨hcycle, hreset⟩ := hclock (dieOf L)
  simp only [State.core, State.cycleOf, hcycle, hreset]
  rfl

theorem bookGo_eq (s : State) (d : Nat) : bookGo s d = s.modBook d afterGo := by
  unfold bookGo
  congr 1; funext b
  cases hb : b.state with
  | held => cases hc : b.ckhold <;> simp [afterGo, hb, hc]
  | _ => simp [afterGo, hb]

theorem bookPause_eq (s : State) (d : Nat) : bookPause s d = s.modBook d afterPause := by
  unfold bookPause
  congr 1; funext b
  cases hb : b.state <;> simp [afterPause, hb]

/-! ## Going on after a change outside the issuing core -/

@[simp] theorem mem_advance (s : State) : s.advance.mem = s.mem := by
  rw [State.advance, goto_eq, mem_modCore]

@[simp] theorem die_advance (s : State) (d : Nat) : s.advance.die d = s.die d := by
  simp only [State.advance, State.die, goto_eq, dies_modCore]

theorem goesOn_advance (s : State) : GoesOn s s.advance := by
  obtain ⟨t, ht, -, hgoes⟩ := advance_spec s
  cases ht
  exact hgoes

/-- Going on is about the issuing chain and core alone. -/
theorem goesOn_congr {s u t : State} (hcur : u.cur = s.cur) (hcore : u.core s.L = s.core s.L) (h : GoesOn u t) : GoesOn s t := by
  have hL : u.L = s.L := congrArg Issue.core hcur
  have hhere : u.here = s.here := by rw [State.here, hL, hcore]; rfl
  have hplane : u.plane = s.plane := by
    simp only [State.plane, State.fibre, State.onShadow, State.slot, hL, hhere, hcur]
  have hnext : u.nextPc = s.nextPc := by simp only [State.nextPc, hcur]
  have hc : s.plane.core u = s.plane.core s := hcore
  simpa only [GoesOn, Plane.Keeps, Plane.a, Plane.flags, Plane.pc, Plane.fib, hplane, hnext, hc] using h

/-! ## BKGO and BKPAUSE -/

/-- A check without details, and what comes after it. -/
theorem need_bind {α : Type} (p : Prop) [Decidable p] (c : Cause) (k : Unit → Chk α) :
    (need (decide p) c >>= k) = if p then k () else trap0 c := by
  by_cases h : p
  · exact (congrArg (need · c >>= k) (decide_eq_true h)).trans (if_pos h).symm
  · exact (congrArg (need · c >>= k) (decide_eq_false h)).trans (if_neg h).symm

/-- The checks of R426, in order: an EMPTY book has no owning context. -/
theorem bookMine_eq (s : State) :
    bookMine s = if (s.die (dieOf s.L)).book.state ≠ .empty then
        if (s.die (dieOf s.L)).book.ctx.toNat = s.myCtx then .ok (dieOf s.L) else trap0 0x0F7
      else trap0 0x0F8 :=
  (need_bind _ 0x0F8 _).trans (ite_congr rfl (fun _ => need_bind _ 0x0F7 _) fun _ => rfl)

/-- A command that changes the book of the core's die, after the checks. -/
theorem commandsBook_spec (s : State) (hL : s.L < 6144) (g : Book → Book) :
    CommandsBook s (finish s do return (s.modBook (← bookMine s) g).advance) g := by
  have hd : dieOf s.L < 8 := by unfold dieOf; omega
  rw [bookMine_eq]
  unfold CommandsBook
  extract_lets d
  by_cases he : (s.die d).book.state = .empty
  · rw [if_neg (not_not_intro he), if_pos he]
    exact finish_trap0_spec s (cause := 0x0F8) (by decide)
  · rw [if_pos he, if_neg he]
    by_cases hc : (s.die d).book.ctx.toNat = s.myCtx
    · rw [if_pos hc, if_neg (not_not_intro hc)]
      refine ⟨(s.modBook d g).advance, rfl, ?_, ?_, ?_, fun e he => ?_⟩
      · exact goesOn_congr (cur_modDie s d _) (core_modBook s d g s.L) (goesOn_advance _)
      · rw [mem_advance, State.modBook, mem_modDie]
      · rw [die_advance, State.modBook, die_modDie_same s hd]
      · rw [die_advance, State.modBook, die_modDie_ne s he]
    · rw [if_neg hc, if_pos hc]
      exact finish_trap0_spec s (cause := 0x0F7) (by decide)

theorem execBkgo_spec (s : State) (hL : s.L < 6144) : CommandsBook s (execBkgo s) afterGo := by
  unfold execBkgo
  simp only [bookGo_eq]
  exact commandsBook_spec s hL afterGo

theorem execBkpause_spec (s : State) (hL : s.L < 6144) : CommandsBook s (execBkpause s) afterPause := by
  unfold execBkpause
  simp only [bookPause_eq]
  exact commandsBook_spec s hL afterPause

/-! ## BKINFO and BKSTEP -/

/-- The word of BKINFO (R425). -/
def BookTask.info (b : BookTask) : Word :=
  fields [(b.entry.toNat, 0), (b.kind.toNat, 10), (b.slot.toNat, 12), (b.stage.toNat, 18), (b.mb.toNat, 26), (b.die.toNat, 42)]

/-- Six fields of a word as a sum. The positions are variables: the kernel, comparing the two sides, would count out a power of 2. -/
theorem fields_six (u v w x y z i j k l m n : Nat) :
    fields [(u, i), (v, j), (w, k), (x, l), (y, m), (z, n)]
      = BitVec.ofNat 64 (0 + u * 2 ^ i + v * 2 ^ j + w * 2 ^ k + x * 2 ^ l + y * 2 ^ m + z * 2 ^ n) := rfl

/-- A bit field of a word given by its number. -/
theorem extractLsb'_ofNat_eq_iff {n k w : Nat} (hn : n < 2 ^ 64) (x : BitVec w) :
    (BitVec.ofNat 64 n).extractLsb' k w = x ↔ n / 2 ^ k % 2 ^ w = x.toNat := by
  rw [← BitVec.toNat_inj, BitVec.extractLsb'_toNat, BitVec.toNat_ofNat, Nat.mod_eq_of_lt hn, Nat.shiftRight_eq_div_pow]

/-- The fields of the word do not overlap, and its high bits are 0. -/
theorem BookTask.info_fields (b : BookTask) :
    b.info.extractLsb' 0 10 = b.entry ∧ b.info.extractLsb' 10 2 = b.kind ∧ b.info.extractLsb' 12 6 = b.slot
      ∧ b.info.extractLsb' 18 8 = b.stage ∧ b.info.extractLsb' 26 16 = b.mb ∧ b.info.extractLsb' 42 3 = b.die
      ∧ b.info.extractLsb' 45 19 = 0 := by
  have hentry := b.entry.isLt
  have hkind := b.kind.isLt
  have hslot := b.slot.isLt
  have hstage := b.stage.isLt
  have hmb := b.mb.isLt
  have hdie := b.die.isLt
  rw [BookTask.info, fields_six]
  have hzero : (0 : BitVec 19).toNat = 0 := rfl
  refine ⟨?_, ?_, ?_, ?_, ?_, ?_, ?_⟩ <;> rw [extractLsb'_ofNat_eq_iff (by omega)] <;> omega

theorem execBkinfo_traps {s : State} (d : GReg) (h : s.bookTask = none) : Traps s (execBkinfo d s) 0x0F9 0 0 false := by
  rw [execBkinfo, h]
  exact finish_trap0_spec s (by decide)

theorem execBkstep_traps {s : State} (d : GReg) (h : s.bookTask = none) : Traps s (execBkstep d s) 0x0F9 0 0 false := by
  rw [execBkstep, h]
  exact finish_trap0_spec s (by decide)

theorem execBkinfo_gives {s : State} {b : BookTask} (d : GReg) (h : s.bookTask = some b) :
    GivesResult s (execBkinfo d s) 1 d b.info := by
  rw [execBkinfo, h]
  exact result_spec s 1 d b.info

theorem execBkstep_gives {s : State} {b : BookTask} (d : GReg) (h : s.bookTask = some b) :
    GivesResult s (execBkstep d s) 1 d (b.step.setWidth 64) := by
  rw [execBkstep, h]
  exact result_spec s 1 d (b.step.setWidth 64)

/-- Settles O31: outside a book task BKINFO and BKSTEP trap, and in one they give a result, whose fields BKINFO's word keeps apart; the two
commands pass the checks in order and change the book of the core's die alone. -/
theorem bookInstructionsReadAndCommand : Obligations.BookInstructionsReadAndCommand :=
  ⟨fun _ d h => ⟨execBkinfo_traps d h, execBkstep_traps d h⟩,
    fun _ d b h => ⟨execBkstep_gives d h, b.info, execBkinfo_gives d h, b.info_fields⟩, execBkgo_spec, execBkpause_spec⟩

end Sys2Proof.Machine
end
